-- ==== Sys2Proof/Word.lean ====
section
/-! DEFINITION. The part's words and the numbers of its seats, links and carriers (spec/00_scope, Conventions and Terms). -/

namespace Sys2Proof

/-- One byte of a RAM word or of a link character. -/
abbrev Byte := BitVec 8

/-- One word of the Exchange RAM or of the register window: 16 bits. -/
abbrev Word := BitVec 16

/-- A reading of the part clock, the 32-bit millisecond count (R1, R45). -/
abbrev Clock := BitVec 32

/-- A seat number, 0 to 511. -/
abbrev Seat := Fin 512

/-- A report link, RL0 to RL7. -/
abbrev LinkId := Fin 8

/-- A radio channel of one receiver, 0 to 63. -/
abbrev Channel := Fin 64

/-- Every seat number, in ascending order. -/
abbrev allSeats : List Seat := List.finRange 512

/-- Every link, RL0 first. -/
abbrev allLinks : List LinkId := List.finRange 8

end Sys2Proof
end

