-- ==== Sys2Proof/Syntax.lean ====
section
/-! DEFINITION. The commands of the part: one constructor for each row of spec/opcode_table.json. -/

namespace Sys2Proof

/-- The two order pages (R142). -/
inductive Page where
  | a
  | b
deriving DecidableEq, Repr

/-- The five registers of the window (R164, R179). -/
inductive Register where
  | control
  | status
  | faultAddress
  | faultKind
  | ident
deriving DecidableEq, Repr

/-- A command: an access of the host, an event of a link, of time or of the part's own work.
An order row takes its operands from the slot in hand (R146), so its constructor has none (log 4). -/
inductive Instr where
  /-- POWER_ON_RESET (R172). -/
  | powerOnReset
  /-- CLEARING_DONE (R172). -/
  | clearingDone
  /-- RUN: a CONTROL write with command field 1 and these cause enables (R171). -/
  | run (enables : BitVec 7)
  /-- STOP: a CONTROL write with command field 2 and these cause enables (R171, R175). -/
  | stop (enables : BitVec 7)
  /-- SOFT_RESET: a CONTROL write with command field 3 and these cause enables (R171, R176). -/
  | softReset (enables : BitVec 7)
  /-- SET_CAUSE_ENABLES: a CONTROL write with command field 0 (R170, R171). -/
  | setCauseEnables (enables : BitVec 7)
  /-- STATUS_WRITE: the word written to STATUS (R170). -/
  | statusWrite (value : Word)
  /-- FAULT_KIND_WRITE: the word written to FAULT KIND (R169). -/
  | faultKindWrite (value : Word)
  /-- REGISTER_WRITE: a write to a register without a behaviour of its own (R164). -/
  | registerWrite (reg : Register) (value : Word)
  /-- HOST_RAM_READ (R166). -/
  | hostRamRead (addr : BitVec 14)
  /-- HOST_RAM_WRITE (R167). -/
  | hostRamWrite (addr : BitVec 14) (value : Word)
  /-- PAGE_STATE_WRITE: a host write to the state word of a page (R143). -/
  | pageStateWrite (page : Page) (value : Word)
  /-- TAKEN_COUNT_WRITE: a host write to the taken count word (R161). -/
  | takenCountWrite (value : Word)
  /-- CHECKING_END (R174). -/
  | checkingEnd
  /-- STOPPING_END (R175). -/
  | stoppingEnd
  /-- GAP: one character time of idle on a receive line (R26). -/
  | gap (link : LinkId)
  /-- LINK_TIMER_EXPIRY (R34). -/
  | linkTimerExpiry (link : LinkId)
  /-- REPORT_TAKE: the Seat Store takes the report held by a link (R19). -/
  | reportTake (link : LinkId)
  /-- TRANSMIT_START (R38). -/
  | transmitStart (link : LinkId)
  /-- COMMAND_FRAME_COMPLETION (R39). -/
  | commandFrameCompletion (link : LinkId)
  /-- SPACING_END (R39). -/
  | spacingEnd (link : LinkId)
  /-- SCAN_EXPIRY (R47). -/
  | scanExpiry
  /-- SEAT_EVALUATION: the pass evaluates its next active seat (R52). -/
  | seatEvaluation
  /-- FADE_WINDOW_ROLLOVER: a seat's evaluation in which the fade window rolls over (R85; log 5). -/
  | fadeWindowRollover (seat : Seat)
  /-- HISTORY_SAMPLE: a seat's evaluation in which a history sample is taken (R108; log 5). -/
  | historySample (seat : Seat)
  /-- CONFIRMATION_DEADLINE_EXPIRY: a seat's evaluation in which its deadline expires (R132; log 5). -/
  | confirmationDeadlineExpiry (seat : Seat)
  /-- BOARD_WRITE: the oldest write of the seat's entry that is in progress or waiting (R156). -/
  | boardWrite (seat : Seat)
  /-- TAKE_PAGE (R145). -/
  | takePage
  /-- LOAD_SEAT (R7). -/
  | loadSeat
  /-- LOAD_RANGE (R16). -/
  | loadRange
  /-- ACKNOWLEDGE_ALL (R78). -/
  | acknowledgeAll
  /-- BULK_SLICE (R149). -/
  | bulkSlice
  /-- RELOAD_CLASSES (R73). -/
  | reloadClasses
  /-- ACKNOWLEDGE (R76). -/
  | acknowledge
  /-- RESET_WARNINGS (R79). -/
  | resetWarnings
  /-- GRANT_FLOOR (R122). -/
  | grantFloor
  /-- REVOKE_FLOOR (R124). -/
  | revokeFloor
  /-- CLEAR_FLOOR (R125). -/
  | clearFloor
  /-- SET_FLOOR_RULES (R126). -/
  | setFloorRules
  /-- RESTART_ESTIMATOR (R107). -/
  | restartEstimator
  /-- LIFT_LOCK (R152). -/
  | liftLock
  /-- CLEAR_LINK_COUNTS (R32). -/
  | clearLinkCounts
  /-- UNKNOWN_ORDER_KIND (R146). -/
  | unknownOrderKind
  /-- PAGE_END (R147). -/
  | pageEnd
  /-- CHARACTER_RECEIVED: the data byte, the parity bit and the level of the stop bit (R25, R26). -/
  | characterReceived (link : LinkId) (data : Byte) (parityBit stopBit : Bool)
  /-- PART_CLOCK_TICK: one millisecond (R45). -/
  | partClockTick
deriving DecidableEq, Repr

end Sys2Proof
end

