-- ==== Sys2Proof/Decode.lean ====
section
/-! DEFINITION. The commands that words spell. spec/opcode_table.json gives none of its rows a bit ("fields": [], no
"fixed"), so no word spells a command and every word is refused (log 18). -/

namespace Sys2Proof

/-- The command that `nbits` bits holding `w` spell: the table gives no row any bits, so none. -/
def decodeTableWord (_nbits _w : Nat) : Option Instr := none

end Sys2Proof
end

