-- ==== Sys2Proof/Machine/State.lean ====
section
/-! DEFINITION. The state of the part: what each of its ten blocks owns (spec/00_scope, Block overview), as plain data,
and its value after power-on reset. -/

namespace Sys2Proof.Machine

/-- The part states (10_exchange_port_and_part_states 10.7). -/
inductive PartState where
  | clearing
  | halted
  | checking
  | running
  | stopping
deriving DecidableEq, Repr

/-- The start results of STATUS (R185). -/
inductive StartResult where
  | noResult
  | ok
  | directoryRange
  | regionOverlap
  | seatCount
  | listCapacity
  | pageState
  | ramFault
  | noLink
deriving DecidableEq, Repr

/-- The kinds of a held fault (R169). -/
inductive FaultKind where
  | parity
  | hostParity
  | writeRefused
  | stateRefused
  | markRange
deriving DecidableEq, Repr

/-- What the fault latch holds: a word address, a kind and the MULTIPLE flag (R169). -/
structure HeldFault where
  addr : Nat
  kind : FaultKind
  multiple : Bool
deriving DecidableEq, Repr

/-- A host RAM access held off by the wait line during CLEARING (R165). -/
inductive HostAccess where
  | read (addr : BitVec 14)
  | write (addr : BitVec 14) (value : Word)
deriving DecidableEq, Repr

/-- What one read of a RAM word by the part returned: where, what, and whether a byte of it had bad parity (R166). -/
structure ReadWord where
  addr : Nat
  value : Word
  bad : Bool
deriving DecidableEq, Repr

/-- The seat count and the region bases in force: those of the last successful start (R167, R173). -/
structure Layout where
  seatCount : Nat
  seatTable : Nat
  board : Nat
  changeList : Nat
  classTable : Nat
  curveTable : Nat
  pageArea : Nat
deriving DecidableEq, Repr

/-- The link states (R33). -/
inductive LinkState where
  | disabled
  | down
  | up
deriving DecidableEq, Repr

/-- The states of a frame assembler (R26). -/
inductive AssemblerState where
  | sync
  | idle
  | collecting
  | overflow
deriving DecidableEq, Repr

/-- A stored character of a run with its two error marks (R26). -/
structure RunByte where
  data : Byte
  stopError : Bool
  parityError : Bool
deriving DecidableEq, Repr

/-- A run: its first ten characters, the count of all of them, and the marks of the run as a whole (R26). -/
structure Run where
  bytes : List RunByte
  count : Nat
  stopMark : Bool
  parityMark : Bool
deriving DecidableEq, Repr

/-- A seat report as the holding slot keeps it (R28). -/
structure Report where
  channel : Channel
  txId : Word
  rf : Byte
  pilot : Bool
  muted : Bool
  fresh : Bool
  battValid : Bool
  audio : Byte
  reading : BitVec 10
deriving DecidableEq, Repr

/-- The frame in flight: its seat, its cancelled mark and the six bytes built for it (R38). -/
structure Frame where
  seat : Seat
  cancelled : Bool
  bytes : List Byte
deriving DecidableEq, Repr

/-- The states of a link's transmitter (R38). -/
inductive Transmitter where
  | idle
  | sending (frame : Frame)
  | spacing
deriving DecidableEq, Repr

/-- One report link (02_report_links). -/
structure Link where
  enabled : Bool
  divisor : Nat
  timeout : Nat
  state : LinkState
  timer : Option Clock
  assembler : AssemblerState
  run : Run
  slot : Option Report
  counters : Vector Nat 11
  errorsSeen : Bool
  queue : List Seat
  deferred : List Seat
  tx : Transmitter
deriving DecidableEq, Repr

/-- The latest sample of a seat (R3). -/
structure Sample where
  rf : Nat
  pilot : Bool
  muted : Bool
  audio : Nat
deriving DecidableEq, Repr

/-- The silence causes (R23). -/
inductive SilenceCause where
  | noCause
  | noReports
  | linkDown
  | foreignUnit
deriving DecidableEq, Repr

/-- The Seat Store's context of a seat (R3). -/
structure Context where
  active : Bool
  locked : Bool
  priority : Bool
  cls : Fin 4
  curve : Fin 4
  link : LinkId
  channel : Channel
  txId : Word
  sample : Option Sample
  lastReport : Clock
  foreignSeen : Bool
  silence : SilenceCause
deriving DecidableEq, Repr

/-- The states of a monitor (04_condition_monitors_and_warning_classes 4.2). -/
inductive MonitorState where
  | clear
  | onset
  | raised
  | noted
  | easing
  | lapsed
deriving DecidableEq, Repr

/-- A monitor: its state, its counter n, its acknowledged flag and its REPEAT flag (R60). -/
structure Monitor where
  state : MonitorState
  n : Nat
  ack : Bool
  rep : Bool
deriving DecidableEq, Repr

/-- The Signal Tracker's values of a seat (05_signal_conditions 5.1). -/
structure Tracker where
  dropoutStart : Option Clock
  onsets : Nat
  prevOnsets : Nat
  windowStart : Clock
deriving DecidableEq, Repr

/-- The outcomes of the estimate's computation (R110). -/
inductive EstimateResult where
  | warming
  | notDischarging
  | capped
  | valid
deriving DecidableEq, Repr

/-- The estimate statuses (R111). -/
inductive EstimateStatus where
  | noData
  | profileFault
  | warming
  | notDischarging
  | capped
  | valid
deriving DecidableEq, Repr

/-- The battery estimator of a seat (R98). The history stands oldest first. -/
structure Estimator where
  seeded : Bool
  f : Nat
  v : Nat
  charge : Nat
  missing : Bool
  history : List (Clock × Nat)
  nextSample : Clock
  result : EstimateResult
  minutes : Nat
  status : EstimateStatus
  genSeen : Word
deriving DecidableEq, Repr

/-- What the part wants a transmitter to be (R118). -/
inductive Intent where
  | muted
  | opened
deriving DecidableEq, Repr

/-- The states of a mute channel (07_floor_and_mute_control 7.4). -/
inductive ChannelState where
  | settled
  | sending
  | awaiting
  | unconfirmed
deriving DecidableEq, Repr

/-- The number of the current sending of an intent: 1 or 2. -/
inductive Attempt where
  | first
  | second
deriving DecidableEq, Repr

/-- The mute channel of a seat (R128). -/
structure MuteChannel where
  intent : Intent
  state : ChannelState
  attempt : Attempt
  deadline : Option Clock
deriving DecidableEq, Repr

/-- The Board Writer's values of a seat (09_warning_board_and_change_list). -/
structure BoardSeat where
  stamp : Word
  changedAt : Clock
  listed : Bool
  relistDue : Bool
  owed : Bool
deriving DecidableEq, Repr

/-- Everything the part keeps for one seat, block by block. -/
structure SeatState where
  ctx : Context
  monitors : Vector Monitor 8
  tracker : Tracker
  estimator : Estimator
  channel : MuteChannel
  board : BoardSeat
deriving DecidableEq, Repr

/-- A warning class (R70). Times are in ms but for the fade window, in s, and the minutes. -/
structure WarningClass where
  raiseCounts : Vector Nat 8
  clearCounts : Vector Nat 8
  silenceTime : Nat
  lostTime : Nat
  confirmTime : Nat
  weakLevel : Nat
  speechLevel : Nat
  dropoutLimit : Nat
  fadeWindow : Nat
  lowMinutes : Nat
  critMinutes : Nat
  lowCharge : Nat
  critCharge : Nat
deriving DecidableEq, Repr, Inhabited

/-- A discharge curve (R95). Its generation stands apart, in the state's `generations`; its faulty mark is computed
from the breakpoints and charges (R97). -/
structure Curve where
  volts : Vector Nat 8
  charges : Vector Nat 8
  shift : Nat
  swapStep : Nat
  period : Nat
  hysteresis : Nat
deriving DecidableEq, Repr, Inhabited

/-- The floor policy (R119). -/
inductive FloorPolicy where
  | refuse
  | displace
deriving DecidableEq, Repr

/-- The states of an order page (R142). -/
inductive PageState where
  | free
  | posted
  | taken
  | aborting
  | done
deriving DecidableEq, Repr

/-- The summaries of a finished page (R147, R182). -/
inductive Summary where
  | complete
  | refusals
  | sequenceFault
  | aborted
  | stopped
  | ramFault
deriving DecidableEq, Repr

/-- The result codes of an order (R182). -/
inductive ResultCode where
  | ok
  | already
  | displaced
  | seatRange
  | seatInactive
  | locked
  | notLocked
  | notOnFloor
  | floorFull
  | floorBusy
  | badRecord
  | carrierTaken
  | rangeBusy
  | nestedBulk
  | ramFault
  | skipped
  | aborted
  | sequenceFault
deriving DecidableEq, Repr

/-- The two bulk orders; ACKNOWLEDGE ALL carries its condition mask (R78, R149). -/
inductive BulkKind where
  | loadRange
  | ackAll (mask : Byte)
deriving DecidableEq, Repr

/-- A bulk order in hand: the cursor (next seat number), the seat number after its last, the cursor's suspended mark,
whether the order stands at a slice boundary, and what its owner has counted so far (R17, R78, R149). -/
structure Bulk where
  kind : BulkKind
  cursor : Nat
  stop : Nat
  suspendedMark : Bool
  atBoundary : Bool
  /-- the seat number after the last of the slice in progress, or of the last slice at a boundary (the model's own) -/
  sliceEnd : Nat
  /-- seats loaded (R17) or acknowledged (R78) -/
  handled : Nat
  /-- seats skipped for their lock (R17), or in which the acknowledgement changed a monitor (R78) -/
  second : Nat
  /-- seats refused (R17) -/
  refused : Nat
  /-- the code of the lowest-numbered seat skipped or refused (R17) -/
  firstBad : Option ResultCode
deriving DecidableEq, Repr

/-- The Order Unit's place in a page it has taken: the count it read, the slot in hand, whether that slot's index has
been written to the progress word, whether any result so far was a refusal, the seat word to which a LIFT LOCK binds
the slot, the bulk order in hand, and the summary that a fault or an abort has already decided (R145 to R152). -/
structure PageWork where
  /-- which taking of a page this is (the model's own; log 27) -/
  taking : Nat
  page : Page
  count : Nat
  slot : Nat
  begun : Bool
  refusals : Bool
  bound : Option Word
  bulk : Option Bulk
  ending : Option Summary
deriving DecidableEq, Repr

/-- An access to the RAM that the order in hand has asked for: the taking of the page, the slot, whether the slot has
begun, the bulk cursor, and the words its reading has returned. Two accesses of the Order Unit never share one (the
model's own; log 27). -/
structure OrderRequest where
  taking : Nat
  slot : Nat
  begun : Bool
  cursor : Nat
  read : Nat
deriving DecidableEq, Repr

/-- A board write in progress or waiting: the ten body words were taken in the event that made it (R157); `written`
counts the words of the entry written so far (R156). -/
structure BoardEntry where
  seat : Seat
  change : Bool
  body : List Word
  written : Nat
  /-- the order's access that was waiting already when this write asked for its next word (the model's own; log 27) -/
  behind : Option OrderRequest
deriving DecidableEq, Repr

/-- No command of this model ends in a fault: what the manual calls a fault is an entry of the fault latch, which is
state (R169). The type has no constructor, so exec cannot answer one. -/
inductive Fault where
deriving DecidableEq, Repr

/-- The refusals. -/
inductive Refusal where
  /-- Raised by an arm of exec for a command that has no meaning yet. No arm raises it now. Safe: the machine stops. -/
  | notModelled (mnemonic : String)
deriving DecidableEq, Repr

/-- The state of the part, block by block, behind the queue of waiting commands. -/
structure State where
  /-- the commands that wait, the next one first (the model's own) -/
  pending : List Instr
  part : PartState
  startResult : StartResult
  /-- bit i is the cause of STATUS bit 8 + i (R179) -/
  causes : BitVec 7
  /-- bit i enables the cause of bit i (R179) -/
  enables : BitVec 7
  faultLatch : Option HeldFault
  /-- the bytes that are not 0, by rising byte address; word a is bytes 2a (low) and 2a + 1 (high) -/
  ram : List Host.Cell
  /-- the byte addresses, rising, whose parity bit is wrong -/
  badParity : List Nat
  /-- the next word that CLEARING writes -/
  clearNext : Nat
  held : List HostAccess
  readData : Word
  layout : Layout
  /-- what the reading in progress has returned so far -/
  reads : List ReadWord
  linesQuiet : Bool
  orderQuiet : Bool
  links : Vector Link 8
  seats : Vector SeatState 512
  /-- the Carrier Map; carrier (L, c) stands at 64 L + c (R5) -/
  carriers : Vector (Option Seat) 512
  clock : Clock
  scanPeriod : Nat
  refreshInterval : Nat
  scanTimer : Option Clock
  /-- none: IDLE; some k: IN FLIGHT with next seat k -/
  pass : Option Nat
  refreshPass : Bool
  countdown : Nat
  passCount : Word
  lateCount : Nat
  classes : Option (Vector WarningClass 4)
  curves : Option (Vector Curve 4)
  generations : Vector Word 4
  roster : List Seat
  floorLimit : Nat
  floorPolicy : FloorPolicy
  pageA : PageState
  pageB : PageState
  posting : List Page
  worked : Option PageWork
  suspended : Option PageWork
  lift : Option Seat
  changeList : List Seat
  writePos : Nat
  fillCount : Word
  takenCount : Word
  owedCount : Nat
  capacity : Nat
  boardWrites : List BoardEntry
  /-- how many times the Order Unit has taken a page (the model's own; log 27) -/
  takings : Nat
deriving DecidableEq, Repr

/-- An empty run (R26, R44). -/
def emptyRun : Run := { bytes := [], count := 0, stopMark := false, parityMark := false }

/-- A link after reset (R44). -/
def resetLink : Link :=
  { enabled := false, divisor := 0, timeout := 50, state := .disabled, timer := none, assembler := .sync,
    run := emptyRun, slot := none, counters := Vector.replicate 11 0, errorsSeen := false, queue := [],
    deferred := [], tx := .idle }

/-- The fixed CLEAR state of a monitor (R60). -/
def clearMonitor : Monitor := { state := .clear, n := 0, ack := false, rep := false }

/-- The seat context after reset (R4). -/
def resetContext : Context :=
  { active := false, locked := false, priority := false, cls := 0, curve := 0, link := 0, channel := 0, txId := 0,
    sample := none, lastReport := 0, foreignSeen := false, silence := .noCause }

/-- The restarted form of an estimator, with the generation it records (R98, R104). -/
def restartedEstimator (gen : Word) : Estimator :=
  { seeded := false, f := 0, v := 0, charge := 0, missing := false, history := [], nextSample := 0,
    result := .warming, minutes := 0, status := .noData, genSeen := gen }

/-- The mute channel after reset and after deactivation (R128). -/
def settledChannel : MuteChannel := { intent := .muted, state := .settled, attempt := .first, deadline := none }

/-- A seat after reset (R4, R60, R81, R98, R128, R156, R163). -/
def resetSeat : SeatState :=
  { ctx := resetContext
    monitors := Vector.replicate 8 clearMonitor
    tracker := { dropoutStart := none, onsets := 0, prevOnsets := 0, windowStart := 0 }
    estimator := restartedEstimator 0
    channel := settledChannel
    board := { stamp := 0, changedAt := 0, listed := false, relistDue := false, owed := false } }

/-- The layout before any start: nothing of the spec reads it then (log 15). -/
def resetLayout : Layout :=
  { seatCount := 0, seatTable := 0, board := 0, changeList := 0, classTable := 0, curveTable := 0, pageArea := 0 }

/-- The part right after power-on reset: CLEARING, every block at its reset value (R172). -/
def State.reset : State :=
  { pending := []
    part := .clearing
    startResult := .noResult
    causes := 0
    enables := 0
    faultLatch := none
    ram := []
    badParity := []
    clearNext := 0
    held := []
    readData := 0
    layout := resetLayout
    reads := []
    linesQuiet := false
    orderQuiet := false
    links := Vector.replicate 8 resetLink
    seats := Vector.replicate 512 resetSeat
    carriers := Vector.replicate 512 none
    clock := 0
    scanPeriod := 5
    refreshInterval := 1
    scanTimer := none
    pass := none
    refreshPass := false
    countdown := 1
    passCount := 0
    lateCount := 0
    classes := none
    curves := none
    generations := Vector.replicate 4 0
    roster := []
    floorLimit := 1
    floorPolicy := .refuse
    pageA := .free
    pageB := .free
    posting := []
    worked := none
    suspended := none
    lift := none
    changeList := []
    writePos := 0
    fillCount := 0
    takenCount := 0
    owedCount := 0
    capacity := 16
    boardWrites := []
    takings := 0 }

end Sys2Proof.Machine
end

