-- ==== Sys2Proof/Config.lean ====
section
/-! DEFINITION. The free values of the model. -/

namespace Sys2Proof

/-- What a class read from an empty Class Store is: the spec gives an empty store no values and no rule reads one
(R70). Nothing is assumed of it (log 14). -/
opaque Config.emptyClass : Fin 4 → Machine.WarningClass

/-- What a curve read from an empty Curve Store is (R95; log 14). -/
opaque Config.emptyCurve : Fin 4 → Machine.Curve

end Sys2Proof
end

