-- ==== Sys2Proof/Machine/Fields.lean ====
section
/-! DEFINITION. The arithmetic of the part (R1, R2), bit fields (R177) and the code tables of
spec/11_register_record_and_frame_layouts. -/

namespace Sys2Proof.Machine

/-! Part-clock arithmetic -/

/-- The elapsed time from the reading `t` to the reading `now`: the difference modulo 2^32 (R1). -/
def elapsed (t now : Clock) : Nat := (now - t).toNat

/-- "The part clock has reached t": the elapsed time from `t` to `now` is less than 2^31 (R1). -/
def reached (t now : Clock) : Bool := elapsed t now < 2147483648

/-- The age beyond which a stored reading is moved forward: 1,000,000,000 ms (R53, R86, R109). -/
def ageLimit : Nat := 1000000000

/-- A stored reading whose elapsed time exceeds the limit is moved forward to the part clock less the limit (R53, R86). -/
def aged (t now : Clock) : Clock := if ageLimit < elapsed t now then now - BitVec.ofNat 32 ageLimit else t

/-! Clamping and saturation (R2) -/

/-- `x` replaced by the nearer end of the range when it lies outside (R2). -/
def clampTo (lo hi x : Nat) : Nat := if x < lo then lo else if hi < x then hi else x

/-- One more, unless the counter already stands at its largest value (R2). -/
def satSucc (top x : Nat) : Nat := if x < top then x + 1 else x

/-! Bit fields -/

/-- The low byte of a word. -/
def lowByte (w : Word) : Nat := w.toNat % 256

/-- The high byte of a word. -/
def highByte (w : Word) : Nat := w.toNat / 256

/-- The field of `width` bits of `w` whose low bit is bit `lo`. -/
def field (w : Word) (lo width : Nat) : Nat := w.toNat / 2 ^ lo % 2 ^ width

/-- A word of the part's own from a number. -/
def word (n : Nat) : Word := BitVec.ofNat 16 n

/-- The word with `lo` in bits 7:0 and `hi` in bits 15:8. -/
def wordOfBytes (lo hi : Nat) : Word := word (lo % 256 + 256 * (hi % 256))

/-- 1 for set, 0 for clear. -/
def bit (b : Bool) : Nat := if b then 1 else 0

/-- The low half of a part-clock reading (00_scope, Words and addresses). -/
def lowHalf (t : Clock) : Word := BitVec.ofNat 16 t.toNat

/-- The high half of a part-clock reading. -/
def highHalf (t : Clock) : Word := BitVec.ofNat 16 (t.toNat / 65536)

/-- How many of the eight data bits are one (R25). -/
def onesOf (d : Byte) : Nat := (List.range 8).countP (fun i => d.getLsbD i)

/-- The number whose bit i is the i-th flag of the list: a mask of monitors, links, classes or curves. -/
def maskOf : List Bool → Nat
  | [] => 0
  | b :: bs => bit b + 2 * maskOf bs

/-! Code tables -/

/-- The part state field of STATUS (R179). -/
def PartState.code : PartState → Nat
  | .clearing => 0
  | .halted => 1
  | .checking => 2
  | .running => 3
  | .stopping => 4

/-- The start codes (R185). -/
def StartResult.code : StartResult → Nat
  | .noResult => 0
  | .ok => 1
  | .directoryRange => 2
  | .regionOverlap => 3
  | .seatCount => 4
  | .listCapacity => 5
  | .pageState => 6
  | .ramFault => 7
  | .noLink => 8

/-- The fault kinds of FAULT KIND (R179). -/
def FaultKind.code : FaultKind → Nat
  | .parity => 1
  | .hostParity => 2
  | .writeRefused => 3
  | .stateRefused => 4
  | .markRange => 5

/-- The page states in a state word (R182). -/
def PageState.code : PageState → Nat
  | .free => 0
  | .posted => 1
  | .taken => 2
  | .aborting => 3
  | .done => 4

/-- The page state that a state word spells as a full word, if any (R182). -/
def pageStateOfWord (w : Word) : Option PageState :=
  match w.toNat with
  | 0 => some .free
  | 1 => some .posted
  | 2 => some .taken
  | 3 => some .aborting
  | 4 => some .done
  | _ => none

/-- The summary codes of a summary word's bits 2:0 (R182). -/
def Summary.code : Summary → Nat
  | .complete => 0
  | .refusals => 1
  | .sequenceFault => 2
  | .aborted => 3
  | .stopped => 4
  | .ramFault => 5

/-- The result codes (R182). -/
def ResultCode.code : ResultCode → Nat
  | .ok => 0x00
  | .already => 0x01
  | .displaced => 0x02
  | .seatRange => 0x10
  | .seatInactive => 0x11
  | .locked => 0x12
  | .notLocked => 0x13
  | .notOnFloor => 0x14
  | .floorFull => 0x15
  | .floorBusy => 0x16
  | .badRecord => 0x17
  | .carrierTaken => 0x18
  | .rangeBusy => 0x19
  | .nestedBulk => 0x1A
  | .ramFault => 0x20
  | .skipped => 0x30
  | .aborted => 0x31
  | .sequenceFault => 0x3F

/-- OK, ALREADY and DISPLACED are the successes of a page's summary (R122, R147). -/
def ResultCode.success : ResultCode → Bool
  | .ok | .already | .displaced => true
  | _ => false

/-- The board code of a monitor's state (R65). -/
def MonitorState.code : MonitorState → Nat
  | .clear => 0
  | .onset => 0
  | .raised => 1
  | .noted => 2
  | .easing => 3
  | .lapsed => 4

/-- The silence cause codes (R183). -/
def SilenceCause.code : SilenceCause → Nat
  | .noCause => 0
  | .noReports => 1
  | .linkDown => 2
  | .foreignUnit => 3

/-- The estimate status codes (R183). -/
def EstimateStatus.code : EstimateStatus → Nat
  | .noData => 0
  | .profileFault => 1
  | .warming => 2
  | .notDischarging => 3
  | .capped => 4
  | .valid => 5

/-- The mute channel state codes (R183). -/
def ChannelState.code : ChannelState → Nat
  | .settled => 0
  | .sending => 1
  | .awaiting => 2
  | .unconfirmed => 3

/-- The intent bit (R183). -/
def Intent.code : Intent → Nat
  | .muted => 0
  | .opened => 1

/-- The attempt bit (R183). -/
def Attempt.code : Attempt → Nat
  | .first => 0
  | .second => 1

/-- The policy field (R180). -/
def FloorPolicy.code : FloorPolicy → Nat
  | .refuse => 0
  | .displace => 1

/-- A policy value of 0 is REFUSE and any other is DISPLACE (R119, R126). -/
def policyOf (n : Nat) : FloorPolicy := if n = 0 then .refuse else .displace

/-! The order kinds (R182) -/

def kindLoadSeat : Word := 0x01#16
def kindLoadRange : Word := 0x02#16
def kindReloadClasses : Word := 0x03#16
def kindGrantFloor : Word := 0x10#16
def kindRevokeFloor : Word := 0x11#16
def kindClearFloor : Word := 0x12#16
def kindSetFloorRules : Word := 0x13#16
def kindAcknowledge : Word := 0x20#16
def kindAcknowledgeAll : Word := 0x21#16
def kindResetWarnings : Word := 0x22#16
def kindRestartEstimator : Word := 0x30#16
def kindLiftLock : Word := 0x40#16
def kindClearLinkCounts : Word := 0x50#16

/-- The thirteen order kinds. -/
def orderKinds : List Word :=
  [kindLoadSeat, kindLoadRange, kindReloadClasses, kindGrantFloor, kindRevokeFloor, kindClearFloor, kindSetFloorRules,
   kindAcknowledge, kindAcknowledgeAll, kindResetWarnings, kindRestartEstimator, kindLiftLock, kindClearLinkCounts]

/-- A kind is known only when the whole word equals one of the thirteen codes (R178). -/
def knownKind (k : Word) : Bool := orderKinds.contains k

/-- The liftable orders: the kinds that a LIFT LOCK may precede (R152). -/
def liftableKind (k : Word) : Bool := k == kindLoadSeat || k == kindRevokeFloor || k == kindResetWarnings

/-! The fixed words of the Exchange Header (R180) -/

def hdrClock : Nat := 32
def hdrPassCount : Nat := 34
def hdrLateCount : Nat := 35
def hdrLinkSummary : Nat := 36
def hdrOwedCount : Nat := 37
def hdrFillCount : Nat := 38
def hdrTakenAccepted : Nat := 39
def hdrRoster : Nat := 41
def hdrRules : Nat := 49

/-- The header word of link L's statistics counter of index i (R180). -/
def hdrCounter (l : LinkId) (i : Nat) : Nat := 64 + 11 * l.val + i

/-! The statistics counters (R30) -/

def ctrGood : Fin 11 := 0
def ctrOverrun : Fin 11 := 1
def ctrFraming : Fin 11 := 2
def ctrParity : Fin 11 := 3
def ctrRunt : Fin 11 := 4
def ctrOverlong : Fin 11 := 5
def ctrBadLead : Fin 11 := 6
def ctrCheck : Fin 11 := 7
def ctrBadChannel : Fin 11 := 8
def ctrUnmapped : Fin 11 := 9
def ctrForeign : Fin 11 := 10

/-! The page layout (R182) -/

/-- The word address of a page's state word. -/
def Layout.pageBase (l : Layout) : Page → Nat
  | .a => l.pageArea
  | .b => l.pageArea + 196

def Layout.stateAddr (l : Layout) (p : Page) : Nat := l.pageBase p
def Layout.countAddr (l : Layout) (p : Page) : Nat := l.pageBase p + 1
def Layout.summaryAddr (l : Layout) (p : Page) : Nat := l.pageBase p + 2
def Layout.progressAddr (l : Layout) (p : Page) : Nat := l.pageBase p + 3

/-- The first word (kind) of slot i: 4 + 6i. -/
def Layout.slotAddr (l : Layout) (p : Page) (i : Nat) : Nat := l.pageBase p + 4 + 6 * i

/-- The open stamp word of seat s's board entry (09_warning_board_and_change_list). -/
def Layout.boardAddr (l : Layout) (s : Seat) : Nat := l.board + 12 * s.val

/-- The other page. -/
def otherPage : Page → Page
  | .a => .b
  | .b => .a

end Sys2Proof.Machine
end

