-- ==== Sys2Proof/Machine/Flags.lean ====
section
/-! DEFINITION. The cause flags, their enables, the notify line, the fault latch and the values that register reads
return (R164, R169, R170, R179). -/

namespace Sys2Proof.Machine

/-- The causes, in the cause bit order of R179. -/
inductive Cause where
  | pageDoneA
  | pageDoneB
  | changes
  | fault
  | link
  | late
  | started
deriving DecidableEq, Repr

/-- The place of a cause in the seven flags: bit i stands at STATUS and CONTROL bit 8 + i (R179). -/
def causeIndex : Cause → Nat
  | .pageDoneA => 0
  | .pageDoneB => 1
  | .changes => 2
  | .fault => 3
  | .link => 4
  | .late => 5
  | .started => 6

/-- The flags with that cause alone. -/
def causeBit (c : Cause) : BitVec 7 := BitVec.ofNat 7 (2 ^ causeIndex c)

/-- Whether a cause is set. -/
def State.causeSet (s : State) (c : Cause) : Bool := s.causes.getLsbD (causeIndex c)

/-- A cause is set; one that is already set stays set (R170). -/
def State.raise (s : State) (c : Cause) : State := { s with causes := s.causes ||| causeBit c }

/-- The notify line is asserted while at least one cause is both set and enabled (R170). -/
def State.notifyAsserted (s : State) : Bool := s.causes &&& s.enables != 0

/-- The wait line is asserted while a host RAM access is held off (R165). -/
def State.waitAsserted (s : State) : Bool := !s.held.isEmpty

/-- The latch after a fault is reported to it (R169): an empty one takes the address and the kind with MULTIPLE clear;
one that holds a fault sets MULTIPLE. -/
def latched (latch : Option HeldFault) (addr : Nat) (kind : FaultKind) : HeldFault :=
  match latch with
  | none => { addr := addr, kind := kind, multiple := false }
  | some f => { f with multiple := true }

/-- A fault is reported to the latch; FAULT is set when it enters an empty one. In CLEARING none is recorded (R169). -/
def State.recordFault (s : State) (addr : Nat) (kind : FaultKind) : State :=
  { s with
    faultLatch := if s.part = .clearing then s.faultLatch else some (latched s.faultLatch addr kind)
    causes := if s.part = .clearing ∨ s.faultLatch.isSome then s.causes else s.causes ||| causeBit .fault }

/-- A write to FAULT KIND empties the latch, MULTIPLE with it, and clears the FAULT cause (R169). -/
def State.clearLatch (s : State) : State :=
  { s with faultLatch := none, causes := s.causes &&& ~~~ causeBit .fault }

/-- A STATUS write clears each cause flag written 1, except FAULT (R170). -/
def State.clearCauses (s : State) (value : Word) : State :=
  { s with causes := s.causes &&& ~~~ (value.extractLsb' 8 7 &&& ~~~ causeBit .fault) }

/-- What a read of each register returns (R164, R179). Reads change nothing. -/
def State.registerRead (s : State) : Register → Word
  | .control => word (256 * s.enables.toNat)
  | .status => word (s.part.code + 16 * s.startResult.code + 256 * s.causes.toNat)
  | .faultAddress => word ((s.faultLatch.map HeldFault.addr).getD 0)
  | .faultKind =>
    match s.faultLatch with
    | none => 0
    | some f => word (f.kind.code + 32768 * bit f.multiple)
  | .ident => 0x5120#16

end Sys2Proof.Machine
end

