-- ==== Sys2Proof/WellFormed.lean ====
section
/-! DEFINITION. Which commands are spelled by the row they belong to. The operands' ranges are in their types; two rows
also exclude a value that another row of spec/opcode_table.json spells. exec has a meaning for every command, well
formed or not. -/

namespace Sys2Proof

/-- The word address of the taken count, a watched word (R168, R180). -/
def takenCountAddr : Nat := 40

/-- REGISTER_WRITE is the write of a register without a behaviour of its own (R164: FAULT ADDRESS and IDENT), and
HOST_RAM_WRITE goes to an unwatched word (R168), so not to the taken count word. -/
def Instr.wf : Instr → Bool
  | .registerWrite r _ => r == .faultAddress || r == .ident
  | .hostRamWrite a _ => a.toNat != takenCountAddr
  | _ => true

end Sys2Proof
end

