-- ==== Sys2Proof/Machine/Ops.lean ====
section
/-! DEFINITION. The named operations over the RAM, the seats, the links and the stores: every block reaches another's
state through one of these. -/

namespace Sys2Proof.Machine

/-! The Exchange RAM (R165, R166) -/

/-- What an unlisted byte reads as: power-on clearing writes every word to 0 (R172). -/
def unlistedByte : Byte := 0#8

/-- The number of words of the RAM (00_scope). -/
def ramWords : Nat := 16384

/-- The byte at an address. -/
def memGet : List Host.Cell → Nat → Byte
  | [], _ => unlistedByte
  | (k, b) :: rest, a => if k = a then b else memGet rest a

/-- A byte in front of a list of cells, unless it is what an unlisted address reads as. -/
def memCons (a : Nat) (b : Byte) (m : List Host.Cell) : List Host.Cell := if b = unlistedByte then m else (a, b) :: m

/-- The memory with one byte written; the cells stay in rising order and none lists `unlistedByte`. -/
def memPut : List Host.Cell → Nat → Byte → List Host.Cell
  | [], a, b => memCons a b []
  | (k, c) :: rest, a, b =>
    if a < k then memCons a b ((k, c) :: rest)
    else if a = k then memCons a b rest
    else (k, c) :: memPut rest a b

/-- The addresses rise strictly from `lo` on, stay inside the RAM, and no cell lists what an unlisted byte reads as. -/
def Memory.wfFrom (lo : Nat) : List Host.Cell → Bool
  | [] => true
  | (k, b) :: rest => lo ≤ k && k < 2 * ramWords && b != unlistedByte && Memory.wfFrom (k + 1) rest

/-- The canonical form of the memory (log 8). -/
def Memory.wf (m : List Host.Cell) : Bool := Memory.wfFrom 0 m

/-- The word stored at a word address; an address beyond the RAM reads as 0 (log 20). -/
def State.readWord (s : State) (a : Nat) : Word :=
  if a < ramWords then wordOfBytes (memGet s.ram (2 * a)).toNat (memGet s.ram (2 * a + 1)).toNat else 0

/-- Whether either byte of a word has bad parity (R166). -/
def State.wordBad (s : State) (a : Nat) : Bool := s.badParity.contains (2 * a) || s.badParity.contains (2 * a + 1)

/-- A word is written and its parity made good (R166); a write beyond the RAM changes nothing (log 20). -/
def State.putWord (s : State) (a : Nat) (w : Word) : State :=
  { s with
    ram := if a < ramWords then memPut (memPut s.ram (2 * a) (w.extractLsb' 0 8)) (2 * a + 1) (w.extractLsb' 8 8) else s.ram
    badParity := if a < ramWords then s.badParity.filter (fun b => b != 2 * a && b != 2 * a + 1) else s.badParity }

/-- Words written at ascending addresses. -/
def State.putWords (s : State) (a : Nat) : List Word → State
  | [] => s
  | w :: ws => (s.putWord a w).putWords (a + 1) ws

/-- What a part read of a word returns (R166). -/
def State.look (s : State) (a : Nat) : ReadWord := { addr := a, value := s.readWord a, bad := s.wordBad a }

/-- A read of a word by the part: bad parity records a PARITY fault at its address (R166). -/
def State.readChecked (s : State) (a : Nat) : State := if s.wordBad a then s.recordFault a .parity else s

/-- One more word of the reading in progress is read, and kept with its verdict (R6, R72, R73, R173). -/
def State.readOne (s : State) (a : Nat) : State := { s.readChecked a with reads := s.reads ++ [s.look a] }

/-- The reading in progress is carried on to its end: `next` gives the address of the next word from the words read so
far, and none when the reading is over. At most `fuel` words are read. -/
def State.readOn (next : List ReadWord → Option Nat) : Nat → State → State
  | 0, s => s
  | fuel + 1, s =>
    match next s.reads with
    | none => s
    | some a => State.readOn next fuel (s.readOne a)

/-- The values of words read. -/
def valuesOf (rs : List ReadWord) : List Word := rs.map ReadWord.value

/-- The first word read with bad parity, if any. -/
def firstBadRead (rs : List ReadWord) : Option ReadWord := rs.find? ReadWord.bad

/-! Seats and links -/

/-- The state of a seat. -/
def State.seat (s : State) (i : Seat) : SeatState := s.seats[i]

/-- One seat's state is replaced. -/
def State.setSeat (s : State) (i : Seat) (x : SeatState) : State := { s with seats := s.seats.set i x }

def State.setCtx (s : State) (i : Seat) (c : Context) : State := s.setSeat i { s.seat i with ctx := c }
def State.setMonitors (s : State) (i : Seat) (m : Vector Monitor 8) : State := s.setSeat i { s.seat i with monitors := m }
def State.setTracker (s : State) (i : Seat) (t : Tracker) : State := s.setSeat i { s.seat i with tracker := t }
def State.setEstimator (s : State) (i : Seat) (e : Estimator) : State := s.setSeat i { s.seat i with estimator := e }
def State.setChannel (s : State) (i : Seat) (c : MuteChannel) : State := s.setSeat i { s.seat i with channel := c }
def State.setBoard (s : State) (i : Seat) (b : BoardSeat) : State := s.setSeat i { s.seat i with board := b }

/-- The state of a link. -/
def State.link (s : State) (l : LinkId) : Link := s.links[l]

/-- One link's state is replaced. -/
def State.setLink (s : State) (l : LinkId) (x : Link) : State := { s with links := s.links.set l x }

/-- The place of carrier (L, c) in the Carrier Map (R5). -/
def carrierIndex (l : LinkId) (c : Channel) : Fin 512 := ⟨64 * l.val + c.val, by omega⟩

/-- The seat on a carrier, if any (R5). -/
def State.carrier (s : State) (l : LinkId) (c : Channel) : Option Seat := s.carriers[carrierIndex l c]

/-- A Carrier Map entry is set or freed (R5). -/
def State.setCarrier (s : State) (l : LinkId) (c : Channel) (v : Option Seat) : State :=
  { s with carriers := s.carriers.set (carrierIndex l c) v }

/-- The seat that a 16-bit seat word names, if it is less than the seat count (R178). -/
def State.seatOf (s : State) (w : Word) : Option Seat :=
  if h : w.toNat < 512 then (if w.toNat < s.layout.seatCount then some ⟨w.toNat, h⟩ else none) else none

/-- The seat of a number, if there is one. -/
def seatOfNat (n : Nat) : Option Seat := if h : n < 512 then some ⟨n, h⟩ else none

/-- Seat s as a word. -/
def seatWord (i : Seat) : Word := word i.val

/-! The pass (R51) -/

/-- The first active seat from `k` on, below the seat count: the inactive seats before it are passed over (R51). -/
def State.nextActive (s : State) (k : Nat) : Option Seat :=
  allSeats.find? fun i => k ≤ i.val && i.val < s.layout.seatCount && (s.seat i).ctx.active

/-- The seat that the pass in flight has reached: its next active seat (R51). -/
def State.reachedSeat (s : State) : Option Seat := s.pass.bind s.nextActive

/-! The stores (R70, R95) -/

/-- A class as the Class Store holds it. -/
def State.classOf (s : State) (c : Fin 4) : WarningClass :=
  match s.classes with
  | some v => v[c]
  | none => Config.emptyClass c

/-- The warning class of a seat. -/
def State.seatClass (s : State) (i : Seat) : WarningClass := s.classOf (s.seat i).ctx.cls

/-- A curve as the Curve Store holds it. -/
def State.curveOf (s : State) (c : Fin 4) : Curve :=
  match s.curves with
  | some v => v[c]
  | none => Config.emptyCurve c

/-- The discharge curve of a seat. -/
def State.seatCurve (s : State) (i : Seat) : Curve := s.curveOf (s.seat i).ctx.curve

/-- The current generation of a seat's curve (R74). -/
def State.seatGeneration (s : State) (i : Seat) : Word := s.generations[(s.seat i).ctx.curve]

/-! The pages (R142) -/

/-- The Order Unit's state of a page. -/
def State.pageState (s : State) : Page → PageState
  | .a => s.pageA
  | .b => s.pageB

/-- A page's state changes. -/
def State.setPageState (s : State) (p : Page) (x : PageState) : State :=
  match p with
  | .a => { s with pageA := x }
  | .b => { s with pageB := x }

/-- The cause of a page's end (R147). -/
def pageDoneCause : Page → Cause
  | .a => .pageDoneA
  | .b => .pageDoneB

/-! The statistics and the link summary (R30, R31) -/

/-- The link summary word: bit L link L UP, bit 8 + L its ERRORS-SEEN (R180). -/
def State.linkSummary (s : State) : Word :=
  word (maskOf (allLinks.map fun l => (s.link l).state == .up) + 256 * maskOf (allLinks.map fun l => (s.link l).errorsSeen))

/-- The link summary word is written to the header. -/
def State.writeLinkSummary (s : State) : State := s.putWord hdrLinkSummary s.linkSummary

/-- A counter of a link increases by 1, saturating, and its change is written to its header word (R30). -/
def State.countLink (s : State) (l : LinkId) (i : Fin 11) : State :=
  let k := s.link l
  if k.counters[i] < 65535 then
    (s.setLink l { k with counters := k.counters.set i (k.counters[i] + 1) }).putWord (hdrCounter l i.val) (word (k.counters[i] + 1))
  else s

/-- A discard is counted under its cause and sets ERRORS-SEEN, also when the counter is saturated (R27, R31). -/
def State.countDiscard (s : State) (l : LinkId) (i : Fin 11) : State :=
  let t := s.countLink l i
  if (t.link l).errorsSeen then t else (t.setLink l { t.link l with errorsSeen := true }).writeLinkSummary

/-! The downlink queues and the deferred sets (R36, R37, R40) -/

/-- The size of a downlink queue (R36). -/
def queueSize : Nat := 16

/-- A seat joins a deferred set; the set is kept ascending. -/
def deferIn (i : Seat) : List Seat → List Seat
  | [] => [i]
  | x :: xs => if i < x then i :: x :: xs else x :: deferIn i xs

/-- The placement of seat s on a link (R36): an entry or a deferred seat keeps its place; else it is appended while
the queue holds fewer than 16 entries, and deferred when it does not. -/
def placeOn (k : Link) (i : Seat) : Link :=
  if k.queue.contains i || k.deferred.contains i then k
  else if k.queue.length < queueSize then { k with queue := k.queue ++ [i] }
  else { k with deferred := deferIn i k.deferred }

/-- The deferred-seat arbiter: the room an entry left is filled by the lowest-numbered deferred seat (R37). -/
def refill (k : Link) : Link :=
  match k.deferred with
  | [] => k
  | d :: ds => { k with queue := k.queue ++ [d], deferred := ds }

/-- A seat leaves a link's queue, which the arbiter refills, and its deferred set (R9, R36, R37). -/
def withdrawFrom (k : Link) (i : Seat) : Link :=
  if k.queue.contains i then refill { k with queue := k.queue.erase i }
  else { k with deferred := k.deferred.erase i }

/-- The frame in flight for a seat is cancelled (R40). -/
def cancelOn (k : Link) (i : Seat) : Link :=
  match k.tx with
  | .sending f => if f.seat = i then { k with tx := .sending { f with cancelled := true } } else k
  | _ => k

/-- The Report Link Unit places seat s on its link (R36). -/
def State.place (s : State) (i : Seat) : State :=
  let l := (s.seat i).ctx.link
  s.setLink l (placeOn (s.link l) i)

/-- Seat s leaves its link's queue and deferred set, and its frame in flight is cancelled (R9, R40). -/
def State.withdraw (s : State) (i : Seat) : State :=
  let l := (s.seat i).ctx.link
  s.setLink l (cancelOn (withdrawFrom (s.link l) i) i)

/-- Seat s's frame in flight, if there is one, is cancelled (R40). -/
def State.cancelFrame (s : State) (i : Seat) : State :=
  let l := (s.seat i).ctx.link
  s.setLink l (cancelOn (s.link l) i)

/-! The intent (R129) -/

/-- The intent of seat s is issued: SENDING with attempt 1, no deadline; while RUNNING it is placed on its link; a frame
in flight for it is cancelled (R129). -/
def State.issue (s : State) (i : Seat) : State :=
  let t := s.setChannel i { (s.seat i).channel with state := .sending, attempt := .first, deadline := none }
  State.cancelFrame (if s.part = .running then t.place i else t) i

/-- Seat s's intent changes. -/
def State.setIntent (s : State) (i : Seat) (x : Intent) : State := s.setChannel i { (s.seat i).channel with intent := x }

/-! The Floor Roster's header words (R120) -/

/-- The eight roster words: the members in grant order, FFFFh beyond the length. -/
def rosterWords (r : List Seat) : List Word := (List.range 8).map fun k => (r[k]?.map seatWord).getD 0xFFFF#16

/-- The rules word: limit in the low byte, policy in the high byte (R180). -/
def State.rulesWord (s : State) : Word := wordOfBytes s.floorLimit s.floorPolicy.code

/-- The nine words of the roster and the rules are written (R120). -/
def State.writeFloorHeader (s : State) : State := (s.putWords hdrRoster (rosterWords s.roster)).putWord hdrRules s.rulesWord

/-! The two 32-bit halves of the header's part clock (R45) -/

/-- The part clock is copied to the header, low half first. -/
def State.writeClockHeader (s : State) : State :=
  (s.putWord hdrClock (lowHalf s.clock)).putWord (hdrClock + 1) (highHalf s.clock)

end Sys2Proof.Machine
end

