-- ==== Sys2Proof/Machine/Operands.lean ====
section
/-! DEFINITION. The records the part reads from the RAM: seat records, class and curve records, the directory, and the
three operand words of an order slot (R177, R178, R180, R181). Unassigned bits are ignored. -/

namespace Sys2Proof.Machine

/-- The k-th word of a list of words read, 0 beyond its end. -/
def nth (ws : List Word) (k : Nat) : Word := ws[k]?.getD 0

/-! The seat record (R181) -/

/-- A seat record as its three words spell it. -/
structure SeatRecord where
  active : Bool
  locked : Bool
  priority : Bool
  cls : Fin 4
  curve : Fin 4
  link : LinkId
  channel : Channel
  txId : Word
deriving DecidableEq, Repr

/-- The record that the three words of the Seat Table hold. -/
def seatRecord (ws : List Word) : SeatRecord :=
  { active := (nth ws 0).getLsbD 0
    locked := (nth ws 0).getLsbD 1
    priority := (nth ws 0).getLsbD 2
    cls := ⟨field (nth ws 0) 4 2, Nat.mod_lt _ (by decide)⟩
    curve := ⟨field (nth ws 0) 6 2, Nat.mod_lt _ (by decide)⟩
    link := ⟨field (nth ws 0) 8 3, Nat.mod_lt _ (by decide)⟩
    channel := ⟨field (nth ws 1) 0 6, Nat.mod_lt _ (by decide)⟩
    txId := nth ws 2 }

/-- The word address of seat s's record (01_seats_carriers_and_locks 1.3). -/
def Layout.recordAddr (l : Layout) (i : Seat) : Nat := l.seatTable + 3 * i.val

/-! The class record (R71, R181) -/

/-- The fields of a class as its sixteen words spell them. -/
def rawClass (ws : List Word) : WarningClass :=
  { raiseCounts := Vector.ofFn fun i : Fin 8 => lowByte (nth ws i.val)
    clearCounts := Vector.ofFn fun i : Fin 8 => highByte (nth ws i.val)
    silenceTime := (nth ws 8).toNat
    lostTime := (nth ws 9).toNat
    confirmTime := (nth ws 10).toNat
    weakLevel := lowByte (nth ws 11)
    speechLevel := highByte (nth ws 11)
    dropoutLimit := lowByte (nth ws 12)
    fadeWindow := highByte (nth ws 12)
    lowMinutes := lowByte (nth ws 13)
    critMinutes := highByte (nth ws 13)
    lowCharge := (nth ws 14).toNat
    critCharge := (nth ws 15).toNat }

/-- A class brought into the ranges of R70, as R71 gives. -/
def clampClass (c : WarningClass) : WarningClass :=
  let lowMinutes := clampTo 1 240 c.lowMinutes
  let lowCharge := clampTo 0 1000 c.lowCharge
  { raiseCounts := c.raiseCounts
    clearCounts := c.clearCounts.map fun k => if k = 0 then 1 else k
    silenceTime := clampTo 100 10000 c.silenceTime
    lostTime := clampTo 20 5000 c.lostTime
    confirmTime := clampTo 50 2000 c.confirmTime
    weakLevel := clampTo 0 120 c.weakLevel
    speechLevel := clampTo 0 90 c.speechLevel
    dropoutLimit := clampTo 1 255 c.dropoutLimit
    fadeWindow := clampTo 1 60 c.fadeWindow
    lowMinutes := lowMinutes
    critMinutes := clampTo 0 lowMinutes c.critMinutes
    lowCharge := lowCharge
    critCharge := clampTo 0 lowCharge c.critCharge }

/-- The four staged classes of the Class Table's 64 words, before clamping. -/
def rawClasses (ws : List Word) : Vector WarningClass 4 := Vector.ofFn fun c : Fin 4 => rawClass (ws.drop (16 * c.val))

/-- The four staged classes. -/
def stagedClasses (ws : List Word) : Vector WarningClass 4 := (rawClasses ws).map clampClass

/-! The curve record (R96, R181) -/

/-- A curve of its eighteen words, its four settings clamped; breakpoints and charges as read (R96). -/
def stagedCurve (ws : List Word) : Curve :=
  { volts := Vector.ofFn fun i : Fin 8 => (nth ws i.val).toNat
    charges := Vector.ofFn fun i : Fin 8 => (nth ws (8 + i.val)).toNat
    shift := clampTo 0 6 (lowByte (nth ws 16))
    swapStep := clampTo 5 200 (highByte (nth ws 16))
    period := clampTo 10 120 (lowByte (nth ws 17))
    hysteresis := clampTo 10 200 (highByte (nth ws 17)) }

/-- The four staged curves of the Curve Table's 72 words. -/
def stagedCurves (ws : List Word) : Vector Curve 4 := Vector.ofFn fun c : Fin 4 => stagedCurve (ws.drop (18 * c.val))

/-- Strictly ascending numbers. -/
def ascends : List Nat → Bool
  | x :: y :: rest => x < y && ascends (y :: rest)
  | _ => true

/-- Numbers that do not descend. -/
def neverDescends : List Nat → Bool
  | x :: y :: rest => x ≤ y && neverDescends (y :: rest)
  | _ => true

/-- The faulty mark: the curve fails one of the four tests of R97. -/
def Curve.faulty (c : Curve) : Bool :=
  !(c.volts.toList.all (· ≤ 1023) && ascends c.volts.toList && c.charges.toList.all (· ≤ 1000) && neverDescends c.charges.toList)

/-! The directory (R180) -/

/-- A link's setup as the directory gives it; the timeout clamped (R24). -/
structure LinkSetup where
  enabled : Bool
  divisor : Nat
  timeout : Nat
deriving DecidableEq, Repr

/-- The directory: words 0 to 10 and 12 to 27 of the Exchange Header. -/
structure Directory where
  layout : Layout
  capacity : Nat
  scanPeriod : Nat
  refreshInterval : Nat
  floorLimit : Nat
  floorPolicy : FloorPolicy
  links : Vector LinkSetup 8
deriving DecidableEq, Repr

/-- The addresses of the directory's words, in order: the part does not read the unassigned words (R177, R180). -/
def directoryAddrs : List Nat := List.range 11 ++ (List.range 16).map (· + 12)

/-- How many words the directory has. -/
def directoryWords : Nat := 27

/-- The directory that these words hold, in the order of `directoryAddrs`. -/
def directoryOf (ws : List Word) : Directory :=
  { layout :=
      { seatCount := (nth ws 0).toNat
        seatTable := (nth ws 1).toNat
        board := (nth ws 2).toNat
        changeList := (nth ws 3).toNat
        classTable := (nth ws 4).toNat
        curveTable := (nth ws 5).toNat
        pageArea := (nth ws 6).toNat }
    capacity := (nth ws 7).toNat
    scanPeriod := clampTo 5 100 (nth ws 8).toNat
    refreshInterval := clampTo 1 255 (nth ws 9).toNat
    floorLimit := clampTo 1 8 (lowByte (nth ws 10))
    floorPolicy := policyOf (highByte (nth ws 10))
    links := Vector.ofFn fun l : Fin 8 =>
      { enabled := (nth ws (11 + 2 * l.val)).getLsbD 15
        divisor := lowByte (nth ws (11 + 2 * l.val))
        timeout := clampTo 50 2000 (nth ws (12 + 2 * l.val)).toNat } }

/-! The order slot (R146, R178) -/

/-- The operand words of an order slot. -/
structure Slot where
  kind : Word
  seat : Word
  arg : Word
deriving DecidableEq, Repr

/-- The slot that the words read hold. -/
def slotOf (ws : List Word) : Slot := { kind := nth ws 0, seat := nth ws 1, arg := nth ws 2 }

/-- A mask is the argument's low byte (R178). -/
def Slot.mask (o : Slot) : Byte := o.arg.extractLsb' 0 8

end Sys2Proof.Machine
end

