-- ==== Sys2Proof/Machine/Requests.lean ====
section
/-! DEFINITION. What the order in hand reads next, and the access it asks the arbiter for (R6, R73, R146, R165). -/

namespace Sys2Proof.Machine

/-! Locks (R14) -/

/-- "Locked and not lifted": locked is set and the lift does not name the seat (R14). -/
def State.lockedUnlifted (s : State) (i : Seat) : Bool := (s.seat i).ctx.locked && s.lift != some i

/-! The slot in hand (R146) -/

/-- Whether the worked page lets its slot in hand be worked: the page has not been ended, no bulk order is in hand, and
at the boundary before the slot neither STOPPING nor an abort was found. An order that has begun is brought to its end
(R146, R148, R154). -/
def State.slotReady (s : State) (w : PageWork) : Bool :=
  (s.part == .running || s.part == .stopping) && w.ending.isNone && w.bulk.isNone && w.slot < w.count
    && (w.begun || (s.part == .running && !(s.pageState w.page == .aborting && 1 ≤ w.slot)))

/-- Whether a slot keeps the pairing of a LIFT LOCK: bound to a seat word, it must be a liftable order for it (R152). -/
def pairingHolds (w : PageWork) (o : Slot) : Bool :=
  match w.bound with
  | none => true
  | some seat => liftableKind o.kind && o.seat == seat

/-- The suspended LOAD RANGE refuses a LOAD SEAT of a seat from its cursor up to its last seat (R151). -/
def State.rangeBusy (s : State) (i : Seat) : Bool :=
  match s.suspended with
  | none => false
  | some v =>
    match v.bulk with
    | none => false
    | some b => b.kind == .loadRange && b.cursor ≤ i.val && i.val < b.stop

/-- The word address of the k-th word of the Class Table and then the Curve Table (R72, R73). -/
def Layout.tableAddr (l : Layout) (k : Nat) : Nat := if k < 64 then l.classTable + k else l.curveTable + (k - 64)

/-- The words of the two tables together (R73). -/
def tableWords : Nat := 136

/-- The next word that the slot in hand has read: its kind, seat and argument; then, for a LOAD SEAT that passes the
checks made before the record is read, the record (R6, R7), and for RELOAD CLASSES the two tables (R73). A word with
bad parity ends the reading (R6, R73; for the slot words log 30): the words after it are not read, and record no fault. -/
def State.nextOrderRead (s : State) (w : PageWork) (rs : List ReadWord) : Option Nat :=
  if (firstBadRead rs).isSome then none
  else if rs.length < 3 then some (s.layout.slotAddr w.page w.slot + rs.length)
  else
    let o := slotOf (valuesOf rs)
    if !pairingHolds w o then none
    else if o.kind == kindLoadSeat then
      match s.seatOf o.seat with
      | none => none
      | some i => if s.rangeBusy i || 6 ≤ rs.length then none else some (s.layout.recordAddr i + (rs.length - 3))
    else if o.kind == kindReloadClasses then
      if rs.length < 3 + tableWords then some (s.layout.tableAddr (rs.length - 3)) else none
    else none

/-! The records of a LOAD RANGE (R6, R17) -/

/-- A record's reading has ended: three words are read, or one has bad parity (R6). -/
def recordRead (rs : List ReadWord) : Bool := (firstBadRead rs).isSome || 3 ≤ rs.length

/-- The next word that a LOAD RANGE's slice in progress reads: of the record of the seat at the cursor, unless that seat
is to be skipped or its reading has ended. The words read so far are those of that record (R6, R17). -/
def State.nextRangeRead (s : State) (b : Bulk) : Option Nat :=
  if b.kind ≠ .loadRange ∨ b.atBoundary then none
  else
    match seatOfNat b.cursor with
    | none => none
    | some i => if s.lockedUnlifted i || recordRead s.reads then none else some (s.layout.recordAddr i + s.reads.length)

/-! The access asked for (R165) -/

/-- Whether the order in hand waits for an access: of a bulk order, its next record word; of another, the write of its
index to the progress word, or the next word it reads (R6, R146). -/
def State.orderWaits (s : State) (w : PageWork) : Bool :=
  match w.bulk with
  | some b => (s.part == .running || s.part == .stopping) && (s.nextRangeRead b).isSome
  | none => s.slotReady w && (!w.begun || (s.nextOrderRead w s.reads).isSome)

/-- The access for which the order in hand waits at the arbiter, if any (R165). -/
def State.orderRequest (s : State) : Option OrderRequest :=
  match s.worked with
  | none => none
  | some w =>
    if s.orderWaits w then
      some { taking := w.taking, slot := w.slot, begun := w.begun, cursor := (w.bulk.map Bulk.cursor).getD 0,
             read := if w.begun then s.reads.length else 0 }
    else none

end Sys2Proof.Machine
end

