-- ==== Sys2Proof/Machine/Board.lean ====
section
/-! DEFINITION. The Board Writer and the change list (spec/09_warning_board_and_change_list), and what counts as a
visible change (R68). -/

namespace Sys2Proof.Machine

/-! The picture of a seat -/

/-- The values of a seat that are compared for a visible change (R68). -/
structure Picture where
  codes : List Nat
  reps : List Bool
  active : Bool
  locked : Bool
  silence : SilenceCause
  onFloor : Bool
  intent : Intent
  state : ChannelState
  status : EstimateStatus
deriving DecidableEq, Repr

/-- The picture of a seat as it stands. -/
def State.picture (s : State) (i : Seat) : Picture :=
  let x := s.seat i
  { codes := x.monitors.toList.map fun m => m.state.code
    reps := x.monitors.toList.map Monitor.rep
    active := x.ctx.active
    locked := x.ctx.locked
    silence := x.ctx.silence
    onFloor := s.roster.contains i
    intent := x.channel.intent
    state := x.channel.state
    status := x.estimator.status }

/-- The dropout length at a reading: the age of an open dropout, at most 65535, and 0 without one (R84). -/
def dropoutLength (t : Tracker) (now : Clock) : Nat :=
  match t.dropoutStart with
  | none => 0
  | some d => min 65535 (elapsed d now)

/-- The board shows no charge in NO_DATA and PROFILE_FAULT (R111). -/
def boardCharge (e : Estimator) : Word :=
  match e.status with
  | .noData | .profileFault => 0xFFFF#16
  | _ => word e.charge

/-- The board shows remaining minutes in VALID and CAPPED only (R111). -/
def boardMinutes (e : Estimator) : Word :=
  match e.status with
  | .valid | .capped => word e.minutes
  | _ => 0xFFFF#16

/-- The seat flags word (R183). -/
def State.seatFlags (s : State) (i : Seat) : Word :=
  let x := s.seat i
  word (bit x.ctx.active + 2 * bit x.ctx.locked + 4 * bit x.ctx.priority + 8 * bit (s.roster.contains i)
    + 16 * x.channel.intent.code + 32 * x.channel.state.code + 128 * x.channel.attempt.code
    + 256 * x.ctx.silence.code + 1024 * x.estimator.status.code)

/-- Four board codes in a word, the first in bits 3:0 (R183). -/
def codesWord (ms : List Monitor) : Word :=
  word (ms.foldr (fun m acc => m.state.code + 16 * acc) 0)

/-- The ten body words of a seat's entry, from the seat flags to the high half of changed-at (R157, R183). -/
def State.boardBody (s : State) (i : Seat) : List Word :=
  let x := s.seat i
  [ s.seatFlags i,
    codesWord (x.monitors.toList.take 4),
    codesWord (x.monitors.toList.drop 4),
    wordOfBytes (maskOf (x.monitors.toList.map Monitor.rep)) x.tracker.onsets,
    wordOfBytes ((x.ctx.sample.map Sample.rf).getD 0) ((x.ctx.sample.map Sample.audio).getD 0),
    boardCharge x.estimator,
    boardMinutes x.estimator,
    word (dropoutLength x.tracker s.clock),
    lowHalf x.board.changedAt,
    highHalf x.board.changedAt ]

/-! Publication: the values are taken in the event, the write waits (R156, R157, R158) -/

/-- A write of seat i that an event leaves waiting: the values are taken now, and it asks for its first word behind the
order's access that waits already (R157, R165). -/
def State.boardEntry (s : State) (i : Seat) (change : Bool) : BoardEntry :=
  { seat := i, change := change, body := s.boardBody i, written := 0, behind := s.orderRequest }

/-- An entry is written only for a seat below the seat count in force, and only in RUNNING or STOPPING (R156). -/
def State.publishes (s : State) (i : Seat) : Bool :=
  i.val < s.layout.seatCount && (s.part == .running || s.part == .stopping)

/-- A change write of a seat: changed-at becomes the reading of the event, the values are taken, the write waits (R158). -/
def State.publishChange (s : State) (i : Seat) : State :=
  if s.publishes i then
    let t := s.setBoard i { (s.seat i).board with changedAt := s.clock }
    { t with boardWrites := t.boardWrites ++ [t.boardEntry i true] }
  else s

/-- A refresh write of a seat: changed-at as it is held (R158). -/
def State.publishRefresh (s : State) (i : Seat) : State :=
  if s.publishes i then
    { s with boardWrites := s.boardWrites ++ [s.boardEntry i false] }
  else s

/-- The event that led from `before` to `after` publishes each of these seats in which it made a visible change,
once (R69). -/
def publishVisible (before after : State) (is : List Seat) : State :=
  is.foldl (fun t i => if before.picture i = after.picture i then t else t.publishChange i) after

/-! The change list (R159, R160) -/

/-- The fill count, as the header shows it. -/
def State.writeFill (s : State) : State := s.putWord hdrFillCount s.fillCount
/-- The owed count, as the header shows it. -/
def State.writeOwed (s : State) : State := s.putWord hdrOwedCount (word s.owedCount)
/-- The accepted taken count, as the header shows it. -/
def State.writeTaken (s : State) : State := s.putWord hdrTakenAccepted s.takenCount

/-- A seat is appended at the write position; an append to an empty list sets CHANGES (R159, R160). -/
def State.appendChange (s : State) (i : Seat) : State :=
  let t := if s.changeList.isEmpty then s.raise .changes else s
  let t := t.putWord (s.layout.changeList + s.writePos) (seatWord i)
  let t := t.setBoard i { (t.seat i).board with listed := true }
  State.writeFill
    { t with
      changeList := s.changeList ++ [i]
      writePos := (s.writePos + 1) % s.capacity
      fillCount := s.fillCount + 1 }

/-- An offer of a seat is judged on its flags (R160). -/
def State.offer (s : State) (i : Seat) : State :=
  let b := (s.seat i).board
  if b.listed then s.setBoard i { b with relistDue := true }
  else if b.owed then s
  else if s.changeList.length < s.capacity then s.appendChange i
  else State.writeOwed { (s.setBoard i { b with owed := true }) with owedCount := s.owedCount + 1 }

/-- The lowest-numbered owed seat. -/
def State.lowestOwed (s : State) : Option Seat := allSeats.find? fun i => (s.seat i).board.owed

/-- The lowest-numbered owed seat is appended, if the list has room and a seat is owed (R161, step 4). -/
def State.owedStep (s : State) : Option State :=
  if s.changeList.length < s.capacity then
    s.lowestOwed.map fun i =>
      let t := s.setBoard i { (s.seat i).board with owed := false }
      (State.writeOwed { t with owedCount := t.owedCount - 1 }).appendChange i
  else none

/-- Owed seats are appended while the list has room and a seat is owed (R161, step 4). -/
def State.appendOwed : Nat → State → State
  | 0, s => s
  | fuel + 1, s =>
    match s.owedStep with
    | none => s
    | some t => State.appendOwed fuel t

/-- The oldest entry is released; a relist-due seat is offered again at once (R161, step 2). -/
def State.releaseOne (s : State) : State :=
  match s.changeList with
  | [] => s
  | i :: rest =>
    let b := (s.seat i).board
    let t := { (s.setBoard i { b with listed := false, relistDue := false }) with changeList := rest }
    if b.relistDue then t.offer i else t

/-- The n oldest entries are released, oldest first. -/
def State.release : Nat → State → State
  | 0, s => s
  | n + 1, s => State.release n s.releaseOne

/-- CHANGES is set if the list holds any entry (R161, step 5). -/
def State.notifyChanges (s : State) : State := if s.changeList.isEmpty then s else s.raise .changes

/-- A taken count T delivered to the Board Writer (R161). The accepted taken count is set, and its header word written, by
every such write, one that leaves the count as it was among them (R159; log 31). -/
def State.acceptTaken (s : State) (value : Word) : State :=
  let bad := s.changeList.length < (value - s.takenCount).toNat
  let t := if bad then s.recordFault takenCountAddr .markRange else s
  let value := if bad then s.fillCount else value
  let t := State.release (value - s.takenCount).toNat t
  let t := State.writeTaken { t with takenCount := value }
  (State.appendOwed 512 t).notifyChanges

/-! The words of an entry (R156) -/

/-- The twelve words of an entry in the order they are written: open stamp, body, close stamp. -/
def entryWord (e : BoardEntry) (stamp : Word) (k : Nat) : Word :=
  if k = 0 ∨ k = 11 then stamp else (e.body[k - 1]?).getD 0

/-- The next word of the seat's oldest write in progress or waiting is written. The first advances the stamp; the last
ends the write and, for a change write, offers the seat (R156, R158). -/
def State.boardWord (s : State) (i : Seat) : State :=
  match s.boardWrites.find? (fun e => e.seat == i) with
  | none => s
  | some e =>
    let b := (s.seat i).board
    let stamp := if e.written = 0 then b.stamp + 1 else b.stamp
    let t := (s.setBoard i { b with stamp := stamp }).putWord (s.layout.boardAddr i + e.written) (entryWord e stamp e.written)
    if e.written < 11 then
      { t with boardWrites := t.boardWrites.replace e { e with written := e.written + 1 } }
    else
      let t := { t with boardWrites := t.boardWrites.erase e }
      if e.change then t.offer i else t

/-- The write at the front asks for its next word, behind the order's access that waits now (R165; log 27). -/
def State.askNextWord (s : State) : State :=
  match s.boardWrites with
  | [] => s
  | e :: rest => { s with boardWrites := { e with behind := s.orderRequest } :: rest }

/-- `n` words of the seat's entry are written. -/
def State.boardWords (i : Seat) : Nat → State → State
  | 0, s => s
  | n + 1, s => State.boardWords i n (s.boardWord i)

/-- The seat's oldest write in progress or waiting is carried to its close stamp (R156). -/
def State.finishBoardWrite (s : State) (i : Seat) : State :=
  match s.boardWrites.find? (fun e => e.seat == i) with
  | none => s
  | some e => State.boardWords i (12 - e.written) s

/-! Entry to RUNNING (R162) -/

/-- Step 1: entries and owed seats at or above the new seat count go. -/
def State.dropOutOfRange (s : State) (seatCount : Nat) : State :=
  { s with
    seats := s.seats.mapIdx fun i x =>
      if i < seatCount then x else { x with board := { x.board with listed := false, relistDue := false, owed := false } }
    changeList := s.changeList.filter fun i => i.val < seatCount
    owedCount := s.owedCount - allSeats.countP (fun i => seatCount ≤ i.val && (s.seat i).board.owed) }

/-- Step 2: the newest entries beyond the new capacity are removed and their seats owed. -/
def State.dropOverflow (s : State) (capacity : Nat) : State :=
  let out := s.changeList.drop capacity
  { s with
    seats := s.seats.mapFinIdx fun i x _ =>
      if out.any (fun j => j.val == i) then { x with board := { x.board with listed := false, relistDue := false, owed := true } } else x
    changeList := s.changeList.take capacity
    owedCount := s.owedCount + out.length }

/-- The list is settled at entry to RUNNING: out-of-range seats and overflow are removed, the entries are rewritten from
position 0 of the new region, and owed seats are appended (R162). -/
def State.settleChangeList (s : State) (capacity : Nat) : State :=
  let before := s.changeList.length
  let t := (s.dropOutOfRange s.layout.seatCount).dropOverflow capacity
  let t := t.putWords t.layout.changeList (t.changeList.map seatWord)
  let t := { t with
    capacity := capacity
    writePos := t.changeList.length % capacity
    fillCount := t.fillCount - BitVec.ofNat 16 (before - t.changeList.length) }
  ((State.appendOwed 512 t).writeFill.writeOwed.writeTaken).notifyChanges

/-! Meanings -/

/-- BOARD_WRITE: the seat's oldest write in progress or waiting is made; without one nothing happens (R156; log 3). -/
def execBoardWrite (seat : Seat) (s : State) : Host.Outcome State Fault Refusal :=
  .next (if s.part = .running ∨ s.part = .stopping then s.finishBoardWrite seat else s)

end Sys2Proof.Machine
end

