-- ==== Sys2Proof/Machine/Monitors.lean ====
section
/-! DEFINITION. The Monitor Bank (spec/04_condition_monitors_and_warning_classes 4.2 to 4.3 and R77). -/

namespace Sys2Proof.Machine

/-- The conditions by their index (R59). -/
def condSilent : Fin 8 := 0
def condLost : Fin 8 := 1
def condWeak : Fin 8 := 2
def condLow : Fin 8 := 3
def condCritical : Fin 8 := 4
def condHotMic : Fin 8 := 5
def condSpeaking : Fin 8 := 6
def condUnconfirmed : Fin 8 := 7

/-- A monitor that counts one more true evaluation toward the raise count. -/
def onsetAt (m : Monitor) (n raiseCount : Nat) : Monitor :=
  if raiseCount ≤ n then { m with state := .raised, n := 0 } else { m with state := .onset, n := n }

/-- A monitor that counts one more false evaluation toward the clear count; `ack` tells where it ends (R62, R64). -/
def easingAt (m : Monitor) (n clearCount : Nat) (ack : Bool) : Monitor :=
  if clearCount ≤ n then { m with state := if ack then .clear else .lapsed, n := 0, ack := false }
  else { m with state := .easing, n := n, ack := ack }

/-- The persistence step of a monitor on a raw value, against its raise and clear counts (R62). -/
def persist (raiseCount clearCount : Nat) (c : Bool) (m : Monitor) : Monitor :=
  match m.state, c with
  | .clear, true => onsetAt m 1 raiseCount
  | .clear, false => m
  | .onset, true => onsetAt m (m.n + 1) raiseCount
  | .onset, false => { m with state := .clear, n := 0 }
  | .raised, true => m
  | .raised, false => easingAt m 1 clearCount false
  | .noted, true => m
  | .noted, false => easingAt m 1 clearCount true
  | .easing, true => { m with state := if m.ack then .noted else .raised, n := 0, ack := false }
  | .easing, false => easingAt m (m.n + 1) clearCount m.ack
  | .lapsed, true => { m with state := .raised, n := 0, rep := true }
  | .lapsed, false => m

/-- A monitor at an evaluation: cleared when its condition is disabled (R66), held when no raw value is offered
(R54, R112), stepped otherwise. -/
def monitorAt (raiseCount clearCount : Nat) (raw : Option Bool) (m : Monitor) : Monitor :=
  if raiseCount = 0 then clearMonitor
  else
    match raw with
    | none => m
    | some c => persist raiseCount clearCount c m

/-- Acknowledgement of one monitor (R77). -/
def acknowledged (m : Monitor) : Monitor :=
  match m.state with
  | .clear => { m with rep := false }
  | .onset => { m with rep := false }
  | .raised => { m with state := .noted, n := 0, rep := false }
  | .noted => { m with rep := false }
  | .easing => { m with ack := true, rep := false }
  | .lapsed => { m with state := .clear, n := 0, rep := false }

/-- Whether an acknowledgement changed a monitor's state, acknowledged flag or REPEAT flag (R76). -/
def ackChanged (before after : Monitor) : Bool :=
  before.state != after.state || before.ack != after.ack || before.rep != after.rep

/-- All eight monitors of a seat take the fixed CLEAR state (R61). -/
def State.clearMonitors (s : State) (i : Seat) : State := s.setMonitors i (Vector.replicate 8 clearMonitor)

/-- The two battery monitors of a seat take the fixed CLEAR state (R61, R104). -/
def State.clearBatteryMonitors (s : State) (i : Seat) : State :=
  s.setMonitors i (((s.seat i).monitors.set condLow clearMonitor).set condCritical clearMonitor)

/-- The masked monitors of a seat acknowledged (R77). -/
def ackMonitors (mask : Byte) (ms : Vector Monitor 8) : Vector Monitor 8 :=
  ms.mapFinIdx fun k m _ => if mask.getLsbD k then acknowledged m else m

/-- The mask of the monitors that differ in state, acknowledged flag or REPEAT flag. -/
def changedMask (before after : Vector Monitor 8) : Nat :=
  maskOf ((before.toList.zip after.toList).map fun p => ackChanged p.1 p.2)

/-- The masked monitors of a seat are acknowledged, and the seat published if that changed its picture (R76, R78). -/
def State.acknowledgeSeat (s : State) (i : Seat) (mask : Byte) : State :=
  publishVisible s (s.setMonitors i (ackMonitors mask (s.seat i).monitors)) [i]

/-- The mask of the monitors that an acknowledgement changes (R76). -/
def State.acknowledgeMask (s : State) (i : Seat) (mask : Byte) : Nat :=
  changedMask (s.seat i).monitors (ackMonitors mask (s.seat i).monitors)

end Sys2Proof.Machine
end

