-- ==== Sys2Proof/Machine/Signal.lean ====
section
/-! DEFINITION. The Signal Tracker and the silence decision (spec/05_signal_conditions, R53, R23). -/

namespace Sys2Proof.Machine

/-! The silence decision (R53) and the silence cause (R23) -/

/-- The silence decision: the elapsed time from the last report is at least the silence time of the seat's class (R53). -/
def State.isSilent (s : State) (i : Seat) : Bool :=
  (s.seatClass i).silenceTime ≤ elapsed (s.seat i).ctx.lastReport s.clock

/-- The silence cause that a silence decision gives (R23). -/
def State.silenceCause (s : State) (i : Seat) (silent : Bool) : SilenceCause :=
  if silent = false then .noCause
  else if (s.link (s.seat i).ctx.link).state = .down then .linkDown
  else if (s.seat i).ctx.foreignSeen then .foreignUnit
  else .noReports

/-- The Seat Store's work in an evaluation: the silence cause, and the aging of a silent seat's last report time (R23, R53). -/
def State.seatStoreWork (s : State) (i : Seat) (silent : Bool) : State :=
  let c := (s.seat i).ctx
  s.setCtx i { c with silence := s.silenceCause i silent, lastReport := if silent then aged c.lastReport s.clock else c.lastReport }

/-! The tracker -/

/-- A re-initialised tracker: no dropout, no onset, and a window that starts now (R9, R81). -/
def freshTracker (now : Clock) : Tracker := { dropoutStart := none, onsets := 0, prevOnsets := 0, windowStart := now }

/-- The pilot of an arrival opens or ends a dropout, or changes nothing (R82). -/
def trackPilot (t : Tracker) (pilot : Bool) (now : Clock) : Tracker :=
  match pilot, t.dropoutStart with
  | false, none => { t with dropoutStart := some now, onsets := satSucc 255 t.onsets }
  | false, some _ => t
  | true, none => t
  | true, some _ => { t with dropoutStart := none }

/-- The two stored readings are aged (R86). -/
def ageTracker (t : Tracker) (now : Clock) : Tracker :=
  { t with dropoutStart := t.dropoutStart.map (aged · now), windowStart := aged t.windowStart now }

/-- Whether the fade window has run its time (R85). -/
def windowElapsed (t : Tracker) (fadeWindow : Nat) (now : Clock) : Bool := fadeWindow * 1000 ≤ elapsed t.windowStart now

/-- The rollover: the current count becomes the previous one and a new window starts (R85). -/
def rollWindow (t : Tracker) (now : Clock) : Tracker :=
  { t with prevOnsets := t.onsets, onsets := 0, windowStart := now }

/-- Whether an evaluation rolls the seat's fade window: it is unfrozen, and the window, its start aged, has run its time
(R85, R93). -/
def State.rollsWindow (s : State) (i : Seat) (silent : Bool) : Bool :=
  !silent && windowElapsed (ageTracker (s.seat i).tracker s.clock) (s.seatClass i).fadeWindow s.clock

/-- The Signal Tracker's work in an evaluation: aging, then the rollover of an unfrozen one when it is due (R93). -/
def State.signalWork (s : State) (i : Seat) (silent : Bool) : State :=
  let t := ageTracker (s.seat i).tracker s.clock
  s.setTracker i (if s.rollsWindow i silent then rollWindow t s.clock else t)

/-- The raw value of SIGNAL_LOST (R88). -/
def State.rawLost (s : State) (i : Seat) : Bool :=
  match (s.seat i).tracker.dropoutStart with
  | none => false
  | some d => (s.seat i).ctx.sample.isSome && (s.seatClass i).lostTime ≤ elapsed d s.clock

/-- The raw value of SIGNAL_WEAK (R90). -/
def State.rawWeak (s : State) (i : Seat) : Bool :=
  match (s.seat i).ctx.sample with
  | none => false
  | some p =>
    p.rf < (s.seatClass i).weakLevel || (s.seatClass i).dropoutLimit ≤ (s.seat i).tracker.onsets
      || (s.seatClass i).dropoutLimit ≤ (s.seat i).tracker.prevOnsets

end Sys2Proof.Machine
end

