-- ==== Sys2Proof/Machine/Battery.lean ====
section
/-! DEFINITION. The Battery Estimator (spec/06_battery_estimation). -/

namespace Sys2Proof.Machine

/-! Readings (R99 to R103) -/

/-- The voltage filter: F plus floor((reading × 16 − F) ÷ 2^k) (R101). -/
def filtered (f reading k : Nat) : Nat := ((f : Int) + Int.fdiv ((reading * 16 : Nat) - (f : Int)) ((2 ^ k : Nat) : Int)).toNat

/-- The rounded voltage v = floor((F + 8) ÷ 16) (R98). -/
def roundedVoltage (f : Nat) : Nat := (f + 8) / 16

/-- Straight-line interpolation in the segment of the breakpoints that holds v; beyond the last breakpoint the charge
is flat (R102). -/
def interpolate (v : Nat) : List (Nat × Nat) → Nat
  | (v0, c0) :: (v1, c1) :: rest =>
    if v < v1 then c0 + (v - v0) * (c1 - c0) / (v1 - v0) else interpolate v ((v1, c1) :: rest)
  | [(_, c0)] => c0
  | [] => 0

/-- The charge for a rounded voltage; at or below the first breakpoint it is flat (R102). -/
def chargeAt (c : Curve) (v : Nat) : Nat := if v ≤ c.volts[0] then c.charges[0] else interpolate v (c.volts.toList.zip c.charges.toList)

/-- The estimate status (R111). -/
def statusOf (e : Estimator) (faulty : Bool) : EstimateStatus :=
  if e.seeded = false ∨ e.missing then .noData
  else if faulty then .profileFault
  else
    match e.result with
    | .warming => .warming
    | .notDischarging => .notDischarging
    | .capped => .capped
    | .valid => .valid

/-- The status derived into the estimator (R111). -/
def derived (e : Estimator) (faulty : Bool) : Estimator := { e with status := statusOf e faulty }

/-- Whether the swap test of an arrival finds a new pack (R103). -/
def swapSeen (c : Curve) (e : Estimator) (reading : Nat) : Bool := e.seeded && e.v + c.swapStep ≤ reading

/-- Steps 6 to 9 of an arrival: seed or filter, voltage, charge, status (R99). -/
def takeReading (c : Curve) (e : Estimator) (reading : Nat) (now : Clock) : Estimator :=
  let e := if e.seeded then { e with f := filtered e.f reading c.shift }
    else { e with f := reading * 16, seeded := true, nextSample := now }
  let e := { e with v := roundedVoltage e.f }
  let e := if c.faulty then e else { e with charge := chargeAt c e.v }
  derived e c.faulty

/-- What an arrival does to an estimator, and whether it restarted it (R99). -/
def arrivalEstimator (c : Curve) (gen : Word) (e : Estimator) (fresh battValid : Bool) (reading : Nat) (now : Clock) :
    Estimator × Bool :=
  let e := if fresh then restartedEstimator gen else e
  if e.genSeen ≠ gen then (e, fresh)
  else if battValid = false then (derived { e with missing := true } c.faulty, fresh)
  else
    let e := { e with missing := false }
    if swapSeen c e reading then (takeReading c (restartedEstimator e.genSeen) reading now, true)
    else (takeReading c e reading now, fresh)

/-- An arrival reaches seat s's estimator; a restart also clears the two battery monitors (R99, R104). -/
def State.batteryArrival (s : State) (i : Seat) (fresh battValid : Bool) (reading : Nat) : State :=
  let r := arrivalEstimator (s.seatCurve i) (s.seatGeneration i) (s.seat i).estimator fresh battValid reading s.clock
  let t := s.setEstimator i r.1
  if r.2 then t.clearBatteryMonitors i else t

/-- A restart of seat s's estimator that records the current generation of its curve (R104, R105). -/
def State.restartEstimator (s : State) (i : Seat) : State :=
  (s.setEstimator i (restartedEstimator (s.seatGeneration i))).clearBatteryMonitors i

/-! History and the estimate (R108 to R110) -/

/-- The quotient floor((cn × elapsed) ÷ (drop × 60000)) (R110). -/
def minutesLeft (cn span drop : Nat) : Nat := cn * span / (drop * 60000)

/-- The estimate computed from a history (R110). -/
def computed (e : Estimator) : Estimator :=
  match e.history.head?, e.history.getLast? with
  | some (t0, c0), some (tn, cn) =>
    if e.history.length < 4 then { e with result := .warming, minutes := 0 }
    else if c0 ≤ cn then { e with result := .notDischarging, minutes := 0 }
    else if minutesLeft cn (elapsed t0 tn) (c0 - cn) ≤ 999 then
      { e with result := .valid, minutes := minutesLeft cn (elapsed t0 tn) (c0 - cn) }
    else { e with result := .capped, minutes := 999 }
  | _, _ => { e with result := .warming, minutes := 0 }

/-- The trimming of the history and the aging of the next sample time; a trim that dropped an entry computes the
estimate anew (R109). -/
def trimmed (e : Estimator) (now : Clock) : Estimator :=
  let h := e.history.dropWhile fun p => ageLimit < elapsed p.1 now
  let e := if h.length < e.history.length then computed { e with history := h } else e
  { e with nextSample := if reached e.nextSample now then aged e.nextSample now else e.nextSample }

/-- Whether a history sample is due (R108). -/
def sampleDue (e : Estimator) (faulty : Bool) (now : Clock) : Bool :=
  e.seeded && statusOf e faulty != .noData && statusOf e faulty != .profileFault && reached e.nextSample now

/-- The history with room for one more entry: of eight, the oldest is dropped (R108). -/
def roomFor (h : List (Clock × Nat)) : List (Clock × Nat) := if 8 ≤ h.length then h.drop 1 else h

/-- A history sample: the entry is appended, the next sample time set, the estimate computed (R108). -/
def sampled (c : Curve) (e : Estimator) (now : Clock) : Estimator :=
  computed { e with
    history := roomFor e.history ++ [(now, e.charge)]
    nextSample := now + BitVec.ofNat 32 (c.period * 1000) }

/-- Steps 2 to 4 of the estimator's work: trimming, the sample of an unfrozen evaluation when due, the status (R115). -/
def historyWork (c : Curve) (e : Estimator) (silent : Bool) (now : Clock) : Estimator :=
  let e := trimmed e now
  derived (if !silent && sampleDue e c.faulty now then sampled c e now else e) c.faulty

/-- The generation check: a generation other than the one seen restarts the estimator (R106). -/
def State.generationCheck (s : State) (i : Seat) : State :=
  if (s.seat i).estimator.genSeen = s.seatGeneration i then s else s.restartEstimator i

/-- The Battery Estimator's work in an evaluation, up to the status (R115). -/
def State.batteryWork (s : State) (i : Seat) (silent : Bool) : State :=
  let t := s.generationCheck i
  t.setEstimator i (historyWork (t.seatCurve i) (t.seat i).estimator silent t.clock)

/-! The battery conditions (R112 to R114) -/

/-- The raw value of a battery condition from its two thresholds and its monitor's state (R113). -/
def batteryRaw (chargeLimit minutesLimit hysteresis : Nat) (e : Estimator) (m : MonitorState) : Bool :=
  let minutes := e.status == .valid && e.minutes ≤ minutesLimit
  match m with
  | .raised | .noted => !(chargeLimit + hysteresis ≤ e.charge && !minutes)
  | _ => e.charge ≤ chargeLimit || minutes

/-- Whether the status lets the battery raw values be given (R112). -/
def batteryOffered (e : Estimator) : Bool := e.status != .noData && e.status != .profileFault

/-- The raw value of BATTERY_LOW (R113). -/
def State.rawLow (s : State) (i : Seat) : Bool :=
  let c := s.seatClass i
  batteryRaw c.lowCharge c.lowMinutes (s.seatCurve i).hysteresis (s.seat i).estimator (s.seat i).monitors[condLow].state

/-- The raw value of BATTERY_CRITICAL (R114). -/
def State.rawCritical (s : State) (i : Seat) : Bool :=
  let c := s.seatClass i
  batteryRaw c.critCharge c.critMinutes (s.seatCurve i).hysteresis (s.seat i).estimator (s.seat i).monitors[condCritical].state

end Sys2Proof.Machine
end

