-- ==== Sys2Proof/Machine/Floor.lean ====
section
/-! DEFINITION. The Floor Roster and the mute channels (spec/07_floor_and_mute_control), less the floor orders. -/

namespace Sys2Proof.Machine

/-- Seat s is removed from its place in the roster and its intent becomes MUTED (R121, steps 1 and 2). -/
def State.leaveRoster (s : State) (i : Seat) : State :=
  State.setIntent { s with roster := s.roster.erase i } i .muted

/-- Seat s leaves the roster by a revocation, a clear or a displacement: its MUTED intent is issued (R121). -/
def State.takeFloor (s : State) (i : Seat) : State := (s.leaveRoster i).issue i

/-- Seat s joins the roster at its tail, its intent becomes OPEN and is issued (R121). -/
def State.giveFloor (s : State) (i : Seat) : State :=
  State.issue (State.setIntent { s with roster := s.roster ++ [i] } i .opened) i

/-- Seat s's position on the roster, 1 for the oldest member (R122). -/
def State.position (s : State) (i : Seat) : Nat := s.roster.idxOf i + 1

/-- Whether a report's MUTED flag matches an intent (R131). -/
def matchesIntent (muted : Bool) (intent : Intent) : Bool :=
  match intent with
  | .muted => muted
  | .opened => !muted

/-- A confirmation: AWAITING or UNCONFIRMED with a matching flag becomes SETTLED with attempt 1 and no deadline
(R131, step 2). -/
def confirmed (c : MuteChannel) (muted : Bool) : MuteChannel :=
  if (c.state = .awaiting ∨ c.state = .unconfirmed) ∧ matchesIntent muted c.intent then
    { c with state := .settled, attempt := .first, deadline := none }
  else c

/-- An arrival reaches seat s's mute channel: a FRESH report issues the intent again, then the flag may confirm (R131). -/
def State.muteArrival (s : State) (i : Seat) (fresh muted : Bool) : State :=
  let t := if fresh && (s.seat i).ctx.active then s.issue i else s
  t.setChannel i (confirmed (t.seat i).channel muted)

/-- The completion of seat s's command frame: SENDING becomes AWAITING with the deadline at the confirm time (R130). -/
def State.muteCompletion (s : State) (i : Seat) : State :=
  let c := (s.seat i).channel
  if c.state = .sending then
    s.setChannel i { c with state := .awaiting, deadline := some (s.clock + BitVec.ofNat 32 (s.seatClass i).confirmTime) }
  else s

/-- Whether seat s's deadline has expired: AWAITING, and the part clock has reached the deadline (R132). -/
def State.deadlineExpired (s : State) (i : Seat) : Bool :=
  let c := (s.seat i).channel
  c.state == .awaiting && (match c.deadline with
    | none => false
    | some d => reached d s.clock)

/-- The deadline check: attempt 1 is repeated as attempt 2 and placed, attempt 2 ends UNCONFIRMED (R132). -/
def State.deadlineCheck (s : State) (i : Seat) : State :=
  let c := (s.seat i).channel
  if s.deadlineExpired i then
    match c.attempt with
    | .first =>
      let t := s.setChannel i { c with state := .sending, attempt := .second, deadline := none }
      if s.part = .running then t.place i else t
    | .second => s.setChannel i { c with state := .unconfirmed, deadline := none }
  else s

/-- A channel at entry to STOPPING (R135). -/
def stoppedChannel (c : MuteChannel) : MuteChannel :=
  match c.state with
  | .sending | .awaiting => { c with state := .sending, attempt := .first, deadline := none }
  | .settled | .unconfirmed => c

/-- The raw value of HOT_MIC (R137). -/
def State.rawHotMic (s : State) (i : Seat) : Bool :=
  match (s.seat i).ctx.sample with
  | none => false
  | some p =>
    !p.muted && !s.roster.contains i
      && ((s.seat i).channel.state == .settled || (s.seat i).channel.state == .unconfirmed)

/-- The raw value of SPEAKING_MUTED (R138). -/
def State.rawSpeaking (s : State) (i : Seat) : Bool :=
  match (s.seat i).ctx.sample with
  | none => false
  | some p => p.muted && (s.seatClass i).speechLevel ≤ p.audio

/-- The raw value of MUTE_UNCONFIRMED (R139). -/
def State.rawUnconfirmed (s : State) (i : Seat) : Bool := (s.seat i).channel.state == .unconfirmed

end Sys2Proof.Machine
end

