-- ==== Sys2Proof/Machine/Links.lean ====
section
/-! DEFINITION. The Report Link Unit (spec/02_report_links). -/

namespace Sys2Proof.Machine

/-! Characters and runs (R25, R26) -/

/-- The receiver of a link takes characters while the part is RUNNING and the link enabled (R25). -/
def State.receives (s : State) (l : LinkId) : Bool := s.part == .running && (s.link l).enabled

/-- A character as the receiver hands it on: a stop error when the stop bit was low, a parity error when the count of
ones among the data bits and the parity bit is even (R25). -/
def receivedByte (data : Byte) (parityBit stopBit : Bool) : RunByte :=
  { data := data, stopError := !stopBit, parityError := (onesOf data + bit parityBit) % 2 == 0 }

/-- The levels of one character on a line, high as true, in the order they are sent: the start bit low, the eight data bits
with the least significant first, the parity bit that makes the count of ones odd, the stop bit high (R25). -/
def sentCharacter (d : Byte) : List Bool :=
  [false] ++ (List.range 8).map (fun i => d.getLsbD i) ++ [onesOf d % 2 == 0, true]

/-- A run with one more character: the first ten are stored, all are counted, the marks are noted (R26). -/
def runWith (r : Run) (c : RunByte) : Run :=
  { bytes := if r.count < 10 then r.bytes ++ [c] else r.bytes
    count := r.count + 1
    stopMark := r.stopMark || c.stopError
    parityMark := r.parityMark || c.parityError }

/-- The frame assembler takes a character (R26). -/
def assemble (k : Link) (c : RunByte) : Link :=
  match k.assembler with
  | .sync => k
  | .idle => { k with assembler := .collecting, run := runWith emptyRun c }
  | .collecting =>
    { k with assembler := if k.run.count < 10 then .collecting else .overflow, run := runWith k.run c }
  | .overflow => { k with run := runWith k.run c }

/-- The data bytes of a run. -/
def runData (r : Run) : List Byte := r.bytes.map RunByte.data

/-- The k-th data byte of a run, 0 beyond its end. -/
def runByte (r : Run) (k : Nat) : Byte := (runData r)[k]?.getD 0

/-- The sum of the bytes modulo 256. -/
def byteSum (bs : List Byte) : Byte := bs.foldl (· + ·) 0

/-- The lead byte of a report frame (R184). -/
def reportLead : Byte := 0xC3#8

/-- The kind of a report frame: the high two bits of byte 1 (R184). -/
def frameKind (r : Run) : Nat := (runByte r 1).toNat / 64

/-- The cause under which a run is discarded, if any: the first of R27's eight that holds. -/
def discardCause (slotHeld : Bool) (r : Run) : Option (Fin 11) :=
  if slotHeld then some ctrOverrun
  else if r.stopMark then some ctrFraming
  else if r.parityMark then some ctrParity
  else if r.count < 10 then some ctrRunt
  else if 10 < r.count then some ctrOverlong
  else if runByte r 0 ≠ reportLead then some ctrBadLead
  else if byteSum (runData r) ≠ 0 then some ctrCheck
  else if 2 ≤ frameKind r then some ctrBadChannel
  else none

/-- The seat report that a good frame of kind 00 carries (R28, R184). -/
def reportOf (r : Run) : Report :=
  { channel := ⟨(runByte r 1).toNat % 64, Nat.mod_lt _ (by decide)⟩
    txId := wordOfBytes (runByte r 3).toNat (runByte r 2).toNat
    rf := runByte r 4
    pilot := (runByte r 5).getLsbD 0
    muted := (runByte r 5).getLsbD 1
    fresh := (runByte r 5).getLsbD 2
    battValid := (runByte r 5).getLsbD 3
    audio := runByte r 6
    reading := BitVec.ofNat 10 ((runByte r 7).toNat % 4 * 256 + (runByte r 8).toNat) }

/-! Good frames and the link state (R28, R34) -/

/-- A good frame makes a DOWN link UP, with the LINK cause and the summary word, and restarts the timer (R34). -/
def State.linkHeard (s : State) (l : LinkId) : State :=
  let k := s.link l
  match k.state with
  | .down => ((s.setLink l { k with state := .up, timer := some s.clock }).raise .link).writeLinkSummary
  | .up => s.setLink l { k with timer := some s.clock }
  | .disabled => s

/-- A good frame: GOOD is counted, a seat report fills the holding slot, and the link has been heard (R28). -/
def State.goodFrame (s : State) (l : LinkId) (r : Run) : State :=
  let t := s.countLink l ctrGood
  let t := if frameKind r = 0 then t.setLink l { t.link l with slot := some (reportOf r) } else t
  t.linkHeard l

/-- A run ends: it is discarded under the first cause that holds, or it is a good frame (R27). -/
def State.endRun (s : State) (l : LinkId) : State :=
  let k := s.link l
  let t := s.setLink l { k with assembler := .idle, run := emptyRun }
  match discardCause k.slot.isSome k.run with
  | some cause => t.countDiscard l cause
  | none => t.goodFrame l k.run

/-- A gap on a receive line (R26). -/
def State.gapOn (s : State) (l : LinkId) : State :=
  match (s.link l).assembler with
  | .sync => s.setLink l { s.link l with assembler := .idle }
  | .idle => s
  | .collecting | .overflow => s.endRun l

/-- Whether the link timer of a link has run out (R34). -/
def State.linkTimedOut (s : State) (l : LinkId) : Bool :=
  s.part == .running && (s.link l).state == .up && (match (s.link l).timer with
    | none => false
    | some t => (s.link l).timeout ≤ elapsed t s.clock)

/-- A link goes from UP to DOWN and its timer stops, with the summary word and the LINK cause (R34). -/
def State.linkLost (s : State) (l : LinkId) : State :=
  ((s.setLink l { s.link l with state := .down, timer := none }).raise .link).writeLinkSummary

/-! The transmitter (R38, R39) -/

/-- The byte that makes the sum of the bytes 0 modulo 256. -/
def checkByte (bs : List Byte) : Byte := -byteSum bs

/-- The command frame built from a seat's state (R38, R184). -/
def commandFrame (x : SeatState) : List Byte :=
  let b := [0x3C#8, BitVec.ofNat 8 x.ctx.channel.val, x.ctx.txId.extractLsb' 8 8, x.ctx.txId.extractLsb' 0 8,
    match x.channel.intent with
    | .muted => 0x01#8
    | .opened => 0x02#8]
  b ++ [checkByte b]

/-- The levels that a frame takes on the transmit line: its six characters back to back, in the line format (R25, R38). -/
def Frame.levels (f : Frame) : List Bool := f.bytes.flatMap sentCharacter

/-- The levels of a link's transmit line while its transmitter stands as it does: those of the frame on the line, and high
while it idles or spaces, in every part state (R25, R38). -/
def Link.transmitLine (k : Link) : List Bool :=
  match k.tx with
  | .sending f => f.levels
  | .idle => [true]
  | .spacing => [true]

/-- The transmitter takes the head of the queue when the part is RUNNING, it is IDLE, the link is UP and the queue is
not empty; the arbiter fills the room (R37, R38). -/
def State.transmit (s : State) (l : LinkId) : State :=
  let k := s.link l
  match s.part, k.tx, k.state, k.queue with
  | .running, .idle, .up, i :: rest =>
    s.setLink l (refill { k with
      queue := rest
      tx := .sending { seat := i, cancelled := false, bytes := commandFrame (s.seat i) } })
  | _, _, _, _ => s

/-- The frame on the line completes: the transmitter spaces, and an uncancelled completion is delivered (R39). -/
def State.completeFrame (s : State) (l : LinkId) : State :=
  match (s.link l).tx with
  | .sending f =>
    let t := s.setLink l { s.link l with tx := .spacing }
    if f.cancelled then t else publishVisible s (t.muteCompletion f.seat) [f.seat]
  | _ => s

/-- Whether every transmitter is IDLE. -/
def State.allIdle (s : State) : Bool := allLinks.all fun l => (s.link l).tx == .idle

/-- In STOPPING, once every transmitter is IDLE: every link is set DISABLED, the summary word is written and the lines
are reported quiet (R43). -/
def State.quietLines (s : State) : State :=
  if s.part = .stopping ∧ s.allIdle ∧ s.linesQuiet = false then
    State.writeLinkSummary { s with links := s.links.map (fun k => { k with state := .disabled }), linesQuiet := true }
  else s

/-- The spacing of a link's transmitter ends (R39). -/
def State.endSpacing (s : State) (l : LinkId) : State :=
  match (s.link l).tx with
  | .spacing => State.quietLines (s.setLink l { s.link l with tx := .idle })
  | _ => s

/-! Stop and start (R42, R43) -/

/-- A link at entry to STOPPING (R43). The run is dropped, and the frame assembler put into SYNC, where it stays until the
next entry to RUNNING (DESIGN CHOICE: R43 says of the assembler only that its run is dropped; log 28). -/
def stoppedLink (k : Link) : Link :=
  { k with
    assembler := .sync
    run := emptyRun
    slot := none
    timer := none
    queue := []
    deferred := []
    tx := match k.tx with
      | .sending f => .sending { f with cancelled := true }
      | t => t }

/-- A link at entry to RUNNING (R33, R42). -/
def startedLink (k : Link) : Link :=
  { k with
    state := if k.enabled then .down else .disabled
    timer := none
    assembler := .sync
    run := emptyRun
    slot := none
    queue := []
    deferred := []
    tx := .idle }

/-- The eleven statistics words of every link are written from the counters (R30, R42). -/
def State.writeCounters (s : State) : State :=
  allLinks.foldl (fun t l => t.putWords (hdrCounter l 0) ((s.link l).counters.toList.map word)) s

/-- Every active seat left SENDING is placed on its link, in ascending seat number (R42). -/
def State.placeSending (s : State) : State :=
  allSeats.foldl (fun t i => if (t.seat i).ctx.active ∧ (t.seat i).channel.state = .sending then t.place i else t) s

/-- The Report Link Unit at entry to RUNNING: states, publication, queueing (R42). -/
def State.startLinks (s : State) : State :=
  ({ s with links := s.links.map startedLink } : State).writeCounters.writeLinkSummary.placeSending

/-- The setup of a directory is taken by the links (R24). -/
def State.takeLinkSetup (s : State) (setup : Vector LinkSetup 8) : State :=
  { s with links := Vector.ofFn fun l : LinkId =>
      { s.link l with enabled := setup[l].enabled, divisor := setup[l].divisor, timeout := setup[l].timeout } }

/-! Clearing the counts (R32) -/

/-- One link's counters and ERRORS-SEEN are cleared and its eleven words written (R32). -/
def State.clearLinkCounts (s : State) (l : LinkId) : State :=
  (s.setLink l { s.link l with counters := Vector.replicate 11 0, errorsSeen := false }).putWords (hdrCounter l 0)
    (List.replicate 11 0)

/-- The masked links' counts are cleared; the link summary word is written when the mask names a link (R32). -/
def State.clearMaskedCounts (s : State) (mask : Byte) : State :=
  let t := allLinks.foldl (fun t l => if mask.getLsbD l.val then t.clearLinkCounts l else t) s
  if mask = 0 then s else t.writeLinkSummary

/-! Meanings -/

/-- CHARACTER_RECEIVED (R25, R26). -/
def execCharacterReceived (link : LinkId) (data : Byte) (parityBit stopBit : Bool) (s : State) :
    Host.Outcome State Fault Refusal :=
  .next (if s.receives link then s.setLink link (assemble (s.link link) (receivedByte data parityBit stopBit)) else s)

/-- GAP (R26, R27). -/
def execGap (link : LinkId) (s : State) : Host.Outcome State Fault Refusal :=
  .next (if s.receives link then s.gapOn link else s)

/-- LINK_TIMER_EXPIRY (R34). -/
def execLinkTimerExpiry (link : LinkId) (s : State) : Host.Outcome State Fault Refusal :=
  .next (if s.linkTimedOut link then s.linkLost link else s)

/-- TRANSMIT_START (R38). -/
def execTransmitStart (link : LinkId) (s : State) : Host.Outcome State Fault Refusal :=
  .next (s.transmit link)

/-- COMMAND_FRAME_COMPLETION (R39, R130). -/
def execCommandFrameCompletion (link : LinkId) (s : State) : Host.Outcome State Fault Refusal :=
  .next (s.completeFrame link)

/-- SPACING_END (R39, R43). -/
def execSpacingEnd (link : LinkId) (s : State) : Host.Outcome State Fault Refusal :=
  .next (s.endSpacing link)

end Sys2Proof.Machine
end

