-- ==== Sys2Proof/Machine/Seats.lean ====
section
/-! DEFINITION. The Seat Store (spec/01_seats_carriers_and_locks): re-initialisation, loading, deactivation, and the
acceptance of reports. -/

namespace Sys2Proof.Machine

/-! Re-initialisation (R9) -/

/-- The Seat Store's own share of a re-initialisation (R9). -/
def freshContext (c : Context) (now : Clock) : Context :=
  { c with sample := none, lastReport := now, foreignSeen := false, silence := .noCause }

/-- Seat s is re-initialised: each owner returns its share of the seat to a starting state (R9, R40, R104). -/
def State.reinitialise (s : State) (i : Seat) : State :=
  let t := (s.leaveRoster i).withdraw i
  let t := t.restartEstimator i
  let t := t.clearMonitors i
  let t := t.setTracker i (freshTracker t.clock)
  t.setCtx i (freshContext (t.seat i).ctx t.clock)

/-- The entry of an active seat's carrier is freed (R10, R12). -/
def State.freeCarrier (s : State) (i : Seat) : State :=
  let c := (s.seat i).ctx
  if c.active then s.setCarrier c.link c.channel none else s

/-- The record's fields are copied into the context (R10, R12). -/
def withRecord (c : Context) (r : SeatRecord) : Context :=
  { c with active := r.active, locked := r.locked, priority := r.priority, cls := r.cls, curve := r.curve,
           link := r.link, channel := r.channel, txId := r.txId }

/-- The estimator records the current generation of the curve the seat names now (R105). -/
def State.recordGeneration (s : State) (i : Seat) : State :=
  s.setEstimator i { (s.seat i).estimator with genSeen := s.seatGeneration i }

/-- The header's roster words are written when the event changed the roster (R120). -/
def floorHeaderIfChanged (before after : State) : State :=
  if before.roster = after.roster then after else after.writeFloorHeader

/-- A load that has passed its checks: re-initialisation, the configuration and the carrier, the mute channel, the
publication (R9 to R12). -/
def State.applyRecord (s : State) (i : Seat) (r : SeatRecord) : State :=
  let t := s.reinitialise i
  let t := t.freeCarrier i
  let t := t.setCtx i (withRecord (t.seat i).ctx r)
  let t := if r.active then t.setCarrier r.link r.channel (some i) else t
  let t := t.recordGeneration i
  let t := if r.active then (t.setIntent i .muted).issue i else t.setChannel i settledChannel
  (floorHeaderIfChanged s t).publishChange i

/-! The checks of a load (R7) -/

/-- The checks that judge the record, 5 and 6 of R7, with detail B (R8). -/
def State.recordRefusal (s : State) (i : Seat) (r : SeatRecord) : Option (ResultCode × Word) :=
  if r.active = false then none
  else if (s.link r.link).enabled = false ∨ r.txId = 0 ∨ r.txId = 0xFFFF#16 then some (.badRecord, 0)
  else
    match s.carrier r.link r.channel with
    | none => none
    | some j => if j = i then none else some (.carrierTaken, seatWord j)

/-! Start-time deactivation (R18) -/

/-- Seat s is deactivated at start: re-initialised, its carrier freed, active cleared, its mute channel settled; the
other stored fields are kept (R18). -/
def State.retire (s : State) (i : Seat) : State :=
  let t := (s.reinitialise i).freeCarrier i
  let t := t.setCtx i { (t.seat i).ctx with active := false }
  t.setChannel i settledChannel

/-- Whether a start retires a seat: active, and at or above the new seat count or on a link not enabled (R18). -/
def State.retires (s : State) (i : Seat) : Bool :=
  (s.seat i).ctx.active && (s.layout.seatCount ≤ i.val || (s.link (s.seat i).ctx.link).enabled == false)

/-! Reports (R19 to R22) -/

/-- The sample of a report: the levels clamped (R21). -/
def sampleOf (r : Report) : Sample :=
  { rf := min 120 r.rf.toNat, pilot := r.pilot, muted := r.muted, audio := min 90 r.audio.toNat }

/-- An accepted report replaces the sample whole and is offered as one arrival to the Signal Tracker, the Battery
Estimator and the Floor and Mute Unit (R21, R22). -/
def State.acceptReport (s : State) (i : Seat) (r : Report) : State :=
  let t := s.setCtx i { (s.seat i).ctx with sample := some (sampleOf r), lastReport := s.clock, foreignSeen := false }
  let t := t.setTracker i (trackPilot (t.seat i).tracker r.pilot t.clock)
  let t := t.batteryArrival i r.fresh r.battValid r.reading.toNat
  t.muteArrival i r.fresh r.muted

/-- The Seat Store's decision on a report of a link (R19, R20, R21). -/
def State.judgeReport (s : State) (l : LinkId) (r : Report) : State :=
  match s.carrier l r.channel with
  | none => s.countDiscard l ctrUnmapped
  | some i =>
    if r.txId = (s.seat i).ctx.txId then publishVisible s (s.acceptReport i r) [i]
    else
      let t := s.countDiscard l ctrForeign
      t.setCtx i { (t.seat i).ctx with foreignSeen := true }

/-- The report held by a link is taken, which empties the slot whatever is decided (R19). -/
def State.takeReport (s : State) (l : LinkId) : State :=
  match (s.link l).slot with
  | none => s
  | some r => State.judgeReport (s.setLink l { s.link l with slot := none }) l r

/-- REPORT_TAKE (R19). -/
def execReportTake (link : LinkId) (s : State) : Host.Outcome State Fault Refusal :=
  .next (if s.part = .running then s.takeReport link else s)

end Sys2Proof.Machine
end

