-- ==== Sys2Proof/Machine/OrderUnit.lean ====
section
/-! DEFINITION. The Order Unit's own work (spec/08_order_pages): taking a page, working a slot, ending a page,
suspension and resumption. -/

namespace Sys2Proof.Machine

/-! Page words -/

/-- A page's state changes and its state word shows it (R142). -/
def State.writePageState (s : State) (p : Page) (x : PageState) : State :=
  (s.setPageState p x).putWord (s.layout.stateAddr p) (word x.code)

/-- The summary word of a page (R182). -/
def State.writeSummary (s : State) (p : Page) (x : Summary) : State := s.putWord (s.layout.summaryAddr p) (word x.code)

/-- The summary word with the SUSPENDED flag set (R150, R182). -/
def suspendedWord : Word := 0x8000#16

/-- The progress word of a page. -/
def State.writeProgress (s : State) (p : Page) (n : Nat) : State := s.putWord (s.layout.progressAddr p) (word n)

/-- Result, detail A and detail B of a slot (R146, R182). -/
def State.writeResult (s : State) (p : Page) (slot : Nat) (code : ResultCode) (a b : Word) : State :=
  s.putWords (s.layout.slotAddr p slot + 3) [word code.code, a, b]

/-! Taking a page (R145) -/

/-- The unit's place in a page just taken, from its count word: 1 to 32 are worked from slot 0; any other count, or one
read with bad parity, ends the page at once (R145). -/
def takenWork (taking : Nat) (p : Page) (r : ReadWord) : PageWork :=
  let good := !r.bad && 1 ≤ r.value.toNat && r.value.toNat ≤ 32
  { taking := taking
    page := p
    count := if good then r.value.toNat else 0
    slot := 0
    begun := false
    refusals := false
    bound := none
    bulk := none
    ending := if r.bad then some .ramFault else if good then none else some .sequenceFault }

/-- The page at the head of the posting order is taken (R145). -/
def State.takeHead (s : State) : State :=
  match s.posting with
  | [] => s
  | p :: rest =>
    let t := State.writeProgress ({ s with posting := rest } |>.writeSummary p .complete) p 0
    let t := t.writePageState p .taken
    let r := t.look (t.layout.countAddr p)
    { t.readChecked (t.layout.countAddr p) with
      worked := some (takenWork s.takings p r), takings := s.takings + 1, reads := [] }

/-- The Order Unit takes a page when the part is RUNNING and no page is worked or suspended (R145). -/
def State.takeIfFree (s : State) : State :=
  if s.part = .running ∧ s.worked = none ∧ s.suspended = none then s.takeHead else s

/-! Working a slot (R146) -/

/-- The slot in hand begins: its index is written to the progress word (R146). -/
def State.beginSlot (s : State) (w : PageWork) : State :=
  if w.begun then s
  else { s.writeProgress w.page w.slot with worked := some { w with begun := true }, reads := [] }

/-- How an order ends: its result and details, the summary if it ends the page, and what a LIFT LOCK leaves behind. -/
structure OrderEnd where
  code : ResultCode
  a : Word := 0
  b : Word := 0
  ending : Option Summary := none
  lift : Option Seat := none
  bound : Option Word := none
deriving DecidableEq, Repr

/-- The order of the worked slot completes: its result and details are written, a refusal is noted, the lift of the
order before it is gone (R146, R147, R153). -/
def State.finishOrder (s : State) (w : PageWork) (e : OrderEnd) : State :=
  { s.writeResult w.page w.slot e.code e.a e.b with
    worked := some { w with
      slot := w.slot + 1, begun := false, refusals := w.refusals || !e.code.success, bound := e.bound, bulk := none,
      ending := e.ending }
    lift := e.lift
    reads := [] }

/-- A bulk order starts: its cursor is set, the suspended mark clear, its first slice in hand (R149). -/
def State.startBulk (s : State) (w : PageWork) (b : Bulk) : State :=
  { s with worked := some { w with bulk := some b, bound := none }, reads := [] }

/-- What the k-th word of the slot in hand reads as: what the reading in progress has of it, or the word as it stands. -/
def State.slotRead (s : State) (w : PageWork) (k : Nat) : ReadWord :=
  match (if w.begun then s.reads else [])[k]? with
  | some r => r
  | none => s.look (s.layout.slotAddr w.page w.slot + k)

/-- Whether the slot in hand is one for an order of the kinds `takes` accepts: its kind is one of them, or a word of the
slot is read with bad parity, so that no order can be told from it (R146; log 4). -/
def State.slotFor (s : State) (w : PageWork) (takes : Word → Bool) : Bool :=
  takes (s.slotRead w 0).value || (List.range 3).any fun k => (s.slotRead w k).bad

/-- The slot in hand is entered: it begins if it has not, and its reading is carried to its end (R146). -/
def State.enterSlot (s : State) (w : PageWork) : State :=
  let t := s.beginSlot w
  t.readOn (t.nextOrderRead { w with begun := true }) (3 + tableWords)

/-- The order of a slot whose reading has ended: a slot word with bad parity gives RAM_FAULT with its address, a broken
pairing SEQUENCE_FAULT with kind and seat word; either ends the page (R146, R152). `work` gives the state and how the
order ends, or the state alone where a bulk order has started. -/
def workEntered (work : PageWork → Slot → State → State × Option OrderEnd) (w : PageWork) (s : State) : State :=
  let rs := s.reads.take 3
  match firstBadRead rs with
  | some r => s.finishOrder w { code := .ramFault, a := word r.addr, ending := some .ramFault }
  | none =>
    let o := slotOf (valuesOf rs)
    if knownKind o.kind && !pairingHolds w o then
      s.finishOrder w { code := .sequenceFault, a := o.kind, b := o.seat, ending := some .sequenceFault }
    else
      match work w o s with
      | (u, some e) => u.finishOrder w e
      | (u, none) => u

/-- The slot in hand is worked as an order of the kinds `takes` accepts. Without a slot that is ready, or with one whose
kind is another order's, nothing happens (log 3, log 4). -/
def workSlot (takes : Word → Bool) (work : PageWork → Slot → State → State × Option OrderEnd) (s : State) : State :=
  match s.worked with
  | none => s
  | some w =>
    if s.slotReady w && s.slotFor w takes then workEntered work { w with begun := true } (s.enterSlot w) else s

/-- An order that completes in one event: `workSlot` for a single order. -/
def workOrder (kind : Word) (work : Slot → State → State × OrderEnd) (s : State) : State :=
  workSlot (· == kind) (fun _ o t => let r := work o t; (r.1, some r.2)) s

/-- A refusal that changes nothing. -/
def refusal (s : State) (code : ResultCode) (a b : Word) : State × OrderEnd := (s, { code := code, a := a, b := b })

/-! Bulk orders (R149, R150) -/

/-- The details of a bulk order: loaded, and skipped and refused (R17); or acknowledged and changed (R78). -/
def bulkDetails (b : Bulk) : Word × Word :=
  match b.kind with
  | .loadRange => (word b.handled, wordOfBytes b.refused b.second)
  | .ackAll _ => (word b.handled, word b.second)

/-- The bulk order in hand ends at a boundary with result ABORTED and the counts so far, and its page with this
summary (R148, R154). -/
def State.cutBulk (s : State) (w : PageWork) (b : Bulk) (x : Summary) : State :=
  s.finishOrder w { code := .aborted, a := (bulkDetails b).1, b := (bulkDetails b).2, ending := some x }

/-- The first two checks of a slice boundary: STOPPING, then ABORTING, end the bulk order (R149). -/
def State.boundaryCut (s : State) (w : PageWork) (b : Bulk) : Option State :=
  if s.part = .stopping then some (s.cutBulk w b .stopped)
  else if s.pageState w.page = .aborting then some (s.cutBulk w b .aborted)
  else none

/-- The worked page is suspended: its cursor is kept and marked, its summary word shows the flag, and the other page is
taken (R150). -/
def State.suspend (s : State) (w : PageWork) (b : Bulk) : State :=
  let t := s.putWord (s.layout.summaryAddr w.page) suspendedWord
  State.takeHead { t with suspended := some { w with bulk := some { b with suspendedMark := true } }, worked := none }

/-- The suspended page resumes, and the checks of its slice boundary are made again (R150). -/
def State.resume (s : State) : State :=
  match s.suspended with
  | none => s
  | some v =>
    let t := { s.writeSummary v.page .complete with worked := some v, suspended := none }
    match v.bulk with
    | none => t
    | some b => (t.boundaryCut v b).getD t

/-! Ending a page (R147) -/

/-- The Order Unit reports quiet in STOPPING once no page is worked or suspended (R154). -/
def State.quietOrders (s : State) : State :=
  { s with orderQuiet := s.orderQuiet || (s.part == .stopping && s.worked.isNone && s.suspended.isNone) }

/-- The summary with which the worked page ends now, if it does (in RUNNING or STOPPING): what a fault or the end of a bulk
order has decided, which neither STOPPING nor an abort then replaces (log 32); at an order boundary STOPPED in STOPPING, ABORTED
for an ABORTING page; COMPLETE or REFUSALS after the last slot (R147, R148, R154). -/
def State.pageSummary (s : State) (w : PageWork) : Option Summary :=
  if s.part ≠ .running ∧ s.part ≠ .stopping then none
  else if w.ending.isSome then w.ending
  else if w.bulk.isSome || w.begun then none
  else if s.part = .stopping then some .stopped
  else if s.pageState w.page = .aborting ∧ 1 ≤ w.slot then some .aborted
  else if w.slot < w.count then none
  else some (if w.refusals then .refusals else .complete)

/-- The unworked slots are marked SKIPPED with details 0 (R147). -/
def State.skipSlots (s : State) (w : PageWork) : State :=
  (List.range' w.slot (w.count - w.slot)).foldl (fun t i => t.writeResult w.page i .skipped 0 0) s

/-- The worked page ends: skipped slots, progress, summary, DONE, the PAGE_DONE cause; the lift is gone (R147, R153).
Then a suspended page resumes, or the unit takes the next page (R145, R150). -/
def State.endPage (s : State) (w : PageWork) (x : Summary) : State :=
  let t := (s.skipSlots w).writeProgress w.page w.slot
  let t := (t.writeSummary w.page x).writePageState w.page .done
  let t := { t.raise (pageDoneCause w.page) with worked := none, lift := none, reads := [] }
  let t := if t.suspended.isSome then t.resume else t.takeIfFree
  t.quietOrders

/-! The state words (R143) -/

/-- A value the host writes to a page's state word is judged against the page's state: the four accepted writes, and the
refusal of every other with STATE_REFUSED (R143). -/
def State.judgePageState (s : State) (p : Page) (value : Word) : State :=
  match s.pageState p, pageStateOfWord value with
  | .free, some .posted => { s.writePageState p .posted with posting := s.posting ++ [p] }
  | .posted, some .free => { s.writePageState p .free with posting := s.posting.erase p }
  | .taken, some .aborting => s.writePageState p .aborting
  | .done, some .free => s.writePageState p .free
  | _, _ => s.recordFault (s.layout.stateAddr p) .stateRefused

/-! Entry to STOPPING and to RUNNING -/

/-- The Order Unit at entry to STOPPING: the lift ends, and it is quiet if it has no page in hand (R153, R154). -/
def State.stopOrders (s : State) : State := State.quietOrders { s with lift := none, orderQuiet := false }

/-- The Order Unit at entry to RUNNING: the pages' states as the start checks found them, written back; the posting
order rebuilt, page A before page B; no page worked or suspended, no lift (R142). -/
def State.startOrders (s : State) (a b : PageState) : State :=
  let t := (s.writePageState .a a).writePageState .b b
  { t with
    posting := (if a = .posted then [.a] else []) ++ (if b = .posted then [.b] else [])
    worked := none
    suspended := none
    lift := none
    reads := [] }

/-! Meanings -/

/-- TAKE_PAGE (R145). -/
def execTakePage (s : State) : Host.Outcome State Fault Refusal := .next s.takeIfFree

/-- PAGE_END: the worked page ends if it is at its end (R147; log 3). -/
def execPageEnd (s : State) : Host.Outcome State Fault Refusal :=
  .next (match s.worked with
    | none => s
    | some w =>
      match s.pageSummary w with
      | none => s
      | some x => s.endPage w x)

end Sys2Proof.Machine
end

