-- ==== Sys2Proof/Machine/Classes.lean ====
section
/-! DEFINITION. The Class Store and the Curve Store: staging, replacement, RELOAD CLASSES
(spec/04_condition_monitors_and_warning_classes 4.5 and 4.6, R95 to R97), and the orders on monitors and the
estimator. -/

namespace Sys2Proof.Machine

/-! The replacement of the stores (R74) -/

/-- Whether a curve's content differs from what the store holds; an empty store differs from any content (R74). -/
def curveChanged (store : Option (Vector Curve 4)) (new : Vector Curve 4) (c : Fin 4) : Bool :=
  match store with
  | none => true
  | some old => old[c] != new[c]

/-- Whether a class's stored values change at the replacement (R75). -/
def classChanged (store : Option (Vector WarningClass 4)) (new : Vector WarningClass 4) (c : Fin 4) : Bool :=
  match store with
  | none => true
  | some old => old[c] != new[c]

/-- The stores are replaced in one event, and the generation of each changed curve advances (R74). -/
def State.replaceStores (s : State) (cls : Vector WarningClass 4) (curves : Vector Curve 4) : State :=
  { s with
    classes := some cls
    curves := some curves
    generations := Vector.ofFn fun c : Fin 4 =>
      if curveChanged s.curves curves c then s.generations[c] + 1 else s.generations[c] }

/-- The classes and curves that the 136 words of the two tables give (R71, R96). -/
def classesOfTable (ws : List Word) : Vector WarningClass 4 := stagedClasses (ws.take 64)
def curvesOfTable (ws : List Word) : Vector Curve 4 := stagedCurves (ws.drop 64)

/-- The flags of the four classes or curves as a mask. -/
def mask4 (f : Fin 4 → Bool) : Nat := maskOf ((List.finRange 4).map f)

/-- Detail A of a good RELOAD CLASSES: the classes that changed, and in bits 11:8 those with a field clamped (R75). -/
def reloadDetailA (s : State) (ws : List Word) : Word :=
  let raw := rawClasses (ws.take 64)
  wordOfBytes (mask4 fun c => classChanged s.classes (classesOfTable ws) c) (mask4 fun c => raw[c] != clampClass raw[c])

/-- Detail B: the curves whose generation advanced, and in bits 11:8 those marked faulty (R75). -/
def reloadDetailB (s : State) (ws : List Word) : Word :=
  wordOfBytes (mask4 fun c => curveChanged s.curves (curvesOfTable ws) c) (mask4 fun c => (curvesOfTable ws)[c].faulty)

/-- RELOAD CLASSES, once its reading has ended: a word with bad parity refuses it, and good tables replace the stores
(R73, R75). -/
def reloadWork (_ : Slot) (s : State) : State × OrderEnd :=
  let rs := s.reads.drop 3
  match firstBadRead rs with
  | some r => refusal s .ramFault (word r.addr) 0
  | none =>
    let ws := valuesOf rs
    (s.replaceStores (classesOfTable ws) (curvesOfTable ws),
      { code := .ok, a := reloadDetailA s ws, b := reloadDetailB s ws })

/-- RELOAD_CLASSES (R73). -/
def execReloadClasses (s : State) : Host.Outcome State Fault Refusal := .next (workOrder kindReloadClasses reloadWork s)

/-! Orders on monitors and estimators -/

/-- The checks that ACKNOWLEDGE, RESET WARNINGS and RESTART ESTIMATOR make first: the seat in range, then active; `work`
is made on a seat that passes (R76, R79, R107). -/
def onActiveSeat (o : Slot) (s : State) (work : Seat → State × OrderEnd) : State × OrderEnd :=
  match s.seatOf o.seat with
  | none => refusal s .seatRange o.seat 0
  | some i => if (s.seat i).ctx.active then work i else refusal s .seatInactive o.seat 0

/-- ACKNOWLEDGE (R76). -/
def acknowledgeWork (o : Slot) (s : State) : State × OrderEnd :=
  onActiveSeat o s fun i =>
    (s.acknowledgeSeat i o.mask, { code := .ok, a := o.seat, b := word (s.acknowledgeMask i o.mask) })

/-- The mask of the monitors that are not in the fixed CLEAR state (R79). -/
def standingMask (ms : Vector Monitor 8) : Nat := maskOf (ms.toList.map fun m => m != clearMonitor)

/-- RESET WARNINGS (R79). -/
def resetWarningsWork (o : Slot) (s : State) : State × OrderEnd :=
  onActiveSeat o s fun i =>
    if s.lockedUnlifted i then refusal s .locked o.seat 0
    else
      (publishVisible s (s.clearMonitors i) [i], { code := .ok, a := o.seat, b := word (standingMask (s.seat i).monitors) })

/-- RESTART ESTIMATOR (R107). -/
def restartEstimatorWork (o : Slot) (s : State) : State × OrderEnd :=
  onActiveSeat o s fun i =>
    (publishVisible s (s.restartEstimator i) [i],
      { code := .ok, a := o.seat, b := word (s.seat i).estimator.status.code })

/-- ACKNOWLEDGE (R76). -/
def execAcknowledge (s : State) : Host.Outcome State Fault Refusal := .next (workOrder kindAcknowledge acknowledgeWork s)

/-- RESET_WARNINGS (R79). -/
def execResetWarnings (s : State) : Host.Outcome State Fault Refusal :=
  .next (workOrder kindResetWarnings resetWarningsWork s)

/-- RESTART_ESTIMATOR (R107). -/
def execRestartEstimator (s : State) : Host.Outcome State Fault Refusal :=
  .next (workOrder kindRestartEstimator restartEstimatorWork s)

end Sys2Proof.Machine
end

