-- ==== Sys2Proof/Machine/Orders.lean ====
section
/-! DEFINITION. The seat orders, the bulk orders, the floor orders, LIFT LOCK, CLEAR LINK COUNTS and the unknown kind. -/

namespace Sys2Proof.Machine

/-! LOAD SEAT (R7, R8) -/

/-- LOAD SEAT once its reading has ended: the six checks of R7 in their order, then the load (R7 to R12). -/
def loadSeatWork (o : Slot) (s : State) : State × OrderEnd :=
  match s.seatOf o.seat with
  | none => refusal s .seatRange o.seat 0
  | some i =>
    if s.rangeBusy i then refusal s .rangeBusy o.seat 0
    else
      let rs := s.reads.drop 3
      if (firstBadRead rs).isSome then refusal s .ramFault o.seat 0
      else if s.lockedUnlifted i then refusal s .locked o.seat 0
      else
        let r := seatRecord (valuesOf rs)
        match s.recordRefusal i r with
        | some (code, b) => refusal s code o.seat b
        | none => (s.applyRecord i r, { code := .ok, a := o.seat })

/-- LOAD_SEAT (R7). -/
def execLoadSeat (s : State) : Host.Outcome State Fault Refusal := .next (workOrder kindLoadSeat loadSeatWork s)

/-! Bulk orders (R16, R17, R78, R149, R151) -/

/-- The number of seat numbers in a slice (R149). -/
def sliceSize : Nat := 16

/-- The next slice begins: the next 16 seat numbers from the cursor, or those that remain (R149). -/
def Bulk.opened (b : Bulk) : Bulk := { b with atBoundary := false, sliceEnd := min (b.cursor + sliceSize) b.stop }

/-- A bulk order of `kind` over the seat numbers `first` to `stop - 1`, its first slice in hand (R149). -/
def newBulk (kind : BulkKind) (first stop : Nat) : Bulk :=
  Bulk.opened
    { kind := kind, cursor := first, stop := stop, suspendedMark := false, atBoundary := false, sliceEnd := first,
      handled := 0, second := 0, refused := 0, firstBad := none }

/-- LOAD RANGE: refused NESTED_BULK while a page is suspended, then SEAT_RANGE for its operands; an accepted one starts
its first slice (R16, R149, R151). -/
def loadRangeWork (w : PageWork) (o : Slot) (s : State) : State × Option OrderEnd :=
  let first := o.seat.toNat
  let count := o.arg.toNat
  if s.suspended.isSome then (s, some { code := .nestedBulk })
  else if count = 0 ∨ 255 < count ∨ s.layout.seatCount < first + count then (s, some { code := .seatRange })
  else (s.startBulk w (newBulk .loadRange first (first + count)), none)

/-- LOAD_RANGE (R16). -/
def execLoadRange (s : State) : Host.Outcome State Fault Refusal := .next (workSlot (· == kindLoadRange) loadRangeWork s)

/-- ACKNOWLEDGE ALL: refused NESTED_BULK while a page is suspended; else it starts its first slice (R78, R151). -/
def acknowledgeAllWork (w : PageWork) (o : Slot) (s : State) : State × Option OrderEnd :=
  if s.suspended.isSome then (s, some { code := .nestedBulk })
  else (s.startBulk w (newBulk (.ackAll o.mask) 0 s.layout.seatCount), none)

/-- ACKNOWLEDGE_ALL (R78). -/
def execAcknowledgeAll (s : State) : Host.Outcome State Fault Refusal :=
  .next (workSlot (· == kindAcknowledgeAll) acknowledgeAllWork s)

/-- The reading of the record of a range's seat is carried to its end (R6, R17). -/
def State.readRecord (s : State) (i : Seat) : State :=
  s.readOn (fun rs => if recordRead rs then none else some (s.layout.recordAddr i + rs.length)) 3

/-- A seat of a LOAD RANGE refused or skipped: its code is kept if it is the first (R17). -/
def Bulk.failed (b : Bulk) (code : ResultCode) : Bulk :=
  { b with
    second := if code = .locked then b.second + 1 else b.second
    refused := if code = .locked then b.refused else b.refused + 1
    firstBad := b.firstBad.orElse fun _ => some code }

/-- The share of a LOAD RANGE's seat that is not skipped, once its record has been read: refused, or loaded (R17). -/
def judgeOneOfRange (i : Seat) (p : State × Bulk) : State × Bulk :=
  let (s, b) := p
  if (firstBadRead s.reads).isSome then (s, b.failed .ramFault)
  else
    let r := seatRecord (valuesOf s.reads)
    match s.recordRefusal i r with
    | some (code, _) => (s, b.failed code)
    | none => (s.applyRecord i r, { b with handled := b.handled + 1 })

/-- One seat of a LOAD RANGE: skipped for its lock, or its record is read to its end and judged (R17). -/
def loadOneOfRange (i : Seat) (p : State × Bulk) : State × Bulk :=
  let q := if p.1.lockedUnlifted i then (p.1, p.2.failed .locked) else judgeOneOfRange i (p.1.readRecord i, p.2)
  ({ q.1 with reads := [] }, q.2)

/-- One seat of an ACKNOWLEDGE ALL: passed over when inactive (R78). -/
def ackOneOfAll (mask : Byte) (i : Seat) (p : State × Bulk) : State × Bulk :=
  let (s, b) := p
  if (s.seat i).ctx.active then
    (s.acknowledgeSeat i mask,
      { b with handled := b.handled + 1, second := if s.acknowledgeMask i mask = 0 then b.second else b.second + 1 })
  else (s, b)

/-- One seat number of a bulk order, by its owner; a number that names no seat is passed over. -/
def bulkSeat (p : State × Bulk) (n : Nat) : State × Bulk :=
  match seatOfNat n with
  | none => p
  | some i =>
    match p.2.kind with
    | .loadRange => loadOneOfRange i p
    | .ackAll mask => ackOneOfAll mask i p

/-- The slice in progress is carried to its end, from the cursor on (R149). -/
def State.slice (s : State) (b : Bulk) : State × Bulk :=
  let (t, c) := (List.range' b.cursor (b.sliceEnd - b.cursor)).foldl bulkSeat (s, b)
  (t, { c with cursor := b.sliceEnd, atBoundary := true })

/-- The result of a bulk order that has visited its last seat (R17, R78). -/
def bulkEnd (b : Bulk) : OrderEnd :=
  { code := b.firstBad.getD .ok, a := (bulkDetails b).1, b := (bulkDetails b).2 }

/-- The slice in progress is worked; after the last one the order completes (R149). -/
def State.workSlice (s : State) (w : PageWork) (b : Bulk) : State :=
  let (t, c) := s.slice b
  if c.stop ≤ c.cursor then t.finishOrder w (bulkEnd c)
  else { t with worked := some { w with bulk := some c } }

/-- Whether the third check of a slice boundary suspends the page: the other page POSTED, no page suspended, the mark
clear (R149). -/
def State.yields (s : State) (w : PageWork) (b : Bulk) : Bool :=
  s.pageState (otherPage w.page) == .posted && s.suspended.isNone && !b.suspendedMark

/-- The bulk order in hand goes on: at a slice boundary the checks come first, in their order (R149). -/
def State.bulkOn (s : State) (w : PageWork) (b : Bulk) : State :=
  if b.atBoundary then
    match s.boundaryCut w b with
    | some t => t
    | none => if s.yields w b then s.suspend w b else State.workSlice { s with reads := [] } w b.opened
  else s.workSlice w b

/-- Whether the share of the seat at the cursor of a LOAD RANGE needs no further word, and is not the last of its slice:
BULK_SLICE makes that one, with the slice's end. -/
def State.shareReady (s : State) (b : Bulk) : Bool :=
  b.kind == .loadRange && !b.atBoundary && b.cursor + 1 < b.sliceEnd && (s.nextRangeRead b).isNone

/-- The work of a LOAD RANGE that needs no access: where the checks of a slice boundary let the next slice begin it begins,
and the share of a seat is made once its record has been read (R6, R149; log 2). -/
def State.rangeWork (s : State) (w : PageWork) (b : Bulk) : Option State :=
  if s.shareReady b then
    let (t, c) := bulkSeat (s, b) b.cursor
    some { t with worked := some { w with bulk := some { c with cursor := b.cursor + 1 } } }
  else if b.kind == .loadRange && b.atBoundary && (s.boundaryCut w b).isNone && !s.yields w b then
    some { s with worked := some { w with bulk := some b.opened }, reads := [] }
  else none

/-- The Order Unit's work that needs no access, if there is any. -/
def State.orderWork (s : State) : Option State :=
  match s.worked with
  | none => none
  | some w =>
    match w.bulk with
    | none => none
    | some b => if s.part = .running ∨ s.part = .stopping then s.rangeWork w b else none

/-- BULK_SLICE (R149). -/
def execBulkSlice (s : State) : Host.Outcome State Fault Refusal :=
  .next (match s.worked with
    | none => s
    | some w =>
      match w.bulk with
      | none => s
      | some b => if s.part = .running ∨ s.part = .stopping then s.bulkOn w b else s)

/-! The floor orders (R122 to R126) -/

/-- The member that a displacement takes: the oldest whose priority and locked flags are clear (R123). -/
def State.displaceable (s : State) : Option Seat :=
  s.roster.find? fun j => !(s.seat j).ctx.priority && !(s.seat j).ctx.locked

/-- GRANT FLOOR (R122, R123). -/
def grantFloorWork (o : Slot) (s : State) : State × OrderEnd :=
  match s.seatOf o.seat with
  | none => refusal s .seatRange o.seat 0
  | some i =>
    if (s.seat i).ctx.active = false then refusal s .seatInactive o.seat 0
    else if s.roster.contains i then refusal s .already o.seat (word (s.position i))
    else if s.roster.length < s.floorLimit then
      let t := s.giveFloor i
      (publishVisible s t.writeFloorHeader [i], { code := .ok, a := o.seat, b := word (t.position i) })
    else
      match s.floorPolicy, s.displaceable with
      | .displace, some j =>
        (publishVisible s ((s.takeFloor j).giveFloor i).writeFloorHeader [j, i],
          { code := .displaced, a := o.seat, b := seatWord j })
      | _, _ => refusal s .floorFull o.seat (word s.floorLimit)

/-- REVOKE FLOOR (R124). -/
def revokeFloorWork (o : Slot) (s : State) : State × OrderEnd :=
  match s.seatOf o.seat with
  | none => refusal s .seatRange o.seat 0
  | some i =>
    if s.roster.contains i = false then refusal s .notOnFloor o.seat 0
    else if s.lockedUnlifted i then refusal s .locked o.seat 0
    else
      let t := s.takeFloor i
      (publishVisible s t.writeFloorHeader [i], { code := .ok, a := o.seat, b := word t.roster.length })

/-- The members that CLEAR FLOOR removes, oldest first (R125). -/
def State.clearable (s : State) : List Seat := s.roster.filter fun j => !(s.seat j).ctx.locked

/-- CLEAR FLOOR (R125). -/
def clearFloorWork (_ : Slot) (s : State) : State × OrderEnd :=
  let out := s.clearable
  let t := out.foldl State.takeFloor s
  (publishVisible s (floorHeaderIfChanged s t) out,
    { code := .ok, a := word out.length, b := word (s.roster.length - out.length) })

/-- SET FLOOR RULES (R126). -/
def setFloorRulesWork (o : Slot) (s : State) : State × OrderEnd :=
  let limit := clampTo 1 8 (lowByte o.arg)
  let policy := policyOf (highByte o.arg)
  if limit < s.roster.length then (s, { code := .floorBusy, a := word s.roster.length, b := word limit })
  else
    (State.writeFloorHeader { s with floorLimit := limit, floorPolicy := policy },
      { code := .ok, a := word limit, b := word policy.code })

/-- GRANT_FLOOR (R122). -/
def execGrantFloor (s : State) : Host.Outcome State Fault Refusal := .next (workOrder kindGrantFloor grantFloorWork s)

/-- REVOKE_FLOOR (R124). -/
def execRevokeFloor (s : State) : Host.Outcome State Fault Refusal := .next (workOrder kindRevokeFloor revokeFloorWork s)

/-- CLEAR_FLOOR (R125). -/
def execClearFloor (s : State) : Host.Outcome State Fault Refusal := .next (workOrder kindClearFloor clearFloorWork s)

/-- SET_FLOOR_RULES (R126). -/
def execSetFloorRules (s : State) : Host.Outcome State Fault Refusal :=
  .next (workOrder kindSetFloorRules setFloorRulesWork s)

/-! LIFT LOCK, CLEAR LINK COUNTS, unknown kinds -/

/-- LIFT LOCK: the last slot of a page breaks the sequence; else the next slot is bound to the seat word, and a locked
seat below the seat count is lifted (R152). -/
def liftLockWork (w : PageWork) (o : Slot) (s : State) : State × Option OrderEnd :=
  if w.count ≤ w.slot + 1 then (s, some { code := .sequenceFault, a := o.seat, ending := some .sequenceFault })
  else
    match s.seatOf o.seat with
    | none => (s, some { code := .seatRange, a := o.seat, bound := some o.seat })
    | some i =>
      if (s.seat i).ctx.locked then (s, some { code := .ok, a := o.seat, lift := some i, bound := some o.seat })
      else (s, some { code := .notLocked, a := o.seat, bound := some o.seat })

/-- LIFT_LOCK (R152). -/
def execLiftLock (s : State) : Host.Outcome State Fault Refusal := .next (workSlot (· == kindLiftLock) liftLockWork s)

/-- CLEAR LINK COUNTS (R32). -/
def clearLinkCountsWork (o : Slot) (s : State) : State × OrderEnd :=
  (s.clearMaskedCounts o.mask, { code := .ok, a := word o.mask.toNat })

/-- CLEAR_LINK_COUNTS (R32). -/
def execClearLinkCounts (s : State) : Host.Outcome State Fault Refusal :=
  .next (workOrder kindClearLinkCounts clearLinkCountsWork s)

/-- A slot whose kind is not one of the thirteen: SEQUENCE_FAULT with the kind, and the page is to end (R146). -/
def unknownKindWork (_ : PageWork) (o : Slot) (s : State) : State × Option OrderEnd :=
  (s, some { code := .sequenceFault, a := o.kind, ending := some .sequenceFault })

/-- UNKNOWN_ORDER_KIND (R146, R178). -/
def execUnknownOrderKind (s : State) : Host.Outcome State Fault Refusal :=
  .next (workSlot (fun k => !knownKind k) unknownKindWork s)

end Sys2Proof.Machine
end

