-- ==== Sys2Proof/Machine/Evaluation.lean ====
section
/-! DEFINITION. The Scan Timer and Evaluation Engine (spec/03_evaluation_passes). -/

namespace Sys2Proof.Machine

/-! One seat's evaluation (R53 to R55) -/

/-- The owning blocks' work of an evaluation, after the silence decision (R55). -/
def State.blockWork (s : State) (i : Seat) (silent : Bool) : State :=
  let t := s.seatStoreWork i silent
  let t := t.signalWork i silent
  let t := t.batteryWork i silent
  t.deadlineCheck i

/-- The raw value of a condition that an evaluation offers, if it offers one: a frozen evaluation offers SEAT_SILENT and
MUTE_UNCONFIRMED alone, and the battery conditions are offered when the status lets them (R54, R59, R112). -/
def State.offered (s : State) (i : Seat) (silent : Bool) (c : Fin 8) : Option Bool :=
  if c = condSilent then some silent
  else if c = condUnconfirmed then some (s.rawUnconfirmed i)
  else if silent then none
  else if c = condLost then some (s.rawLost i)
  else if c = condWeak then some (s.rawWeak i)
  else if c = condLow then (if batteryOffered (s.seat i).estimator then some (s.rawLow i) else none)
  else if c = condCritical then (if batteryOffered (s.seat i).estimator then some (s.rawCritical i) else none)
  else if c = condHotMic then some (s.rawHotMic i)
  else some (s.rawSpeaking i)

/-- The Monitor Bank applies the offered raw values, and clears the monitors of disabled conditions (R62, R66). -/
def State.monitorWork (s : State) (i : Seat) (silent : Bool) : State :=
  s.setMonitors i (Vector.ofFn fun c : Fin 8 =>
    monitorAt (s.seatClass i).raiseCounts[c] (s.seatClass i).clearCounts[c] (s.offered i silent c) (s.seat i).monitors[c])

/-- The evaluation of seat s up to its publication (R52). -/
def State.judgeSeat (s : State) (i : Seat) : State := (s.blockWork i (s.isSilent i)).monitorWork i (s.isSilent i)

/-- The evaluation ends with publication: a change write for a visible change, else a refresh write in a refresh pass
(R55). -/
def publishEvaluation (before after : State) (i : Seat) : State :=
  if before.picture i = after.picture i then (if before.refreshPass then after.publishRefresh i else after)
  else after.publishChange i

/-- The evaluation of seat s, one event (R52). -/
def State.evaluate (s : State) (i : Seat) : State := publishEvaluation s (s.judgeSeat i) i

/-! The pass (R48, R49, R51) -/

/-- A pass in flight that has only inactive seats left passes over them and completes (R51; log 6). -/
def State.settlePass (s : State) : State :=
  match s.pass with
  | none => s
  | some k => if (s.nextActive k).isNone then { s with pass := none } else s

/-- The pass evaluates its next active seat; with none left it completes (R51, R52). The inactive seats before that seat
are passed over only here, as the pass goes on: one of them that a load activates before is still evaluated in this pass
(log 6). The evaluation's event ends with its board write waiting: the pass goes on, and completes, at that event, and does
not stay for the write (R51, R156; log 29). -/
def State.passOn (s : State) : State :=
  match s.pass with
  | none => s
  | some k =>
    match s.nextActive k with
    | none => { s with pass := none }
    | some i => State.settlePass { s.evaluate i with pass := some (i.val + 1) }

/-- A pass starts: next seat 0, the pass count, the clock copy, the refresh decision (R48, R50). -/
def State.startPass (s : State) : State :=
  let count := s.passCount + 1
  let left := s.countdown - 1
  let t := { s with
    pass := some 0
    passCount := count
    refreshPass := left == 0
    countdown := if left = 0 then s.refreshInterval else left }
  ((t.putWord hdrPassCount count).writeClockHeader).settlePass

/-- A late expiry: the late count, its header word and the LATE cause (R49). -/
def State.lateExpiry (s : State) : State :=
  let count := satSucc 65535 s.lateCount
  ({ s with lateCount := count }.putWord hdrLateCount (word count)).raise .late

/-- An expiry of the scan timer starts a pass, or is late (R48, R49). -/
def State.onExpiry (s : State) : State :=
  let t := s.settlePass
  match t.pass with
  | none => t.startPass
  | some _ => t.lateExpiry

/-- The start time with which the scan timer goes on, if it has run a scan period (R47). -/
def State.scanDue (s : State) : Option Clock :=
  match s.scanTimer with
  | none => none
  | some t => if s.part = .running ∧ s.scanPeriod ≤ elapsed t s.clock then some (t + BitVec.ofNat 32 s.scanPeriod) else none

/-! Entry to STOPPING and to RUNNING (R56, R58) -/

/-- The pass in flight is abandoned, its refresh flag dropped, the scan timer stopped (R47, R56). -/
def State.abandonPass (s : State) : State := { s with pass := none, refreshPass := false, scanTimer := none }

/-- The Evaluation Engine at entry to RUNNING (R58). -/
def State.startEvaluation (s : State) : State :=
  let t := ((s.writeClockHeader).putWord hdrPassCount s.passCount).putWord hdrLateCount (word s.lateCount)
  { t with countdown := 1, pass := none, refreshPass := false, scanTimer := some t.clock }

/-! Meanings -/

/-- SCAN_EXPIRY (R47). -/
def execScanExpiry (s : State) : Host.Outcome State Fault Refusal :=
  .next (match s.scanDue with
    | none => s
    | some t => State.onExpiry { s with scanTimer := some t })

/-- SEAT_EVALUATION (R52). -/
def execSeatEvaluation (s : State) : Host.Outcome State Fault Refusal :=
  .next (if s.part = .running then s.passOn else s)

/-! The rows of an evaluation's single steps (log 5) -/

/-- Whether the pass in flight has reached seat s, so that the evaluation it makes next is the seat's (R51; log 5). -/
def State.evaluable (s : State) (i : Seat) : Bool := s.part == .running && s.reachedSeat == some i

/-- Whether an evaluation of seat s takes a history sample: unfrozen, under the curve generation that the estimator has seen,
and due once the history is trimmed (R106, R108, R109). -/
def State.takesSample (s : State) (i : Seat) : Bool :=
  !s.isSilent i && (s.seat i).estimator.genSeen == s.seatGeneration i
    && sampleDue (trimmed (s.seat i).estimator s.clock) (s.seatCurve i).faulty s.clock

/-- The evaluation of seat s, when the pass has reached the seat and the evaluation makes the step that `due` tells of. The
step is never made alone: the whole evaluation is the one event (R52, R83, R94; log 5). -/
def State.evaluateWhen (s : State) (i : Seat) (due : Bool) : State := if s.evaluable i && due then s.passOn else s

/-- FADE_WINDOW_ROLLOVER: the seat's evaluation, when the fade window rolls over in it (R85; log 5). -/
def execFadeWindowRollover (seat : Seat) (s : State) : Host.Outcome State Fault Refusal :=
  .next (s.evaluateWhen seat (s.rollsWindow seat (s.isSilent seat)))

/-- HISTORY_SAMPLE: the seat's evaluation, when a history sample is taken in it (R108, R110; log 5). -/
def execHistorySample (seat : Seat) (s : State) : Host.Outcome State Fault Refusal :=
  .next (s.evaluateWhen seat (s.takesSample seat))

/-- CONFIRMATION_DEADLINE_EXPIRY: the seat's evaluation, when its confirmation deadline expires in it (R132; log 5). -/
def execConfirmationDeadlineExpiry (seat : Seat) (s : State) : Host.Outcome State Fault Refusal :=
  .next (s.evaluateWhen seat (s.deadlineExpired seat))

/-- PART_CLOCK_TICK (R45). -/
def execPartClockTick (s : State) : Host.Outcome State Fault Refusal :=
  .next { s with clock := if s.part = .running then s.clock + 1 else s.clock }

end Sys2Proof.Machine
end

