-- ==== Sys2Proof/Machine/Start.lean ====
section
/-! DEFINITION. Starting and stopping (spec/10_exchange_port_and_part_states 10.7 to 10.9). -/

namespace Sys2Proof.Machine

/-! The start checks (R173) -/

/-- The sizes and bases of the seven regions (R173). -/
def Directory.regions (d : Directory) : List (Nat × Nat) :=
  [(0, 256), (d.layout.seatTable, d.layout.seatCount * 3), (d.layout.board, d.layout.seatCount * 12),
   (d.layout.changeList, d.capacity), (d.layout.classTable, 64), (d.layout.curveTable, 72), (d.layout.pageArea, 392)]

/-- Two regions share no word. -/
def apart (x y : Nat × Nat) : Bool := x.1 + x.2 ≤ y.1 || y.1 + y.2 ≤ x.1

/-- No two of the regions share a word. -/
def allApart : List (Nat × Nat) → Bool
  | [] => true
  | x :: xs => xs.all (apart x) && allApart xs

/-- Checks 2 to 6 of R173: the start code of the first that fails. -/
def Directory.failure (d : Directory) : Option StartResult :=
  if d.layout.seatCount < 1 ∨ 512 < d.layout.seatCount then some .seatCount
  else if d.capacity < 16 ∨ 512 < d.capacity then some .listCapacity
  else if d.regions.any (fun r => ramWords < r.1 + r.2) then some .directoryRange
  else if allApart d.regions = false then some .regionOverlap
  else if d.links.toList.all (fun l => l.enabled == false) then some .noLink
  else none

/-- The page states that a start accepts (R173, check 7). -/
def startablePage (w : Word) : Option PageState :=
  match pageStateOfWord w with
  | some .free => some .free
  | some .posted => some .posted
  | some .done => some .done
  | _ => none

/-- The words that a start reads before the tables: the directory, then the two page state words (R173). -/
def wordsBeforeTables : Nat := directoryWords + 2

/-- How many words a start that ends OK has read. -/
def startWords : Nat := wordsBeforeTables + tableWords

/-- The next word that a start reads: the directory; when it passes checks 2 to 6, the page state words, page A first;
when both may start, the tables (R72, R173). A word with bad parity, or a failed check, ends the reading (log 9). -/
def nextStartRead (rs : List ReadWord) : Option Nat :=
  let ws := valuesOf rs
  let d := directoryOf ws
  if (firstBadRead rs).isSome then none
  else if rs.length < directoryWords then directoryAddrs[rs.length]?
  else if d.failure.isSome then none
  else if rs.length = directoryWords then some (d.layout.stateAddr .a)
  else if (startablePage (nth ws directoryWords)).isNone then none
  else if rs.length = directoryWords + 1 then some (d.layout.stateAddr .b)
  else if (startablePage (nth ws (directoryWords + 1))).isNone then none
  else if rs.length < startWords then some (d.layout.tableAddr (rs.length - wordsBeforeTables))
  else none

/-- The start code that the words read give: the first check of R173 that fails, or OK. -/
def startCode (rs : List ReadWord) : StartResult :=
  let ws := valuesOf rs
  let d := directoryOf ws
  if (firstBadRead (rs.take directoryWords)).isSome then .ramFault
  else
    match d.failure with
    | some code => code
    | none =>
      if (firstBadRead rs).isSome then .ramFault
      else if (startablePage (nth ws directoryWords)).isNone ∨ (startablePage (nth ws (directoryWords + 1))).isNone then .pageState
      else .ok

/-! The end of CHECKING (R174) -/

/-- The link setup and the scan settings are handed to their owners once the directory has been read without a parity
fault, whether or not the start succeeds (R24, R46, R173). -/
def State.takeSetup (s : State) (rs : List ReadWord) : State :=
  if (firstBadRead (rs.take directoryWords)).isSome then s
  else
    let d := directoryOf (valuesOf rs)
    { s.takeLinkSetup d.links with scanPeriod := d.scanPeriod, refreshInterval := d.refreshInterval }

/-- A start that fails: its code, the staging dropped, back to HALTED (R174). -/
def State.failStart (s : State) (code : StartResult) : State :=
  State.raise { s with startResult := code, reads := [], part := .halted } .started

/-- The seats that a start retires. -/
def State.retiring (s : State) : List Seat := allSeats.filter s.retires

/-- The floor rules of a start: the directory's while the roster is empty, else those in force (R119). -/
def State.startFloorRules (s : State) (d : Directory) : State :=
  { s with
    floorLimit := if s.roster.isEmpty then d.floorLimit else s.floorLimit
    floorPolicy := if s.roster.isEmpty then d.floorPolicy else s.floorPolicy }

/-- Entry to RUNNING, delivered to every block (R174): links, evaluation, floor header, pages, change list. -/
def State.enterRunning (s : State) (d : Directory) (a b : PageState) : State :=
  let t := State.startLinks { s with part := .running }
  let t := t.startEvaluation.writeFloorHeader
  (t.startOrders a b).settleChangeList d.capacity

/-- A start that succeeds: result OK, stores replaced, seats retired, floor rules settled, entry to RUNNING, and the
retired seats published (R18, R72, R119, R174). -/
def State.succeedStart (s : State) (rs : List ReadWord) : State :=
  let ws := valuesOf rs
  let d := directoryOf ws
  let tables := ws.drop wordsBeforeTables
  let t := { s with startResult := .ok, layout := d.layout, reads := [] }
  let t := t.replaceStores (classesOfTable tables) (curvesOfTable tables)
  let out := t.retiring
  let t := (out.foldl State.retire t).startFloorRules d
  let a := (startablePage (nth ws directoryWords)).getD .free
  let b := (startablePage (nth ws (directoryWords + 1))).getD .free
  (out.foldl State.publishChange (t.enterRunning d a b)).raise .started

/-- CHECKING ends: the reading is carried to its end and judged (R173, R174). -/
def State.endChecking (s : State) : State :=
  let t := s.readOn nextStartRead startWords
  let rs := t.reads
  let t := t.takeSetup rs
  if startCode rs = .ok then t.succeedStart rs else t.failStart (startCode rs)

/-! Entry to STOPPING and its end (R175) -/

/-- Entry to STOPPING, delivered to every block: the pass, the links, the mute channels, the Order Unit; a mute channel
state that changed is published (R43, R56, R69, R135, R154; log 7). -/
def State.enterStopping (s : State) : State :=
  let t := { s with part := .stopping, linesQuiet := false }
  let t := t.abandonPass
  let t : State := { t with
    links := t.links.map stoppedLink
    seats := t.seats.map fun (x : SeatState) => { x with channel := stoppedChannel x.channel } }
  (publishVisible s t.stopOrders allSeats).quietLines

/-- Whether STOPPING may end: both reports have come and no board write is in progress or waiting (R175). -/
def State.mayHalt (s : State) : Bool :=
  s.part == .stopping && s.linesQuiet && s.orderQuiet && s.boardWrites.isEmpty

/-! Resets (R172, R176) -/

/-- Every block takes its soft-reset values and the part is HALTED; the RAM is not touched (R176). The queue and the
word on the data bus are not the part's. -/
def State.softReset (s : State) : State :=
  { State.reset with
    pending := s.pending
    part := .halted
    ram := s.ram
    badParity := s.badParity
    readData := s.readData }

/-- Power-on: every block at its reset value, and CLEARING begins; the RAM's words are cleared from there on (R172). -/
def State.powerOn (s : State) : State :=
  { State.reset with pending := s.pending, ram := s.ram, badParity := s.badParity }

/-! CONTROL (R171) -/

/-- The enables of a CONTROL write are replaced whatever is done with its command; in CLEARING every register write is
ignored (R164, R171). -/
def State.setEnables (s : State) (e : BitVec 7) : State := if s.part = .clearing then s else { s with enables := e }

/-- RUN is taken in HALTED: CHECKING begins (R171, R173). -/
def State.commandRun (s : State) : State := if s.part = .halted then { s with part := .checking, reads := [] } else s

/-- STOP is taken in RUNNING (R171, R175). -/
def State.commandStop (s : State) : State := if s.part = .running then s.enterStopping else s

/-- SOFT RESET is taken in every state but CLEARING (R171, R176). -/
def State.commandSoftReset (s : State) : State := if s.part = .clearing then s else s.softReset

/-! Meanings -/

/-- POWER_ON_RESET (R172). -/
def execPowerOnReset (s : State) : Host.Outcome State Fault Refusal := .next s.powerOn

/-- RUN (R171, R173). -/
def execRun (enables : BitVec 7) (s : State) : Host.Outcome State Fault Refusal := .next (s.setEnables enables).commandRun

/-- STOP (R171, R175). -/
def execStop (enables : BitVec 7) (s : State) : Host.Outcome State Fault Refusal := .next (s.setEnables enables).commandStop

/-- SOFT_RESET (R171, R176): the write's enables are replaced first, then the reset clears them (log 10). -/
def execSoftReset (enables : BitVec 7) (s : State) : Host.Outcome State Fault Refusal :=
  .next (s.setEnables enables).commandSoftReset

/-- CHECKING_END (R174). -/
def execCheckingEnd (s : State) : Host.Outcome State Fault Refusal :=
  .next (if s.part = .checking then s.endChecking else s)

/-- STOPPING_END (R175). -/
def execStoppingEnd (s : State) : Host.Outcome State Fault Refusal :=
  .next { s with part := if s.mayHalt then .halted else s.part }

end Sys2Proof.Machine
end

