-- ==== Sys2Proof/Machine/Port.lean ====
section
/-! DEFINITION. The host's side of the Exchange Port (spec/10_exchange_port_and_part_states 10.1 to 10.6): RAM accesses,
the guard, the watched words, register writes; and the part's own RAM accesses, one at a time (R165). -/

namespace Sys2Proof.Machine

/-! Regions (R167) -/

/-- Whether a word lies in a region of this base and size. -/
def inRegion (a base size : Nat) : Bool := base ≤ a && a < base + size

/-- The Exchange Header's size. -/
def headerWords : Nat := 256

/-- The size of one order page: state, count, summary, progress and the 32 slots (R182). -/
def pageWords : Nat := 196

/-- The page to which a word of the Page Area belongs, in the layout in force. -/
def State.pageAt (s : State) (a : Nat) : Option Page :=
  if inRegion a (s.layout.pageBase .a) pageWords then some .a
  else if inRegion a (s.layout.pageBase .b) pageWords then some .b
  else none

/-- What the guard does with a host write in RUNNING and STOPPING (R167). -/
inductive Verdict where
  | write
  | refuse
  | stateWord (page : Page)
  | takenCount
deriving DecidableEq, Repr

/-- The guard's verdict on a word of a page: the state word is watched, the summary and progress words are the part's,
the count word and the slots are the host's while the page is FREE or DONE (R144, R167). -/
def State.guardPage (s : State) (p : Page) (a : Nat) : Verdict :=
  if a = s.layout.stateAddr p then .stateWord p
  else if a = s.layout.summaryAddr p ∨ a = s.layout.progressAddr p then .refuse
  else
    match s.pageState p with
    | .free | .done => .write
    | .posted | .taken | .aborting => .refuse

/-- The guard's verdict on a word (R167). -/
def State.guard (s : State) (a : Nat) : Verdict :=
  if a = takenCountAddr then .takenCount
  else if a < headerWords then .refuse
  else if inRegion a s.layout.board (s.layout.seatCount * 12) then .refuse
  else if inRegion a s.layout.changeList s.capacity then .refuse
  else
    match s.pageAt a with
    | some p => s.guardPage p a
    | none => .write

/-- A host write that the guard refuses: the word keeps its value and its parity, and WRITE_REFUSED is recorded
(R166, R167). -/
def State.refuseWrite (s : State) (a : Nat) : State := s.recordFault a .writeRefused

/-- A host write of the taken count in RUNNING and STOPPING: written, then delivered to the Board Writer (R161, R168). -/
def State.deliverTaken (s : State) (value : Word) : State := (s.putWord takenCountAddr value).acceptTaken value

/-- A host write judged by the guard (R167, R168). -/
def State.guardedWrite (s : State) (a : Nat) (value : Word) : State :=
  match s.guard a with
  | .write => s.putWord a value
  | .refuse => s.refuseWrite a
  | .stateWord p => s.judgePageState p value
  | .takenCount => s.deliverTaken value

/-! Host accesses (R165, R166) -/

/-- A host access is held off until CLEARING ends (R165). -/
def State.holdOff (s : State) (x : HostAccess) : State := { s with held := s.held ++ [x] }

/-- A host read served: the stored word goes out as it is, and bad parity records HOST_PARITY (R166). -/
def State.serveRead (s : State) (a : Nat) : State :=
  { (if s.wordBad a then s.recordFault a .hostParity else s) with readData := s.readWord a }

/-- A host write served: judged by the guard in RUNNING and STOPPING, written as it is otherwise (R167). -/
def State.serveWrite (s : State) (a : Nat) (value : Word) : State :=
  if s.part = .running ∨ s.part = .stopping then s.guardedWrite a value else s.putWord a value

/-- A held access served (R165). -/
def State.serveHeld (s : State) : HostAccess → State
  | .read a => s.serveRead a.toNat
  | .write a v => s.serveWrite a.toNat v

/-- A host read: held off in CLEARING, else served (R165). -/
def State.hostRead (s : State) (a : BitVec 14) : State :=
  if s.part = .clearing then s.holdOff (.read a) else s.serveRead a.toNat

/-- A host write: held off in CLEARING, else served (R165). -/
def State.hostWrite (s : State) (a : BitVec 14) (value : Word) : State :=
  if s.part = .clearing then s.holdOff (.write a value) else s.serveWrite a.toNat value

/-- The word address of the Page Area base in the directory (R180). -/
def hdrPageArea : Nat := 6

/-- Where a page's state word stands for the host: in RUNNING and STOPPING in the layout in force, and otherwise where the
directory as the RAM holds it places it (log 11). -/
def State.hostStateAddr (s : State) (p : Page) : Nat :=
  if s.part = .running ∨ s.part = .stopping then s.layout.stateAddr p
  else Layout.stateAddr { s.layout with pageArea := (s.readWord hdrPageArea).toNat } p

/-- A host write to a page's state word: judged by the Order Unit in RUNNING and STOPPING, an ordinary write otherwise
(R143, R167, R168). -/
def State.hostStateWrite (s : State) (p : Page) (value : Word) : State :=
  if s.part = .running ∨ s.part = .stopping then s.judgePageState p value
  else s.hostWrite (BitVec.ofNat 14 (s.hostStateAddr p)) value

/-- A host write to the taken count word: delivered in RUNNING and STOPPING, an ordinary write otherwise (R161, R168). -/
def State.hostTakenWrite (s : State) (value : Word) : State :=
  if s.part = .running ∨ s.part = .stopping then s.deliverTaken value
  else s.hostWrite (BitVec.ofNat 14 takenCountAddr) value

/-! The end of CLEARING (R172) -/

/-- Every word is 0 with good parity, the part is HALTED, and the held accesses are served in their order (R165, R172). -/
def State.endClearing (s : State) : State :=
  s.held.foldl State.serveHeld { s with part := .halted, ram := [], badParity := [], clearNext := 0, held := [] }

/-! Register writes (R164, R169, R170, R171) -/

/-- The command field of a CONTROL write acted on (R171). -/
def State.command (s : State) (c : Nat) : State :=
  match c with
  | 1 => s.commandRun
  | 2 => s.commandStop
  | 3 => s.commandSoftReset
  | _ => s

/-- The enables that a CONTROL write carries (R179). -/
def enablesOf (value : Word) : BitVec 7 := value.extractLsb' 8 7

/-- A STATUS write (R170); ignored in CLEARING (R164). -/
def State.writeStatus (s : State) (value : Word) : State := if s.part = .clearing then s else s.clearCauses value

/-- A FAULT KIND write: any value clears the latch (R169); ignored in CLEARING (R164). -/
def State.writeFaultKind (s : State) (_ : Word) : State := if s.part = .clearing then s else s.clearLatch

/-- A write to a register: FAULT ADDRESS and IDENT ignore it, the others act as R164 gives. -/
def State.registerWrite (s : State) : Register → Word → State
  | .control, v => (s.setEnables (enablesOf v)).command (field v 0 2)
  | .status, v => s.writeStatus v
  | .faultKind, v => s.writeFaultKind v
  | .faultAddress, _ => s
  | .ident, _ => s

/-! The part's own accesses, served when no command waits (R165; log 2) -/

/-- CLEARING writes its next word to 0 (R172). -/
def State.clearAccess (s : State) : State :=
  if s.clearNext < ramWords then { s.putWord s.clearNext 0 with clearNext := s.clearNext + 1 } else s

/-- CHECKING reads its next word (R173). -/
def State.checkAccess (s : State) : State :=
  match nextStartRead s.reads with
  | none => s
  | some a => s.readOne a

/-- The access for which the order in hand waits is served: its slot begins, or the next word of its order or of its
range is read (R6, R146). -/
def State.orderAccess (s : State) : State :=
  match s.worked with
  | none => s
  | some w =>
    match w.bulk with
    | some b => ((s.nextRangeRead b).map s.readOne).getD s
    | none => if w.begun then ((s.nextOrderRead w s.reads).map s.readOne).getD s else s.beginSlot w

/-- The next word of the board write at the front is written, and the Board Writer asks for the next one (R156, R165). -/
def State.boardAccess (s : State) : State :=
  match s.boardWrites with
  | [] => s
  | e :: _ => (s.boardWord e.seat).askNextWord

/-- Whether the order's access is served before the Board Writer's: it waits, and no board write waits or the one at the
front asked for its word behind it (R165). -/
def State.orderFirst (s : State) : Bool :=
  s.orderRequest.isSome && (match s.boardWrites with
    | [] => true
    | e :: _ => e.behind == s.orderRequest)

/-- The part's next access in RUNNING and STOPPING, in the order of the requests: the order's, or a word of the board write
at the front (R165; log 27). Work of the Order Unit that needs no access is done first. -/
def State.runAccess (s : State) : State :=
  match s.orderWork with
  | some t => t
  | none => if s.orderFirst then s.orderAccess else s.boardAccess

/-- One access of the part's own (log 2). -/
def State.partAccess (s : State) : State :=
  match s.part with
  | .clearing => s.clearAccess
  | .halted => s
  | .checking => s.checkAccess
  | .running => s.runAccess
  | .stopping => s.runAccess

/-! Meanings -/

/-- CLEARING_DONE: CLEARING is carried to its end (R172). -/
def execClearingDone (s : State) : Host.Outcome State Fault Refusal :=
  .next (if s.part = .clearing then s.endClearing else s)

/-- SET_CAUSE_ENABLES: a CONTROL write that carries no command (R170, R171). -/
def execSetCauseEnables (enables : BitVec 7) (s : State) : Host.Outcome State Fault Refusal := .next (s.setEnables enables)

/-- STATUS_WRITE (R170). -/
def execStatusWrite (value : Word) (s : State) : Host.Outcome State Fault Refusal := .next (s.writeStatus value)

/-- FAULT_KIND_WRITE (R169). -/
def execFaultKindWrite (value : Word) (s : State) : Host.Outcome State Fault Refusal := .next (s.writeFaultKind value)

/-- REGISTER_WRITE (R164). -/
def execRegisterWrite (reg : Register) (value : Word) (s : State) : Host.Outcome State Fault Refusal :=
  .next (s.registerWrite reg value)

/-- HOST_RAM_READ (R166). -/
def execHostRamRead (addr : BitVec 14) (s : State) : Host.Outcome State Fault Refusal := .next (s.hostRead addr)

/-- HOST_RAM_WRITE (R167). -/
def execHostRamWrite (addr : BitVec 14) (value : Word) (s : State) : Host.Outcome State Fault Refusal :=
  .next (s.hostWrite addr value)

/-- PAGE_STATE_WRITE (R143). -/
def execPageStateWrite (page : Page) (value : Word) (s : State) : Host.Outcome State Fault Refusal :=
  .next (s.hostStateWrite page value)

/-- TAKEN_COUNT_WRITE (R161). -/
def execTakenCountWrite (value : Word) (s : State) : Host.Outcome State Fault Refusal := .next (s.hostTakenWrite value)

end Sys2Proof.Machine
end

