-- ==== Sys2Proof/Machine/Dispatch.lean ====
section
/-! DEFINITION. The dispatch: one arm for each command. -/

namespace Sys2Proof.Machine

def exec (i : Instr) (s : State) : Host.Outcome State Fault Refusal :=
  match i with
  | .powerOnReset => Sys2Proof.Machine.execPowerOnReset s
  | .clearingDone => Sys2Proof.Machine.execClearingDone s
  | .run enables => Sys2Proof.Machine.execRun enables s
  | .stop enables => Sys2Proof.Machine.execStop enables s
  | .softReset enables => Sys2Proof.Machine.execSoftReset enables s
  | .setCauseEnables enables => Sys2Proof.Machine.execSetCauseEnables enables s
  | .statusWrite value => Sys2Proof.Machine.execStatusWrite value s
  | .faultKindWrite value => Sys2Proof.Machine.execFaultKindWrite value s
  | .registerWrite reg value => Sys2Proof.Machine.execRegisterWrite reg value s
  | .hostRamRead addr => Sys2Proof.Machine.execHostRamRead addr s
  | .hostRamWrite addr value => Sys2Proof.Machine.execHostRamWrite addr value s
  | .pageStateWrite page value => Sys2Proof.Machine.execPageStateWrite page value s
  | .takenCountWrite value => Sys2Proof.Machine.execTakenCountWrite value s
  | .checkingEnd => Sys2Proof.Machine.execCheckingEnd s
  | .stoppingEnd => Sys2Proof.Machine.execStoppingEnd s
  | .gap link => Sys2Proof.Machine.execGap link s
  | .linkTimerExpiry link => Sys2Proof.Machine.execLinkTimerExpiry link s
  | .reportTake link => Sys2Proof.Machine.execReportTake link s
  | .transmitStart link => Sys2Proof.Machine.execTransmitStart link s
  | .commandFrameCompletion link => Sys2Proof.Machine.execCommandFrameCompletion link s
  | .spacingEnd link => Sys2Proof.Machine.execSpacingEnd link s
  | .scanExpiry => Sys2Proof.Machine.execScanExpiry s
  | .seatEvaluation => Sys2Proof.Machine.execSeatEvaluation s
  | .fadeWindowRollover seat => Sys2Proof.Machine.execFadeWindowRollover seat s
  | .historySample seat => Sys2Proof.Machine.execHistorySample seat s
  | .confirmationDeadlineExpiry seat => Sys2Proof.Machine.execConfirmationDeadlineExpiry seat s
  | .boardWrite seat => Sys2Proof.Machine.execBoardWrite seat s
  | .takePage => Sys2Proof.Machine.execTakePage s
  | .loadSeat => Sys2Proof.Machine.execLoadSeat s
  | .loadRange => Sys2Proof.Machine.execLoadRange s
  | .acknowledgeAll => Sys2Proof.Machine.execAcknowledgeAll s
  | .bulkSlice => Sys2Proof.Machine.execBulkSlice s
  | .reloadClasses => Sys2Proof.Machine.execReloadClasses s
  | .acknowledge => Sys2Proof.Machine.execAcknowledge s
  | .resetWarnings => Sys2Proof.Machine.execResetWarnings s
  | .grantFloor => Sys2Proof.Machine.execGrantFloor s
  | .revokeFloor => Sys2Proof.Machine.execRevokeFloor s
  | .clearFloor => Sys2Proof.Machine.execClearFloor s
  | .setFloorRules => Sys2Proof.Machine.execSetFloorRules s
  | .restartEstimator => Sys2Proof.Machine.execRestartEstimator s
  | .liftLock => Sys2Proof.Machine.execLiftLock s
  | .clearLinkCounts => Sys2Proof.Machine.execClearLinkCounts s
  | .unknownOrderKind => Sys2Proof.Machine.execUnknownOrderKind s
  | .pageEnd => Sys2Proof.Machine.execPageEnd s
  | .characterReceived link data parityBit stopBit => Sys2Proof.Machine.execCharacterReceived link data parityBit stopBit s
  | .partClockTick => Sys2Proof.Machine.execPartClockTick s

end Sys2Proof.Machine
end

