-- ==== Sys2Proof/Safety.lean ====
section
/-! DEFINITION. The laws of the part that every step keeps, and the words in which statements speak of an order, its
result and what an event leaves alone. -/

namespace Sys2Proof.Machine

/-! Laws -/

/-- The RAM stands in its canonical form, and the bytes with bad parity are listed once each, inside the RAM (log 8). -/
abbrev State.memoryLaw (s : State) : Prop :=
  Memory.wf s.ram = true ∧ s.badParity.Pairwise (· < ·) ∧ ∀ b ∈ s.badParity, b < 2 * ramWords

/-- FAULT is set exactly while the fault latch holds a fault (R169, R170). -/
abbrev State.latchLaw (s : State) : Prop := s.causeSet .fault = s.faultLatch.isSome

/-- The Carrier Map names a seat exactly when it is active, and then only at its configured carrier (R5). -/
abbrev State.carrierLaw (s : State) : Prop :=
  ∀ (l : LinkId) (c : Channel) (i : Seat), s.carrier l c = some i ↔
    ((s.seat i).ctx.active = true ∧ (s.seat i).ctx.link = l ∧ (s.seat i).ctx.channel = c)

/-- The roster holds no more seats than the limit, 1 to 8, only active seats, each once; a seat's intent is OPEN exactly
when it is on the roster (R118, R119). -/
abbrev State.rosterLaw (s : State) : Prop :=
  1 ≤ s.floorLimit ∧ s.floorLimit ≤ 8 ∧ s.roster.length ≤ s.floorLimit ∧ s.roster.Nodup
    ∧ (∀ i ∈ s.roster, (s.seat i).ctx.active = true)
    ∧ ∀ i : Seat, (s.seat i).channel.intent = .opened ↔ i ∈ s.roster

/-- A monitor counts only in ONSET and EASING, has its acknowledged flag set only in EASING, and its REPEAT flag only
while RAISED, EASING unacknowledged or LAPSED (R60, R64). -/
abbrev Monitor.lawful (m : Monitor) : Prop :=
  (m.n ≠ 0 ↔ (m.state = .onset ∨ m.state = .easing)) ∧ (m.ack = true → m.state = .easing)
    ∧ (m.rep = true → m.state = .raised ∨ m.state = .easing ∧ m.ack = false ∨ m.state = .lapsed)

/-- Every monitor is lawful, and an inactive seat's monitors are CLEAR with counter 0 (R60, R64). -/
abbrev State.monitorLaw (s : State) : Prop :=
  ∀ i : Seat, (∀ m ∈ (s.seat i).monitors.toList, m.lawful)
    ∧ ((s.seat i).ctx.active = false → ∀ m ∈ (s.seat i).monitors.toList, m.state = .clear ∧ m.n = 0)

/-- What the seats of a link that wait for it are: at most 16 queued, none twice, none both queued and deferred; the
deferred set is empty unless the queue is full; each is an active seat of the link whose mute channel is SENDING
(R36, R37). -/
abbrev State.queueLawful (s : State) (l : LinkId) : Prop :=
  (s.link l).queue.length ≤ 16 ∧ ((s.link l).queue ++ (s.link l).deferred).Nodup
    ∧ (s.link l).deferred.Pairwise (· < ·) ∧ ((s.link l).deferred ≠ [] → (s.link l).queue.length = 16)
    ∧ ∀ i ∈ (s.link l).queue ++ (s.link l).deferred,
        (s.seat i).ctx.active = true ∧ (s.seat i).ctx.link = l ∧ (s.seat i).channel.state = .sending

/-- An uncancelled frame in flight is for an active seat of the link whose mute channel is SENDING, and which does not
wait for the link again (R38 to R40, R130). -/
abbrev State.flightLawful (s : State) (l : LinkId) : Prop :=
  match (s.link l).tx with
  | .sending f => f.cancelled = false →
      (s.seat f.seat).ctx.active = true ∧ (s.seat f.seat).ctx.link = l ∧ (s.seat f.seat).channel.state = .sending
        ∧ f.seat ∉ (s.link l).queue ++ (s.link l).deferred
  | _ => True

/-- The downlink queues, the deferred sets and the frames in flight are lawful (R36, R37). -/
abbrev State.downlinkLaw (s : State) : Prop := ∀ l : LinkId, s.queueLawful l ∧ s.flightLawful l

/-- The change list holds no seat twice and no more than its capacity; a seat is listed exactly while it is present,
relist-due only while listed, never both listed and owed; the owed count is the number of owed seats, and there are owed
seats only while the list is full; the number present is fill count less accepted taken count (R159). -/
abbrev State.changeListLaw (s : State) : Prop :=
  16 ≤ s.capacity ∧ s.capacity ≤ 512 ∧ s.changeList.length ≤ s.capacity ∧ s.changeList.Nodup ∧ s.writePos < s.capacity
    ∧ s.fillCount - s.takenCount = word s.changeList.length
    ∧ (∀ i : Seat, ((s.seat i).board.listed = true ↔ i ∈ s.changeList)
        ∧ ((s.seat i).board.relistDue = true → (s.seat i).board.listed = true)
        ∧ ((s.seat i).board.owed = true → (s.seat i).board.listed = false))
    ∧ s.owedCount = allSeats.countP (fun i => (s.seat i).board.owed)
    ∧ (s.owedCount ≠ 0 → s.changeList.length = s.capacity)

/-- The ranges of an estimator: F at most 16368, v the rounding of F, charge at most 1000, minutes at most 999, at most 8
entries of history, none above 1000 (R98). -/
abbrev Estimator.lawful (e : Estimator) : Prop :=
  e.f ≤ 16368 ∧ e.v ≤ 1023 ∧ (e.seeded = true → e.v = (e.f + 8) / 16) ∧ e.charge ≤ 1000 ∧ e.minutes ≤ 999
    ∧ e.history.length ≤ 8 ∧ ∀ p ∈ e.history, p.2 ≤ 1000

/-- Every estimator keeps its ranges (R98). -/
abbrev State.estimatorLaw (s : State) : Prop := ∀ i : Seat, (s.seat i).estimator.lawful

/-- The times of a history strictly increase: each entry is later on the part clock than every entry before it, by no more
than the 1,000,000,000 ms that a trim leaves; an unseeded estimator has no history; the next sample time lies after the
newest entry, by no more than the longest sample period (R98, R108, R109). -/
abbrev Estimator.historyLawful (e : Estimator) : Prop :=
  e.history.Pairwise (fun p q => 0 < (q.1 - p.1).toNat ∧ (q.1 - p.1).toNat ≤ 1000000000)
    ∧ (e.seeded = false → e.history = [])
    ∧ ∀ p ∈ e.history.getLast?, 0 < (e.nextSample - p.1).toNat ∧ (e.nextSample - p.1).toNat ≤ 120000

/-- The history of every seat keeps its order (R98). -/
abbrev State.historyLaw (s : State) : Prop := ∀ i : Seat, (s.seat i).estimator.historyLawful

/-- The Curve Store holds curves while the part runs, and no sample period outside its range (R95, R96). -/
abbrev State.curveLaw (s : State) : Prop :=
  (s.part = .running → s.curves ≠ none) ∧ ∀ cs ∈ s.curves, ∀ c : Fin 4, 10 ≤ cs[c].period ∧ cs[c].period ≤ 120

/-- What is left of a bulk order's slice is no more than 16 seat numbers, and ends within the order (R149). -/
abbrev Bulk.sliceLawful (b : Bulk) : Prop :=
  b.atBoundary = true ∨ b.cursor ≤ b.sliceEnd ∧ b.sliceEnd ≤ b.cursor + 16 ∧ b.sliceEnd ≤ b.stop

/-- A place in a page is sound: at most 32 slots, the slot in hand not beyond the last; a bulk order stands in a slot of
the page, has its cursor no further than its end, ends within the seat count, has a lawful slice, and leaves no slot bound
(R145, R149). -/
abbrev State.workLawful (s : State) (w : PageWork) : Prop :=
  w.count ≤ 32 ∧ w.slot ≤ w.count
    ∧ ∀ b ∈ w.bulk, w.slot < w.count ∧ b.cursor ≤ b.stop ∧ b.stop ≤ s.layout.seatCount ∧ w.bound = none ∧ w.ending = none
        ∧ b.sliceLawful

/-- The pages and the lift: a page waits in the posting order exactly while POSTED, once; the worked page and the
suspended page are TAKEN or ABORTING and are not the same page; a suspended page has a bulk order in hand and another page
is worked, which has none; the lift exists only while a page is worked whose next slot is bound to the seat it names
(R142, R150, R151, R153). -/
abbrev State.pageLaw (s : State) : Prop :=
  s.posting.Nodup ∧ (∀ p ∈ [Page.a, Page.b], p ∈ s.posting ↔ s.pageState p = .posted)
    ∧ (∀ w ∈ s.worked, s.workLawful w ∧ (s.pageState w.page = .taken ∨ s.pageState w.page = .aborting))
    ∧ (∀ v ∈ s.suspended, s.workLawful v ∧ (s.pageState v.page = .taken ∨ s.pageState v.page = .aborting) ∧ v.bulk.isSome
        ∧ s.worked.isSome ∧ ∀ w ∈ s.worked, w.page ≠ v.page ∧ w.bulk = none)
    ∧ (∀ i ∈ s.lift, s.worked.isSome ∧ ∀ w ∈ s.worked, w.bulk = none ∧ w.bound = some (seatWord i))

/-- The seven regions of the layout in force, as (base, size) (R173). -/
def State.regions (s : State) : List (Nat × Nat) :=
  [(0, 256), (s.layout.seatTable, s.layout.seatCount * 3), (s.layout.board, s.layout.seatCount * 12),
   (s.layout.changeList, s.capacity), (s.layout.classTable, 64), (s.layout.curveTable, 72), (s.layout.pageArea, 392)]

/-- The regions lie in the RAM and no two share a word (R173, checks 4 and 5). -/
abbrev State.layoutSound (s : State) : Prop :=
  (∀ r ∈ s.regions, r.1 + r.2 ≤ ramWords) ∧ allApart s.regions = true

/-- In RUNNING and STOPPING the seat count, the capacity and the regions are such as a start accepts (R173). -/
abbrev State.layoutLaw (s : State) : Prop :=
  s.part = .running ∨ s.part = .stopping →
    1 ≤ s.layout.seatCount ∧ s.layout.seatCount ≤ 512 ∧ 16 ≤ s.capacity ∧ s.capacity ≤ 512 ∧ s.layoutSound

/-- An active seat is below the seat count and has a transmitter ID of 1 to FFFEh; an inactive seat has no sample, silence
cause NONE and its mute channel SETTLED, attempt 1, no deadline, intent MUTED (R3, R7, R12, R128). -/
abbrev State.seatLaw (s : State) : Prop :=
  ∀ i : Seat, if (s.seat i).ctx.active
    then i.val < s.layout.seatCount ∧ (s.seat i).ctx.txId ≠ 0 ∧ (s.seat i).ctx.txId ≠ 0xFFFF#16
    else (s.seat i).ctx.sample = none ∧ (s.seat i).ctx.silence = .noCause ∧ (s.seat i).channel = settledChannel

/-! Code tables, written out from the spec's layouts -/

/-- The part state in STATUS (R179). -/
def partNumber : PartState → Nat
  | .clearing => 0 | .halted => 1 | .checking => 2 | .running => 3 | .stopping => 4

/-- The start result in STATUS (R185). -/
def startNumber : StartResult → Nat
  | .noResult => 0 | .ok => 1 | .directoryRange => 2 | .regionOverlap => 3 | .seatCount => 4 | .listCapacity => 5
  | .pageState => 6 | .ramFault => 7 | .noLink => 8

/-- The fault kind in FAULT KIND (R179). -/
def faultNumber : FaultKind → Nat
  | .parity => 1 | .hostParity => 2 | .writeRefused => 3 | .stateRefused => 4 | .markRange => 5

/-- The bit of a cause, in CONTROL and in STATUS (R179). -/
def causeNumber : Cause → Nat
  | .pageDoneA => 8 | .pageDoneB => 9 | .changes => 10 | .fault => 11 | .link => 12 | .late => 13 | .started => 14

/-- The state of a page in its state word (R182). -/
def pageNumber : PageState → Nat
  | .free => 0 | .posted => 1 | .taken => 2 | .aborting => 3 | .done => 4

/-- The code of a page's summary (R182). -/
def summaryWord : Summary → Word
  | .complete => 0 | .refusals => 1 | .sequenceFault => 2 | .aborted => 3 | .stopped => 4 | .ramFault => 5

/-- The result codes of a slot (R182). -/
def resultWord : ResultCode → Word
  | .ok => 0x00#16 | .already => 0x01#16 | .displaced => 0x02#16 | .seatRange => 0x10#16 | .seatInactive => 0x11#16
  | .locked => 0x12#16 | .notLocked => 0x13#16 | .notOnFloor => 0x14#16 | .floorFull => 0x15#16 | .floorBusy => 0x16#16
  | .badRecord => 0x17#16 | .carrierTaken => 0x18#16 | .rangeBusy => 0x19#16 | .nestedBulk => 0x1A#16
  | .ramFault => 0x20#16 | .skipped => 0x30#16 | .aborted => 0x31#16 | .sequenceFault => 0x3F#16

/-- The floor policy in the rules word (R180). -/
def policyNumber : FloorPolicy → Nat
  | .refuse => 0 | .displace => 1

/-- The board code of a monitor (R65). -/
def boardCode : MonitorState → Nat
  | .clear => 0 | .onset => 0 | .raised => 1 | .noted => 2 | .easing => 3 | .lapsed => 4

/-- The mute channel state in the seat flags (R183). -/
def channelNumber : ChannelState → Nat
  | .settled => 0 | .sending => 1 | .awaiting => 2 | .unconfirmed => 3

/-- The silence cause in the seat flags (R183). -/
def silenceNumber : SilenceCause → Nat
  | .noCause => 0 | .noReports => 1 | .linkDown => 2 | .foreignUnit => 3

/-- The estimate status in the seat flags, and in RESTART ESTIMATOR's detail B (R183). -/
def statusNumber : EstimateStatus → Nat
  | .noData => 0 | .profileFault => 1 | .warming => 2 | .notDischarging => 3 | .capped => 4 | .valid => 5

/-- Header word 36: bit L is link L UP, bit 8 + L its ERRORS-SEEN (R31, R180). -/
def SummaryShown (t : State) : Prop :=
  ∀ l : LinkId, ((t.readWord 36).getLsbD l.val = true ↔ (t.link l).state = .up)
    ∧ (t.readWord 36).getLsbD (8 + l.val) = (t.link l).errorsSeen

/-! What an event leaves alone -/

/-- Every word of the RAM but those that `stored` names reads as before, with the parity it had. -/
def wordsKept (s t : State) (stored : Nat → Prop) : Prop :=
  ∀ a, ¬ stored a → t.readWord a = s.readWord a ∧ t.wordBad a = s.wordBad a

/-- Every seat but those that `changed` names is as before. -/
def seatsKept (s t : State) (changed : Seat → Prop) : Prop := ∀ j, ¬ changed j → t.seat j = s.seat j

/-- Every link but those that `changed` names is as before. -/
def linksKept (s t : State) (changed : LinkId → Prop) : Prop := ∀ l, ¬ changed l → t.link l = s.link l

/-! Orders -/

/-- The worked page `w` lets its slot in hand be worked, and the slot's kind, seat and argument words, those already read
as they were read and the others as they stand, are good and spell `o`; a LIFT LOCK before the slot lets it be worked
(R146, R152). -/
structure State.OrderInHand (s : State) (w : PageWork) (o : Slot) : Prop where
  worked : s.worked = some w
  ready : s.slotReady w = true
  kind : (s.slotRead w 0).value = o.kind
  seat : (s.slotRead w 1).value = o.seat
  arg : (s.slotRead w 2).value = o.arg
  good : ∀ k < 3, (s.slotRead w k).bad = false
  pairing : pairingHolds w o = true
  count : w.count ≤ 32

/-- The words that working the slot in hand stores to: the progress word, and the slot's result and details. -/
def slotWords (s : State) (w : PageWork) (a : Nat) : Prop :=
  a = s.layout.progressAddr w.page ∨ ∃ k, 3 ≤ k ∧ k < 6 ∧ a = s.layout.slotAddr w.page w.slot + k

/-- The eight roster words and the rules word of the header (R120, R180). -/
def floorWords (a : Nat) : Prop := 41 ≤ a ∧ a ≤ 49

/-- The slot in hand has completed: its index is in the progress word if the slot began here, the result and the details
are in the slot, and the unit stands before the next slot, having noted a refusal; no lift is left (R146, R147, R153). -/
structure OrderDone (s t : State) (w : PageWork) (code : ResultCode) (a b : Word) : Prop where
  progress : w.begun = false → t.readWord (s.layout.progressAddr w.page) = word w.slot
  result : t.readWord (s.layout.slotAddr w.page w.slot + 3) = resultWord code
  detailA : t.readWord (s.layout.slotAddr w.page w.slot + 4) = a
  detailB : t.readWord (s.layout.slotAddr w.page w.slot + 5) = b
  worked : t.worked = some { w with
    slot := w.slot + 1, begun := false, refusals := w.refusals || !code.success, bound := none, bulk := none, ending := none }
  lift : t.lift = none
  reads : t.reads = []

/-- The slot in hand ended as a refusal or a success that changed nothing but the slot and the unit's own place. -/
def answeredOnly (s t : State) (w : PageWork) (code : ResultCode) (a b : Word) : Prop :=
  OrderDone s t w code a b ∧ wordsKept s t (slotWords s w)
    ∧ t = { s with ram := t.ram, badParity := t.badParity, worked := t.worked, lift := none, reads := [] }

/-- The change write that an event of another block than the Order Unit, at the state `t`, leaves waiting for seat i: it
asks for its first word behind the order's access that waits then (R157, R158, R165; log 27). -/
def changeWrite (t : State) (i : Seat) : BoardEntry :=
  { seat := i, change := true, body := t.boardBody i, written := 0, behind := t.orderRequest }

/-- The change write that an order leaves waiting for seat i: while its own event lasts, no access of the Order Unit waits
(R157, R158, R165; log 27). -/
def orderWrite (t : State) (i : Seat) : BoardEntry := { changeWrite t i with behind := none }

/-- The changed-at of a board seat set to the reading of an event (R158). -/
def changedNow (b : BoardSeat) (now : Clock) : BoardSeat := { b with changedAt := now }

/-! Commands and what they report -/

/-- The command field that a command carries to CONTROL: 1 RUN, 2 STOP, 3 SOFT RESET, and 0 for none (R171). -/
def controlField : Instr → Nat
  | .run _ => 1
  | .stop _ => 2
  | .softReset _ => 3
  | .registerWrite .control v => field v 0 2
  | _ => 0

/-- A fault has been reported to the latch: an empty latch takes it and FAULT is set, a latch that holds one sets
MULTIPLE and keeps the rest (R169). -/
structure FaultReported (s t : State) (addr : Nat) (kind : FaultKind) : Prop where
  empty : s.faultLatch = none → t.faultLatch = some { addr := addr, kind := kind, multiple := false }
    ∧ t.causeSet .fault = true
  full : ∀ f, s.faultLatch = some f → t.faultLatch = some { f with multiple := true } ∧ t.causeSet .fault = s.causeSet .fault
  others : ∀ c, c ≠ .fault → t.causeSet c = s.causeSet c

/-- A cause has been set and every other is as before. -/
def raised (s t : State) (c : Cause) : Prop := t.causeSet c = true ∧ ∀ d, d ≠ c → t.causeSet d = s.causeSet d

/-- The change writes that an event leaves waiting for those of the seats `is` that an entry is written for: the ones
below the seat count (R156, R158). -/
def changeWrites (t : State) (is : List Seat) : List BoardEntry :=
  (is.filter fun i => i.val < t.layout.seatCount).map (changeWrite t)

/-- The change writes that an order leaves waiting for those of the seats `is` that an entry is written for. -/
def orderWrites (t : State) (is : List Seat) : List BoardEntry :=
  (is.filter fun i => i.val < t.layout.seatCount).map (orderWrite t)

/-- A link's counters with the one of index i counted once more, up to 65535 (R30). -/
def counted (cs : Vector Nat 11) (i : Fin 11) : Vector Nat 11 := cs.set i (if cs[i] < 65535 then cs[i] + 1 else cs[i])

/-- The header shows what was counted on link l under index i, and nothing else of the RAM has changed but the link
summary word where `summary` says so (R30, R31). -/
structure CountShown (s t : State) (l : LinkId) (i : Fin 11) (summary : Prop) : Prop where
  counter : (s.link l).counters[i] < 65535 → t.readWord (64 + 11 * l.val + i.val) = word ((s.link l).counters[i] + 1)
  shown : summary → SummaryShown t
  kept : wordsKept s t fun a => a = 64 + 11 * l.val + i.val ∧ (s.link l).counters[i] < 65535 ∨ a = 36 ∧ summary

/-- A persistence step took a monitor from `m` to `m'` on the raw value `c`, with raise count R and clear count K: the
table of R62, row by row. REPEAT changes on the re-raise from LAPSED alone. -/
structure Persisted (raiseCount clearCount : Nat) (c : Bool) (m m' : Monitor) : Prop where
  clear : m.state = .clear → m' = if c then
      (if raiseCount ≤ 1 then { m with state := .raised, n := 0 } else { m with state := .onset, n := 1 }) else m
  onset : m.state = .onset → m' = if c then
      (if raiseCount ≤ m.n + 1 then { m with state := .raised, n := 0 } else { m with n := m.n + 1 })
      else { m with state := .clear, n := 0 }
  raised : m.state = .raised → m' = if c then m else if clearCount ≤ 1 then { m with state := .lapsed, n := 0, ack := false }
      else { m with state := .easing, n := 1, ack := false }
  noted : m.state = .noted → m' = if c then m else if clearCount ≤ 1 then { m with state := .clear, n := 0, ack := false }
      else { m with state := .easing, n := 1, ack := true }
  easing : m.state = .easing → m' = if c then { m with state := if m.ack then .noted else .raised, n := 0, ack := false }
      else if clearCount ≤ m.n + 1 then { m with state := if m.ack then .clear else .lapsed, n := 0, ack := false }
      else { m with n := m.n + 1 }
  lapsed : m.state = .lapsed → m' = if c then { m with state := .raised, n := 0, rep := true } else m

/-- The estimate that a history gives: the table of R110. -/
structure Estimated (h : List (Clock × Nat)) (t0 : Clock) (c0 : Nat) (tn : Clock) (cn : Nat) (e : Estimator) : Prop where
  warming : h.length < 4 → e.result = .warming ∧ e.minutes = 0
  flat : 4 ≤ h.length → c0 ≤ cn → e.result = .notDischarging ∧ e.minutes = 0
  valid : 4 ≤ h.length → cn < c0 → cn * (tn - t0).toNat / ((c0 - cn) * 60000) ≤ 999 →
    e.result = .valid ∧ e.minutes = cn * (tn - t0).toNat / ((c0 - cn) * 60000)
  capped : 4 ≤ h.length → cn < c0 → 999 < cn * (tn - t0).toNat / ((c0 - cn) * 60000) → e.result = .capped ∧ e.minutes = 999

/-- What a history leaves of an estimate: R110's table on its oldest and its newest entry; fewer than four entries give
WARMING. -/
structure EstimateOf (h : List (Clock × Nat)) (e : Estimator) : Prop where
  few : h.length < 4 → e.result = .warming ∧ e.minutes = 0
  table : ∀ t0 c0 tn cn, h.head? = some (t0, c0) → h.getLast? = some (tn, cn) → Estimated h t0 c0 tn cn e

/-- A curve is valid: breakpoints at most 1023 that strictly ascend, charges at most 1000 that do not descend (R97). -/
structure CurveValid (c : Curve) : Prop where
  volts : ∀ k : Fin 8, c.volts[k] ≤ 1023
  rising : ∀ j k : Fin 8, j < k → c.volts[j] < c.volts[k]
  charges : ∀ k : Fin 8, c.charges[k] ≤ 1000
  notFalling : ∀ j k : Fin 8, j < k → c.charges[j] ≤ c.charges[k]

/-- The charge for the rounded voltage v on a valid curve: flat at and below the first breakpoint and at and above the last,
the floor of the straight line between two breakpoints (R102). -/
structure ChargeTaken (c : Curve) (v charge : Nat) : Prop where
  low : v ≤ c.volts[0] → charge = c.charges[0]
  high : c.volts[7] ≤ v → charge = c.charges[7]
  between : ∀ j k : Fin 8, k.val = j.val + 1 → c.volts[j] ≤ v → v < c.volts[k] →
    charge = c.charges[j] + (v - c.volts[j]) * (c.charges[k] - c.charges[j]) / (c.volts[k] - c.volts[j])

/-- The estimate status of an estimator on its curve: the table of R111. -/
structure StatusDerived (e : Estimator) (c : Curve) : Prop where
  noData : e.seeded = false ∨ e.missing = true → e.status = .noData
  profileFault : e.seeded = true → e.missing = false → ¬ CurveValid c → e.status = .profileFault
  result : e.seeded = true → e.missing = false → CurveValid c → e.status = match e.result with
    | .warming => .warming
    | .notDischarging => .notDischarging
    | .capped => .capped
    | .valid => .valid

/-- A battery reading has been taken by an estimator `e`, which became `e'`: seeded or filtered, with the voltage, the
charge and the status that follow, and the missing flag clear (R99, R101, R102, R111). -/
structure ReadingTaken (c : Curve) (e e' : Estimator) (reading : Nat) (now : Clock) : Prop where
  seeds : e.seeded = false → e'.f = 16 * reading ∧ e'.nextSample = now
  filters : e.seeded = true → (e'.f : Int) = max 0 ((e.f : Int) + (16 * (reading : Int) - e.f) / 2 ^ c.shift)
    ∧ e'.nextSample = e.nextSample
  voltage : e'.v = (e'.f + 8) / 16
  charge : CurveValid c → ChargeTaken c e'.v e'.charge
  faulty : ¬ CurveValid c → e'.charge = e.charge
  status : StatusDerived e' c
  rest : e' = { e with seeded := true, f := e'.f, v := e'.v, charge := e'.charge, missing := false,
                       nextSample := e'.nextSample, status := e'.status }

/-- A stored reading as an evaluation at `now` leaves it: one more than 1,000,000,000 ms old is moved forward (R53, R86). -/
def heldReading (now t : Clock) : Clock := if 1000000000 < (now - t).toNat then now - 1000000000#32 else t

/-- The values of seat i that are compared for a visible change are in `t` as they are in `s`: the board code and the REPEAT
flag of each of its monitors, active, locked, the silence cause, on floor, the intent, the mute channel state and the estimate
status (R68). -/
structure SamePicture (s t : State) (i : Seat) : Prop where
  codes : ∀ k : Fin 8, boardCode (t.seat i).monitors[k].state = boardCode (s.seat i).monitors[k].state
  reps : ∀ k : Fin 8, (t.seat i).monitors[k].rep = (s.seat i).monitors[k].rep
  active : (t.seat i).ctx.active = (s.seat i).ctx.active
  locked : (t.seat i).ctx.locked = (s.seat i).ctx.locked
  silence : (t.seat i).ctx.silence = (s.seat i).ctx.silence
  onFloor : i ∈ t.roster ↔ i ∈ s.roster
  intent : (t.seat i).channel.intent = (s.seat i).channel.intent
  channel : (t.seat i).channel.state = (s.seat i).channel.state
  status : (t.seat i).estimator.status = (s.seat i).estimator.status

/-- The ten body words of seat i's entry, as the values of `s` give them: the seat flags; the board codes of the conditions 0 to 3
and 4 to 7; the REPEAT flags and the current onset count; the RF and the audio level; the charge and the remaining minutes, FFFFh
where the status shows none; the dropout length at the part clock; the changed-at (R65, R84, R111, R157, R183). -/
structure EntrySpelled (s : State) (i : Seat) (body : List Word) : Prop where
  length : body.length = 10
  flags : ∀ w, body[0]? = some w →
    w.getLsbD 0 = (s.seat i).ctx.active ∧ w.getLsbD 1 = (s.seat i).ctx.locked ∧ w.getLsbD 2 = (s.seat i).ctx.priority
      ∧ (w.getLsbD 3 = true ↔ i ∈ s.roster) ∧ (w.getLsbD 4 = true ↔ (s.seat i).channel.intent = .opened)
      ∧ w.toNat / 32 % 4 = channelNumber (s.seat i).channel.state
      ∧ (w.getLsbD 7 = true ↔ (s.seat i).channel.attempt = .second)
      ∧ w.toNat / 256 % 4 = silenceNumber (s.seat i).ctx.silence
      ∧ w.toNat / 1024 = statusNumber (s.seat i).estimator.status
  codes : ∀ (k : Fin 8) (w : Word), body[1 + k.val / 4]? = some w →
    w.toNat / 16 ^ (k.val % 4) % 16 = boardCode (s.seat i).monitors[k].state
  reps : ∀ (k : Fin 8) (w : Word), body[3]? = some w → w.getLsbD k.val = (s.seat i).monitors[k].rep
  onsets : ∀ w, body[3]? = some w → w.toNat / 256 = (s.seat i).tracker.onsets % 256
  noSample : (s.seat i).ctx.sample = none → body[4]? = some 0
  levels : ∀ p w, (s.seat i).ctx.sample = some p → body[4]? = some w → w.toNat = p.rf % 256 + 256 * (p.audio % 256)
  charge : body[5]? = some (match (s.seat i).estimator.status with
    | .noData | .profileFault => 0xFFFF#16
    | .warming | .notDischarging | .capped | .valid => word (s.seat i).estimator.charge)
  minutes : body[6]? = some (match (s.seat i).estimator.status with
    | .noData | .profileFault | .warming | .notDischarging => 0xFFFF#16
    | .capped | .valid => word (s.seat i).estimator.minutes)
  noDropout : (s.seat i).tracker.dropoutStart = none → body[7]? = some 0
  dropout : ∀ d w, (s.seat i).tracker.dropoutStart = some d → body[7]? = some w →
    w.toNat = if (s.clock - d).toNat < 65535 then (s.clock - d).toNat else 65535
  changedAt : ∀ w x, body[8]? = some w → body[9]? = some x → (s.seat i).board.changedAt.toNat = w.toNat + 65536 * x.toNat

/-- The event that led from `s` to `t` published seat i, leaving `e` waiting, if it changed the seat's picture, and left its
share of the Board Writer alone otherwise (R68, R69, R158). -/
def publishedIfChanged (s t : State) (i : Seat) (e : BoardEntry) : Prop :=
  (SamePicture s t i → (t.seat i).board = (s.seat i).board ∧ t.boardWrites = s.boardWrites)
    ∧ (¬ SamePicture s t i → (t.seat i).board = changedNow (s.seat i).board s.clock
        ∧ t.boardWrites = s.boardWrites ++ [e])

/-! What orders leave -/

/-- What the k-th word that the slot in hand reads gives, where it stands at address a: what the reading in progress has
of it, or the word as it stands. -/
def State.orderRead (s : State) (w : PageWork) (k a : Nat) : ReadWord :=
  match (if w.begun then s.reads else [])[k]? with
  | some r => r
  | none => s.look a

/-- What the worked page `w` asks the arbiter for: the write of the slot's index to the progress word (none), or the read of
the word at an address: of the slot, of the record of a LOAD SEAT that passed the checks made before, of a table of RELOAD
CLASSES, or of the record of the seat at a LOAD RANGE's cursor (R6, R73, R146, R165). -/
inductive State.OrderAsks (s : State) (w : PageWork) : Option Nat → Prop where
  | index : w.bulk = none → w.begun = false → w.ending = none → s.part = .running → w.slot < w.count →
      (s.pageState w.page = .aborting → w.slot = 0) → OrderAsks s w none
  | operand : w.bulk = none → w.begun = true → w.ending = none → (s.part = .running ∨ s.part = .stopping) →
      w.slot < w.count → (∀ r ∈ s.reads, r.bad = false) → s.reads.length < 3 →
      OrderAsks s w (some (s.layout.slotAddr w.page w.slot + s.reads.length))
  | record (o : Slot) (i : Seat) : w.bulk = none → w.begun = true → w.ending = none →
      (s.part = .running ∨ s.part = .stopping) → w.slot < w.count → (∀ r ∈ s.reads, r.bad = false) →
      o = slotOf (valuesOf s.reads) → o.kind = kindLoadSeat → (w.bound = none ∨ w.bound = some o.seat) →
      o.seat = seatWord i → i.val < s.layout.seatCount →
      (∀ v b, s.suspended = some v → v.bulk = some b → b.kind = .loadRange → ¬ (b.cursor ≤ i.val ∧ i.val < b.stop)) →
      3 ≤ s.reads.length → s.reads.length < 6 →
      OrderAsks s w (some (s.layout.seatTable + 3 * i.val + (s.reads.length - 3)))
  | table : w.bulk = none → w.begun = true → w.ending = none → (s.part = .running ∨ s.part = .stopping) →
      w.slot < w.count → (∀ r ∈ s.reads, r.bad = false) → (slotOf (valuesOf s.reads)).kind = kindReloadClasses →
      w.bound = none → 3 ≤ s.reads.length → s.reads.length < 139 →
      OrderAsks s w (some (s.layout.tableAddr (s.reads.length - 3)))
  | range (b : Bulk) (i : Seat) : w.bulk = some b → b.kind = .loadRange → b.atBoundary = false →
      (s.part = .running ∨ s.part = .stopping) → b.cursor = i.val → ((s.seat i).ctx.locked = false ∨ s.lift = some i) →
      (∀ r ∈ s.reads, r.bad = false) → s.reads.length < 3 →
      OrderAsks s w (some (s.layout.seatTable + 3 * i.val + s.reads.length))

/-- A page has been taken: the header words, the count as it was read, and the unit's place (R145). -/
structure PageTaken (s t : State) (p : Page) (w : PageWork) : Prop where
  worked : t.worked = some w
  posting : t.posting = s.posting.tail
  state : t.pageState p = .taken
  other : t.pageState (otherPage p) = s.pageState (otherPage p)
  place : w = { taking := s.takings, page := p, count := w.count, slot := 0, begun := false, refusals := false,
                bound := none, bulk := none, ending := w.ending }
  stateWord : t.readWord (s.layout.pageBase p) = 2
  summaryWord : t.readWord (s.layout.pageBase p + 2) = 0
  progressWord : t.readWord (s.layout.pageBase p + 3) = 0
  kept : wordsKept s t (fun a => a = s.layout.pageBase p ∨ a = s.layout.pageBase p + 2 ∨ a = s.layout.pageBase p + 3)
  count : s.wordBad (s.layout.pageBase p + 1) = false → 1 ≤ (s.readWord (s.layout.pageBase p + 1)).toNat →
    (s.readWord (s.layout.pageBase p + 1)).toNat ≤ 32 →
    w.count = (s.readWord (s.layout.pageBase p + 1)).toNat ∧ w.ending = none
  wrong : s.wordBad (s.layout.pageBase p + 1) = false →
    (s.readWord (s.layout.pageBase p + 1)).toNat = 0 ∨ 32 < (s.readWord (s.layout.pageBase p + 1)).toNat →
    w.count = 0 ∧ w.ending = some .sequenceFault
  sound : s.wordBad (s.layout.pageBase p + 1) = false → t.faultLatch = s.faultLatch ∧ t.causes = s.causes
  bad : s.wordBad (s.layout.pageBase p + 1) = true →
    w.count = 0 ∧ w.ending = some .ramFault ∧ FaultReported s t (s.layout.pageBase p + 1) .parity
  rest : t = { s with worked := t.worked, posting := t.posting, pageA := t.pageA, pageB := t.pageB,
                      takings := s.takings + 1, reads := [], faultLatch := t.faultLatch, causes := t.causes,
                      ram := t.ram, badParity := t.badParity }

/-- The nine floor words of the header show the roster and the rules (R120, R180). -/
structure FloorShown (t : State) : Prop where
  members : ∀ k, k < 8 → t.readWord (41 + k) = (t.roster[k]?.map seatWord).getD 0xFFFF#16
  rules : t.readWord 49 = word (t.floorLimit % 256 + 256 * policyNumber t.floorPolicy)

/-- A link on which a seat has been placed: while RUNNING it keeps its place, joins the queue while that holds fewer than
16, or is deferred; nothing else of the link changes (R36). -/
structure PlacedLink (running : Prop) (k k' : Link) (i : Seat) : Prop where
  rest : k' = { k with queue := k'.queue, deferred := k'.deferred }
  keeps : ¬ running ∨ i ∈ k.queue ∨ i ∈ k.deferred → k'.queue = k.queue ∧ k'.deferred = k.deferred
  joins : running → i ∉ k.queue → i ∉ k.deferred → k.queue.length < 16 → k'.queue = k.queue ++ [i] ∧ k'.deferred = k.deferred
  waits : running → i ∉ k.queue → i ∉ k.deferred → 16 ≤ k.queue.length →
    k'.queue = k.queue ∧ (∀ j, j ∈ k'.deferred ↔ j = i ∨ j ∈ k.deferred)
      ∧ (k.deferred.Pairwise (· < ·) → k'.deferred.Pairwise (· < ·))

/-- The transmitter of a link after seat i's frame in flight, if there is one, has been cancelled (R40). -/
structure FrameCancelled (k k' : Link) (i : Seat) : Prop where
  flight : ∀ f, k.tx = .sending f → k'.tx = .sending { f with cancelled := f.cancelled || decide (f.seat = i) }
  quiet : (∀ f, k.tx ≠ .sending f) → k'.tx = k.tx

/-- A link on which a seat's intent has been issued: the seat is placed, and its frame in flight is cancelled (R36, R40,
R129). -/
structure IssuedLink (running : Prop) (k k' : Link) (i : Seat) : Prop where
  placed : PlacedLink running k { k' with tx := k.tx } i
  cancelled : FrameCancelled k k' i

/-- The links on which the intents of these seats, each on its own link, have been issued one after another (R129). -/
def IssuedInOrder (running : Prop) (home : Seat → LinkId) : List Seat → (LinkId → Link) → (LinkId → Link) → Prop
  | [], before, after => ∀ l, after l = before l
  | i :: is, before, after => ∃ k, IssuedLink running (before (home i)) k i
      ∧ IssuedInOrder running home is (fun l => if l = home i then k else before l) after

/-- A link that a seat has left: its entry of the queue is removed and the lowest-numbered deferred seat fills the room, or
it is removed from the deferred set; its frame in flight is cancelled; nothing else of the link changes (R9, R37, R40). -/
structure WithdrawnLink (k k' : Link) (i : Seat) : Prop where
  rest : k' = { k with queue := k'.queue, deferred := k'.deferred, tx := k'.tx }
  filled : i ∈ k.queue → ∀ d ds, k.deferred = d :: ds → k'.queue = k.queue.erase i ++ [d] ∧ k'.deferred = ds
  left : i ∈ k.queue → k.deferred = [] → k'.queue = k.queue.erase i ∧ k'.deferred = []
  away : i ∉ k.queue → k'.queue = k.queue ∧ k'.deferred = k.deferred.erase i
  cancelled : FrameCancelled k k' i

/-- The intent x of seat i has been issued: its mute channel is SENDING with attempt 1 and no deadline, and its link has
taken it (R129). -/
structure Issued (s t : State) (i : Seat) (x : Intent) : Prop where
  channel : (t.seat i).channel = { intent := x, state := .sending, attempt := .first, deadline := none }
  link : IssuedLink (s.part = .running) (s.link (s.seat i).ctx.link) (t.link (s.seat i).ctx.link) i

/-- Acknowledgement of one monitor: the table of R77, row by row. -/
structure Acknowledged (m m' : Monitor) : Prop where
  quiet : m.state = .clear ∨ m.state = .onset ∨ m.state = .noted → m' = { m with rep := false }
  raised : m.state = .raised → m' = { m with state := .noted, n := 0, rep := false }
  easing : m.state = .easing → m' = { m with ack := true, rep := false }
  lapsed : m.state = .lapsed → m' = { m with state := .clear, n := 0, rep := false }

/-- An acknowledgement changed the monitor: its state, its acknowledged flag or its REPEAT flag (R76). -/
def acked (m m' : Monitor) : Prop := m'.state ≠ m.state ∨ m'.ack ≠ m.ack ∨ m'.rep ≠ m.rep

/-- The record that the three words of the Seat Table spell (R181). -/
structure Spells (w0 w1 w2 : Word) (r : SeatRecord) : Prop where
  active : r.active = w0.getLsbD 0
  locked : r.locked = w0.getLsbD 1
  priority : r.priority = w0.getLsbD 2
  cls : r.cls.val = w0.toNat / 16 % 4
  curve : r.curve.val = w0.toNat / 64 % 4
  link : r.link.val = w0.toNat / 256 % 8
  channel : r.channel.val = w1.toNat % 64
  txId : r.txId = w2

/-- Seat i has been loaded from the record r: re-initialised, configured or made inactive, its carriers, its roster place and
its links settled, its intent issued if it is active, and its change write waiting (R9 to R12, R40, R104, R121, R129). -/
structure SeatLoaded (s t : State) (i : Seat) (r : SeatRecord) : Prop where
  seat : t.seat i = {
    ctx := { active := r.active, locked := r.locked, priority := r.priority, cls := r.cls, curve := r.curve,
             link := r.link, channel := r.channel, txId := r.txId, sample := none, lastReport := s.clock,
             foreignSeen := false, silence := .noCause }
    monitors := Vector.replicate 8 clearMonitor
    tracker := { dropoutStart := none, onsets := 0, prevOnsets := 0, windowStart := s.clock }
    estimator := { seeded := false, f := 0, v := 0, charge := 0, missing := false, history := [], nextSample := 0,
                   result := .warming, minutes := 0, status := .noData, genSeen := s.generations[r.curve] }
    channel := { intent := .muted, state := if r.active then .sending else .settled, attempt := .first, deadline := none }
    board := changedNow (s.seat i).board s.clock }
  seats : seatsKept s t (· = i)
  carriers : ∀ l c, t.carrier l c = if r.active = true ∧ l = r.link ∧ c = r.channel then some i
    else if (s.seat i).ctx.active = true ∧ l = (s.seat i).ctx.link ∧ c = (s.seat i).ctx.channel then none else s.carrier l c
  roster : t.roster = s.roster.erase i
  header : i ∈ s.roster → FloorShown t
  links : ∃ k, WithdrawnLink (s.link (s.seat i).ctx.link) k i
    ∧ let left := fun l => if l = (s.seat i).ctx.link then k else s.link l
      (r.active = false → ∀ l, t.link l = left l)
      ∧ (r.active = true → IssuedLink (s.part = .running) (left r.link) (t.link r.link) i
          ∧ ∀ l, l ≠ r.link → t.link l = left l)
  write : t.boardWrites = s.boardWrites ++ [orderWrite t i]

/-- What the k-th word of seat i's record gives to the seat at a LOAD RANGE's cursor: what the reading in progress has of it,
or the word as it stands (R6). -/
def State.recordWord (s : State) (i : Seat) (k : Nat) : ReadWord :=
  match s.reads[k]? with
  | some r => r
  | none => s.look (s.layout.seatTable + 3 * i.val + k)

/-- The counts of a LOAD RANGE after a seat that was skipped (LOCKED) or refused with this code (R17). -/
structure RangeCounted (b c : Bulk) (code : ResultCode) : Prop where
  second : c.second = b.second + if code = .locked then 1 else 0
  refused : c.refused = b.refused + if code = .locked then 0 else 1
  first : b.firstBad = none → c.firstBad = some code
  later : ∀ x, b.firstBad = some x → c.firstBad = some x
  rest : c = { b with second := c.second, refused := c.refused, firstBad := c.firstBad }

/-- The share of seat i in a LOAD RANGE, from the state `s` with the counts `b` to `t` with `c`: skipped for its lock, refused
for a record word of bad parity or for its record, or loaded from the three words of its record (R6, R7, R17). -/
structure RangeShare (i : Seat) (s t : State) (b c : Bulk) : Prop where
  locked : (s.seat i).ctx.locked = true → s.lift ≠ some i → t = { s with reads := [] } ∧ RangeCounted b c .locked
  parity : (s.seat i).ctx.locked = false ∨ s.lift = some i → ∀ k, k < 3 → (∀ j < k, (s.recordWord i j).bad = false) →
    (s.recordWord i k).bad = true → RangeCounted b c .ramFault
      ∧ (s.reads.length ≤ k → FaultReported s t (s.layout.seatTable + 3 * i.val + k) .parity)
      ∧ (k < s.reads.length → t.faultLatch = s.faultLatch ∧ t.causes = s.causes)
      ∧ t = { s with reads := [], faultLatch := t.faultLatch, causes := t.causes }
  record : (s.seat i).ctx.locked = false ∨ s.lift = some i → (∀ k < 3, (s.recordWord i k).bad = false) →
    ∀ r, Spells (s.recordWord i 0).value (s.recordWord i 1).value (s.recordWord i 2).value r →
      let sound := (s.link r.link).enabled = true ∧ r.txId ≠ 0 ∧ r.txId ≠ 0xFFFF#16
      let taken := ∃ j, j ≠ i ∧ s.carrier r.link r.channel = some j
      (r.active = true → ¬ sound → t = { s with reads := [] } ∧ RangeCounted b c .badRecord)
      ∧ (r.active = true → sound → taken → t = { s with reads := [] } ∧ RangeCounted b c .carrierTaken)
      ∧ (r.active = false ∨ sound ∧ ¬ taken → SeatLoaded s t i r ∧ c = { b with handled := b.handled + 1 }
          ∧ wordsKept s t (fun a => floorWords a ∧ i ∈ s.roster)
          ∧ t = { s with seats := t.seats, carriers := t.carriers, roster := t.roster, links := t.links,
                         boardWrites := t.boardWrites, ram := t.ram, badParity := t.badParity, reads := [] })

/-- The share of seat i in an ACKNOWLEDGE ALL of this mask: passed over when inactive; else its masked monitors are
acknowledged, it is counted, and counted again if a monitor changed, and published if its picture changed (R78). -/
structure AckShare (mask : Byte) (i : Seat) (s t : State) (b c : Bulk) : Prop where
  inactive : (s.seat i).ctx.active = false → t = s ∧ c = b
  masked : (s.seat i).ctx.active = true → ∀ k : Fin 8, mask.getLsbD k.val = true →
    Acknowledged (s.seat i).monitors[k] (t.seat i).monitors[k]
  unmasked : (s.seat i).ctx.active = true → ∀ k : Fin 8, mask.getLsbD k.val = false →
    (t.seat i).monitors[k] = (s.seat i).monitors[k]
  published : (s.seat i).ctx.active = true → publishedIfChanged s t i (orderWrite t i)
  changed : (s.seat i).ctx.active = true → (∃ k : Fin 8, acked (s.seat i).monitors[k] (t.seat i).monitors[k]) →
    c = { b with handled := b.handled + 1, second := b.second + 1 }
  unchanged : (s.seat i).ctx.active = true → (∀ k : Fin 8, ¬ acked (s.seat i).monitors[k] (t.seat i).monitors[k]) →
    c = { b with handled := b.handled + 1 }
  rest : (s.seat i).ctx.active = true →
    t.seat i = { s.seat i with monitors := (t.seat i).monitors, board := (t.seat i).board } ∧ seatsKept s t (· = i)
      ∧ t = { s with seats := t.seats, boardWrites := t.boardWrites }

/-- The shares of these seats in a bulk order, made one after another (R17, R78, R149). -/
def BulkShares : List Seat → State × Bulk → State × Bulk → Prop
  | [], p, q => q = p
  | i :: is, (s, b), q => ∃ t c, (match b.kind with
      | .loadRange => RangeShare i s t b c
      | .ackAll mask => AckShare mask i s t b c) ∧ BulkShares is (t, c) q

/-- The seats from number `m` up to, but not with, number `n`. -/
def seatsFrom (m n : Nat) : List Seat := allSeats.filter fun i => decide (m ≤ i.val ∧ i.val < n)

/-- A character's levels on a line: a start bit low, the data bits with the least significant first, a parity bit that makes
the count of ones among the nine odd, a stop bit high (R25). -/
structure CharacterSpelled (d : Byte) (levels : List Bool) : Prop where
  length : levels.length = 11
  start : levels[0]? = some false
  data : ∀ k, k < 8 → levels[1 + k]? = some (d.getLsbD k)
  parity : ((levels.drop 1).take 9).count true % 2 = 1
  stop : levels[10]? = some true

/-- A class as its sixteen words spell it, brought into its ranges (R70, R71, R181). -/
structure ClassTaken (w : Nat → Word) (c : WarningClass) : Prop where
  raiseCounts : ∀ j : Fin 8, c.raiseCounts[j] = (w j.val).toNat % 256
  clearCounts : ∀ j : Fin 8, c.clearCounts[j] = max 1 ((w j.val).toNat / 256)
  silenceTime : c.silenceTime = clampTo 100 10000 (w 8).toNat
  lostTime : c.lostTime = clampTo 20 5000 (w 9).toNat
  confirmTime : c.confirmTime = clampTo 50 2000 (w 10).toNat
  weakLevel : c.weakLevel = clampTo 0 120 ((w 11).toNat % 256)
  speechLevel : c.speechLevel = clampTo 0 90 ((w 11).toNat / 256)
  dropoutLimit : c.dropoutLimit = clampTo 1 255 ((w 12).toNat % 256)
  fadeWindow : c.fadeWindow = clampTo 1 60 ((w 12).toNat / 256)
  lowMinutes : c.lowMinutes = clampTo 1 240 ((w 13).toNat % 256)
  critMinutes : c.critMinutes = clampTo 0 c.lowMinutes ((w 13).toNat / 256)
  lowCharge : c.lowCharge = clampTo 0 1000 (w 14).toNat
  critCharge : c.critCharge = clampTo 0 c.lowCharge (w 15).toNat

/-- The sixteen words of a class lie in the ranges: the class holds what they say (R70, R71, R75). -/
structure ClassUnclamped (w : Nat → Word) (c : WarningClass) : Prop where
  clearCounts : ∀ j : Fin 8, c.clearCounts[j] = (w j.val).toNat / 256
  silenceTime : c.silenceTime = (w 8).toNat
  lostTime : c.lostTime = (w 9).toNat
  confirmTime : c.confirmTime = (w 10).toNat
  weakLevel : c.weakLevel = (w 11).toNat % 256
  speechLevel : c.speechLevel = (w 11).toNat / 256
  dropoutLimit : c.dropoutLimit = (w 12).toNat % 256
  fadeWindow : c.fadeWindow = (w 12).toNat / 256
  lowMinutes : c.lowMinutes = (w 13).toNat % 256
  critMinutes : c.critMinutes = (w 13).toNat / 256
  lowCharge : c.lowCharge = (w 14).toNat
  critCharge : c.critCharge = (w 15).toNat

/-- A curve as its eighteen words spell it, its four settings brought into their ranges (R96, R181). -/
structure CurveTaken (w : Nat → Word) (c : Curve) : Prop where
  volts : ∀ j : Fin 8, c.volts[j] = (w j.val).toNat
  charges : ∀ j : Fin 8, c.charges[j] = (w (8 + j.val)).toNat
  shift : c.shift = clampTo 0 6 ((w 16).toNat % 256)
  swapStep : c.swapStep = clampTo 5 200 ((w 16).toNat / 256)
  period : c.period = clampTo 10 120 ((w 17).toNat % 256)
  hysteresis : c.hysteresis = clampTo 10 200 ((w 17).toNat / 256)

/-- The stores hold what the 136 words of the two tables spell, and the generation of each curve whose content changed has
advanced by 1 (R71, R74, R96). -/
structure StoresReplaced (s t : State) (w : Nat → Word) : Prop where
  classes : ∃ v, t.classes = some v ∧ ∀ c : Fin 4, ClassTaken (fun k => w (16 * c.val + k)) v[c]
  curves : ∃ v, t.curves = some v ∧ ∀ c : Fin 4, CurveTaken (fun k => w (64 + 18 * c.val + k)) v[c]
    ∧ (∀ old, s.curves = some old → old[c] = v[c] → t.generations[c] = s.generations[c])
    ∧ ((∀ old, s.curves = some old → old[c] ≠ v[c]) → t.generations[c] = s.generations[c] + 1)

/-! A start -/

/-- The k-th word that CHECKING reads, where it stands at address a: what the reading in progress has of it, or the word as it
stands (R173). -/
def State.startRead (s : State) (k a : Nat) : ReadWord :=
  match s.reads[k]? with
  | some r => r
  | none => s.look a

/-- What CHECKING has of the directory word at address a, and its value. -/
def State.dirRead (s : State) (a : Nat) : ReadWord := s.startRead (directoryAddrs.idxOf a) a
def State.dirWord (s : State) (a : Nat) : Word := (s.dirRead a).value

/-- The regions of the directory, as its words are read. -/
def State.dirRegions (s : State) : List (Nat × Nat) :=
  [(0, 256), ((s.dirWord 1).toNat, 3 * (s.dirWord 0).toNat), ((s.dirWord 2).toNat, 12 * (s.dirWord 0).toNat),
   ((s.dirWord 3).toNat, (s.dirWord 7).toNat), ((s.dirWord 4).toNat, 64), ((s.dirWord 5).toNat, 72),
   ((s.dirWord 6).toNat, 392)]

/-- Check 2 of R173. -/
def State.countFits (s : State) : Prop := 1 ≤ (s.dirWord 0).toNat ∧ (s.dirWord 0).toNat ≤ 512
/-- Check 3 of R173. -/
def State.capacityFits (s : State) : Prop := 16 ≤ (s.dirWord 7).toNat ∧ (s.dirWord 7).toNat ≤ 512
/-- Check 4 of R173. -/
def State.regionsFit (s : State) : Prop := ∀ r ∈ s.dirRegions, r.1 + r.2 ≤ 16384
/-- Check 5 of R173: no two regions share a word. -/
def State.regionsApart (s : State) : Prop :=
  ∀ (p q : Nat) (r r' : Nat × Nat), p < q → s.dirRegions[p]? = some r → s.dirRegions[q]? = some r' →
    ∀ x, ¬ (r.1 ≤ x ∧ x < r.1 + r.2 ∧ r'.1 ≤ x ∧ x < r'.1 + r'.2)
/-- Check 6 of R173. -/
def State.someLink (s : State) : Prop := ∃ l : LinkId, (s.dirWord (12 + 2 * l.val)).getLsbD 15 = true
/-- Checks 2 to 6 of R173. -/
def State.directoryFits (s : State) : Prop := s.countFits ∧ s.capacityFits ∧ s.regionsFit ∧ s.regionsApart ∧ s.someLink

/-- The state word of page A, and of page B, where the directory places them (R182). -/
def State.dirPageWord (s : State) (p : Page) : Nat := (s.dirWord 6).toNat + (if p = .a then 0 else 196)
/-- What CHECKING has of a page's state word: the words after the directory, page A first (R173). -/
def State.pageRead (s : State) (p : Page) : ReadWord := s.startRead (if p = .a then 27 else 28) (s.dirPageWord p)
/-- A state word at which a page may start: FREE, POSTED or DONE (R173, check 7). -/
def startable (w : Word) : Prop := w = 0 ∨ w = 1 ∨ w = 4
/-- The k-th word of the Class Table and then of the Curve Table, where the directory places them. -/
def State.dirTableWord (s : State) (k : Nat) : Nat :=
  if k < 64 then (s.dirWord 4).toNat + k else (s.dirWord 5).toNat + (k - 64)

/-- What CHECKING has of the k-th table word. -/
def State.tableRead (s : State) (k : Nat) : ReadWord := s.startRead (29 + k) (s.dirTableWord k)

/-- The link setup, the scan period and the refresh interval are those of the directory, whether or not the start succeeds
(R24, R46, R173). -/
structure SetupTaken (s t : State) : Prop where
  links : ∀ l : LinkId, (t.link l).enabled = (s.dirWord (12 + 2 * l.val)).getLsbD 15
    ∧ (t.link l).divisor = (s.dirWord (12 + 2 * l.val)).toNat % 256
    ∧ (t.link l).timeout = clampTo 50 2000 (s.dirWord (13 + 2 * l.val)).toNat
  scanPeriod : t.scanPeriod = clampTo 5 100 (s.dirWord 8).toNat
  refreshInterval : t.refreshInterval = clampTo 1 255 (s.dirWord 9).toNat

/-- A start retires seat i: it is active, and at or above the new seat count or on a link that is not enabled (R18). -/
def State.startRetires (s : State) (i : Seat) : Bool :=
  (s.seat i).ctx.active && ((s.dirWord 0).toNat ≤ i.val || !(s.dirWord (12 + 2 * (s.seat i).ctx.link.val)).getLsbD 15)

end Sys2Proof.Machine
end

