-- ==== Sys2Proof/Certificates/Slice0/Obligations.lean ====
section
/-! DEFINITION. The statements for the provers. -/

section Statements

open Sys2Proof Sys2Proof.Machine

/-! The machine -/

/-- The command at the front of the queue is what a step runs. The model's choices: log 1. -/
def Obligations.StepRunsFrontCommand : Prop :=
  ∀ (c : Instr) (rest : List Instr) (s : State), s.pending = c :: rest → step s = exec c { s with pending := rest }

/-- The model's choice (logs 2 and 27): with no command waiting, a step serves one access of the part's own. HALTED makes
none; CLEARING writes its next word to 0 with good parity; CHECKING reads its next word. In RUNNING and STOPPING the order in
hand and the board write at the front are served in the order of their requests: the order first when no board write waits
or the one at the front asked behind the order's access, the board write otherwise (R165). A board write's open stamp
advances the seat's stamp, its close stamp ends it and, under the change list law, offers the seat. Before either, the slice
and the shares of a LOAD RANGE that need no access go on. -/
def Obligations.IdleStepServesOneAccess : Prop :=
  ∀ s : State, s.pending = [] →
    let reads := fun a : Nat => ∃ t, step s = .next t
      ∧ t.reads = s.reads ++ [{ addr := a, value := s.readWord a, bad := s.wordBad a }]
      ∧ (s.wordBad a = true → FaultReported s t a .parity)
      ∧ t = { s with reads := t.reads, faultLatch := if s.wordBad a then t.faultLatch else s.faultLatch,
                     causes := if s.wordBad a then t.causes else s.causes }
    let asks := fun a => ∃ w, s.worked = some w ∧ s.OrderAsks w a
    let first := ∀ e rest, s.boardWrites = e :: rest → e.behind = s.orderRequest
    let opens := fun (w : PageWork) (b : Bulk) => s.worked = some w ∧ w.bulk = some b ∧ b.kind = .loadRange
      ∧ b.atBoundary = true ∧ s.part = .running ∧ s.pageState w.page ≠ .aborting
      ∧ ¬ (s.pageState (otherPage w.page) = .posted ∧ s.suspended = none ∧ b.suspendedMark = false)
    let shares := fun (w : PageWork) (b : Bulk) (i : Seat) => s.worked = some w ∧ w.bulk = some b ∧ b.kind = .loadRange
      ∧ b.atBoundary = false ∧ b.cursor = i.val ∧ i.val + 1 < b.sliceEnd
      ∧ ((s.seat i).ctx.locked = true ∧ s.lift ≠ some i ∨ (∃ r ∈ s.reads, r.bad = true) ∨ 3 ≤ s.reads.length)
    let quiet := (∀ w b, ¬ opens w b) ∧ (∀ w b i, ¬ shares w b i) ∧ ((∃ a, asks a) → ¬ first)
    let restamped := fun es : List BoardEntry => match es with
      | [] => []
      | e :: rest => { e with behind := s.orderRequest } :: rest
    (s.part = .halted → step s = .next s)
    ∧ (s.part = .clearing → s.memoryLaw → s.clearNext < 16384 → ∃ t, step s = .next t
        ∧ t.readWord s.clearNext = 0 ∧ t.wordBad s.clearNext = false ∧ wordsKept s t (· = s.clearNext)
        ∧ t = { s with ram := t.ram, badParity := t.badParity, clearNext := s.clearNext + 1 })
    ∧ (s.part = .checking → ∀ a, nextStartRead s.reads = some a → reads a)
    ∧ ((s.part = .running ∨ s.part = .stopping) → s.memoryLaw → s.pageLaw → s.layoutLaw →
        (∀ w, s.worked = some w → s.OrderAsks w none → first → ∃ t, step s = .next t
          ∧ t.readWord (s.layout.progressAddr w.page) = word w.slot ∧ wordsKept s t (· = s.layout.progressAddr w.page)
          ∧ t = { s with worked := some { w with begun := true }, reads := [], ram := t.ram, badParity := t.badParity })
        ∧ (∀ a, asks (some a) → first → reads a)
        ∧ (∀ w b, opens w b → ∃ t, step s = .next t
          ∧ t = { s with reads := [], worked := some { w with bulk := some { b with
              atBoundary := false, sliceEnd := if b.cursor + 16 ≤ b.stop then b.cursor + 16 else b.stop } } })
        ∧ (∀ w b i, shares w b i → s.reads.length ≤ 3 → ∃ t u c, step s = .next t ∧ RangeShare i s u b c
          ∧ t = { u with worked := some { w with bulk := some { c with cursor := i.val + 1 } } })
        ∧ (∀ e rest, quiet → s.boardWrites = e :: rest → e.seat.val < s.layout.seatCount →
          let b := (s.seat e.seat).board
          let spot := s.layout.boardAddr e.seat + e.written
          (e.written = 0 → ∃ t, step s = .next t ∧ t.readWord spot = b.stamp + 1 ∧ wordsKept s t (· = spot)
            ∧ t.seat e.seat = { s.seat e.seat with board := { b with stamp := b.stamp + 1 } } ∧ seatsKept s t (· = e.seat)
            ∧ t = { s with ram := t.ram, badParity := t.badParity, seats := t.seats,
                           boardWrites := restamped ({ e with written := 1 } :: rest) })
          ∧ (1 ≤ e.written → e.written < 11 → ∃ t, step s = .next t ∧ t.readWord spot = (e.body[e.written - 1]?).getD 0
            ∧ wordsKept s t (· = spot)
            ∧ t = { s with ram := t.ram, badParity := t.badParity,
                           boardWrites := restamped ({ e with written := e.written + 1 } :: rest) })
          ∧ (e.written = 11 → s.changeListLaw → ∃ t u, step s = .next t ∧ exec (.boardWrite e.seat) s = .next u ∧ u.boardWrites = rest
            ∧ u.readWord spot = b.stamp ∧ (e.change = false → wordsKept s u (· = spot)
              ∧ u = { s with ram := u.ram, badParity := u.badParity, boardWrites := rest })
            ∧ t = { u with boardWrites := restamped rest }))
        ∧ (quiet → s.boardWrites = [] → step s = .next s))

/-- The part after power-on reset meets every law below. The model's choices: log 15. -/
def Obligations.ResetMeetsLaws : Prop :=
  State.reset.memoryLaw ∧ State.reset.latchLaw ∧ State.reset.carrierLaw ∧ State.reset.rosterLaw ∧ State.reset.monitorLaw
    ∧ State.reset.downlinkLaw ∧ State.reset.changeListLaw ∧ State.reset.estimatorLaw ∧ State.reset.historyLaw
    ∧ State.reset.curveLaw ∧ State.reset.pageLaw ∧ State.reset.layoutLaw ∧ State.reset.seatLaw

/-! The laws that every step keeps -/

/-- Every step keeps the memory canonical (log 8). The model's choices: log 8. -/
def Obligations.StepKeepsMemoryCanonical : Prop := ∀ s t : State, s.memoryLaw → step s = .next t → t.memoryLaw

/-- FAULT stays set exactly while the latch holds a fault, and a held fault keeps its address and kind until the host
clears it or a reset empties it (R169, R170). -/
def Obligations.FaultLatchLaw : Prop :=
  ∀ s t : State, step s = .next t →
    (s.latchLaw → t.latchLaw)
    ∧ ∀ f, s.faultLatch = some f →
        (∃ g, t.faultLatch = some g ∧ g.addr = f.addr ∧ g.kind = f.kind ∧ (f.multiple = true → g.multiple = true))
        ∨ ∃ c rest, s.pending = c :: rest ∧ t.faultLatch = none
            ∧ (c = .powerOnReset ∨ s.part ≠ .clearing ∧ controlField c = 3
                ∨ s.part ≠ .clearing ∧ ∃ v, c = .faultKindWrite v ∨ c = .registerWrite .faultKind v)

/-- The law of the Carrier Map (R5). -/
def Obligations.StepKeepsCarrierLaw : Prop := ∀ s t : State, s.carrierLaw → step s = .next t → t.carrierLaw

/-- The law of the Floor Roster (R118). -/
def Obligations.StepKeepsRosterLaw : Prop := ∀ s t : State, s.rosterLaw → step s = .next t → t.rosterLaw

/-- The laws of the monitors (R60, R64), less what holds only from a seat's evaluation under its class on. -/
def Obligations.StepKeepsMonitorLaw : Prop := ∀ s t : State, s.monitorLaw → step s = .next t → t.monitorLaw

/-- The law of the downlink queues (R36, R37). That only active seats stand on the roster keeps the issue of an intent to
active seats. -/
def Obligations.StepKeepsDownlinkLaw : Prop :=
  ∀ s t : State, s.downlinkLaw → s.rosterLaw → step s = .next t → t.downlinkLaw

/-- The law of the change list (R159). -/
def Obligations.StepKeepsChangeListLaw : Prop := ∀ s t : State, s.changeListLaw → step s = .next t → t.changeListLaw

/-- The laws of the estimators: their ranges, and strictly increasing times in every history (R98). That the Curve Store holds
curves while the part runs, with every sample period in its range, is kept too, and keeps an entry apart from the one before it
(R95, R96, R108). -/
def Obligations.StepKeepsEstimatorRanges : Prop :=
  ∀ s t : State, step s = .next t → (s.estimatorLaw → t.estimatorLaw) ∧ (s.curveLaw → t.curveLaw)
    ∧ (s.curveLaw → s.historyLaw → t.historyLaw)

/-- The laws of the pages and of the lift (R142, R150, R151, R153). -/
def Obligations.StepKeepsPageLaw : Prop := ∀ s t : State, s.pageLaw → step s = .next t → t.pageLaw

/-- In RUNNING and STOPPING the layout in force is one that a start accepts (R173). -/
def Obligations.StepKeepsLayoutLaw : Prop := ∀ s t : State, s.layoutLaw → step s = .next t → t.layoutLaw

/-- What an active and an inactive seat are. The Carrier Map and the roster keep reports and floor orders to active
seats; the page law keeps a range of seats below the seat count. -/
def Obligations.StepKeepsSeatLaw : Prop :=
  ∀ s t : State, s.seatLaw → s.carrierLaw → s.rosterLaw → s.pageLaw → step s = .next t → t.seatLaw

/-- The part state changes only as R171 to R176 give: power-on reset, the end of CLEARING, RUN in HALTED, the end of
CHECKING, STOP in RUNNING, the end of STOPPING, and SOFT RESET outside CLEARING. The model's choices: log 3. -/
def Obligations.PartStateChanges : Prop :=
  ∀ s t : State, step s = .next t → t.part ≠ s.part → ∃ c rest, s.pending = c :: rest
    ∧ (c = .powerOnReset ∧ t.part = .clearing
      ∨ c = .clearingDone ∧ s.part = .clearing ∧ t.part = .halted
      ∨ controlField c = 1 ∧ s.part = .halted ∧ t.part = .checking
      ∨ c = .checkingEnd ∧ s.part = .checking ∧ (t.part = .halted ∧ t.startResult ≠ .ok ∨ t.part = .running ∧ t.startResult = .ok)
      ∨ controlField c = 2 ∧ s.part = .running ∧ t.part = .stopping
      ∨ c = .stoppingEnd ∧ s.part = .stopping ∧ t.part = .halted ∧ s.linesQuiet = true ∧ s.orderQuiet = true ∧ s.boardWrites = []
      ∨ controlField c = 3 ∧ s.part ≠ .clearing ∧ t.part = .halted)

/-- The part clock advances by 1 at a millisecond while the part is RUNNING, wrapping to 0, and holds otherwise; the
resets alone set it besides, to 0 (R45). The model's choices: log 3. -/
def Obligations.PartClock : Prop :=
  (∀ s : State, s.part = .running → ∃ t, exec .partClockTick s = .next t
      ∧ t.clock.toNat = (s.clock.toNat + 1) % 4294967296 ∧ t = { s with clock := t.clock })
    ∧ (∀ s : State, s.part ≠ .running → exec .partClockTick s = .next s)
    ∧ ∀ s t : State, step s = .next t → t.clock ≠ s.clock → ∃ c rest, s.pending = c :: rest
        ∧ (c = .partClockTick ∧ s.part = .running ∨ t.clock = 0 ∧ (c = .powerOnReset ∨ controlField c = 3 ∧ s.part ≠ .clearing))

/-! Resets, CONTROL and the registers -/

/-- Power-on reset puts every block into its reset values and begins CLEARING; soft reset, outside CLEARING, puts every
block into the same values and the part into HALTED, and leaves the RAM (R172, R176). That the layout is 0 after either reset is
the model's choice (log 15), as is that a power-on reset drops the host accesses held off (log 12).
The model's choices: log 10, log 12, log 15, log 16. -/
def Obligations.ResetsRestoreEveryBlock : Prop :=
  ∀ (s : State) (e : BitVec 7),
    (∃ t, exec .powerOnReset s = .next t ∧ t.part = .clearing ∧ t.clearNext = 0
      ∧ t = { State.reset with pending := s.pending, ram := s.ram, badParity := s.badParity })
    ∧ (s.part ≠ .clearing → ∃ t, exec (.softReset e) s = .next t ∧ t.part = .halted
      ∧ (∀ i, t.seat i = resetSeat) ∧ (∀ l, t.link l = resetLink) ∧ (∀ l c, t.carrier l c = none)
      ∧ t.roster = [] ∧ t.changeList = [] ∧ t.posting = [] ∧ t.lift = none ∧ t.classes = none ∧ t.curves = none
      ∧ (∀ c : Fin 4, t.generations[c] = 0) ∧ t.scanTimer = none ∧ t.passCount = 0 ∧ t.lateCount = 0 ∧ t.clock = 0
      ∧ t.faultLatch = none ∧ t.causes = 0 ∧ t.enables = 0 ∧ t.startResult = .noResult
      ∧ t = { State.reset with pending := s.pending, part := .halted, ram := s.ram, badParity := s.badParity, readData := s.readData })
    ∧ (s.part = .clearing → exec (.softReset e) s = .next s)

/-- The last word of CLEARING: the part enters HALTED with every word 0 and of good parity, and serves the waiting host
access against the cleared RAM (R165, R172). The model's choices: log 2, log 12. -/
def Obligations.ClearingEnds : Prop :=
  ∀ s : State, s.part = .clearing → ∃ t, exec .clearingDone s = .next t
    ∧ t = { s with part := .halted, ram := t.ram, badParity := [], clearNext := 0, held := [], readData := t.readData }
    ∧ (s.held = [] → t.readData = s.readData ∧ ∀ a, t.readWord a = 0)
    ∧ (∀ a, s.held = [.read a] → t.readData = 0 ∧ ∀ x, t.readWord x = 0)
    ∧ (∀ a v, s.held = [.write a v] → t.readData = s.readData ∧ t.readWord a.toNat = v ∧ ∀ x, x ≠ a.toNat → t.readWord x = 0)

/-- RUN is taken in HALTED, where CHECKING begins, and ignored elsewhere; outside CLEARING the enables of the write are
replaced either way (R164, R171). -/
def Obligations.RunBeginsChecking : Prop :=
  ∀ (s : State) (e : BitVec 7),
    (s.part = .halted → ∃ t, exec (.run e) s = .next t ∧ t.part = .checking ∧ t.enables = e
      ∧ t = { s with part := .checking, enables := e, reads := [] })
    ∧ (s.part = .checking ∨ s.part = .running ∨ s.part = .stopping → exec (.run e) s = .next { s with enables := e })
    ∧ (s.part = .clearing → exec (.run e) s = .next s)

/-- STOP in RUNNING makes the part enter STOPPING, delivered to every block: the pass, the links, the mute channels, the
lift and the quiet reports. A seat whose channel went from AWAITING to SENDING is published (R43, R56, R135, R154, R175;
log 7). Elsewhere STOP is ignored but for its enables. The model's choices: log 7, log 21, log 27, log 28. -/
def Obligations.StopEntersStopping : Prop :=
  ∀ (s : State) (e : BitVec 7),
    (s.part = .running → s.memoryLaw → ∃ t, exec (.stop e) s = .next t ∧ t.part = .stopping ∧ t.enables = e
      ∧ t.pass = none ∧ t.scanTimer = none ∧ t.lift = none
      ∧ (∀ l, t.link l = { s.link l with
          assembler := .sync, run := emptyRun, slot := none, timer := none, queue := [], deferred := [],
          state := if ∀ k, (s.link k).tx = .idle then .disabled else (s.link l).state,
          tx := match (s.link l).tx with
            | .sending f => .sending { f with cancelled := true }
            | x => x })
      ∧ (t.linesQuiet = true ↔ ∀ k, (s.link k).tx = .idle)
      ∧ (t.orderQuiet = true ↔ s.worked = none ∧ s.suspended = none)
      ∧ (∀ i, t.seat i = { s.seat i with
          channel := if (s.seat i).channel.state = .sending ∨ (s.seat i).channel.state = .awaiting
            then { (s.seat i).channel with state := .sending, attempt := .first, deadline := none } else (s.seat i).channel,
          board := if (s.seat i).channel.state = .awaiting ∧ i.val < s.layout.seatCount
            then changedNow (s.seat i).board s.clock else (s.seat i).board })
      ∧ t.boardWrites = s.boardWrites ++ changeWrites t (allSeats.filter fun i => (s.seat i).channel.state = .awaiting)
      ∧ wordsKept s t (fun a => a = 36 ∧ t.linesQuiet = true)
      ∧ (t.linesQuiet = true → SummaryShown t)
      ∧ t = { s with part := .stopping, enables := e, pass := none, refreshPass := false, scanTimer := none, lift := none,
                     links := t.links, seats := t.seats, linesQuiet := t.linesQuiet, orderQuiet := t.orderQuiet,
                     boardWrites := t.boardWrites, ram := t.ram, badParity := t.badParity })
    ∧ (s.part = .halted ∨ s.part = .checking ∨ s.part = .stopping → exec (.stop e) s = .next { s with enables := e })
    ∧ (s.part = .clearing → exec (.stop e) s = .next s)

/-- STOPPING ends once both quiet reports have come and no board write is in progress or waiting; the part is HALTED and
all else is kept. Until then the end does not come (R175). The model's choices: log 3. -/
def Obligations.StoppingEnds : Prop :=
  ∀ s : State,
    (s.part = .stopping → s.linesQuiet = true → s.orderQuiet = true → s.boardWrites = [] →
      ∃ t, exec .stoppingEnd s = .next t ∧ t.part = .halted ∧ t = { s with part := .halted })
    ∧ (¬ (s.part = .stopping ∧ s.linesQuiet = true ∧ s.orderQuiet = true ∧ s.boardWrites = []) →
      exec .stoppingEnd s = .next s)

/-- A CONTROL write without a command replaces the enables and nothing else, and the notify line is asserted exactly while
a cause is both set and enabled; in CLEARING it is ignored (R164, R170, R171). -/
def Obligations.EnablesGovernNotifyLine : Prop :=
  ∀ (s : State) (e : BitVec 7),
    (s.part ≠ .clearing → ∃ t, exec (.setCauseEnables e) s = .next t ∧ t = { s with enables := e }
      ∧ (t.notifyAsserted = true ↔ ∃ c : Cause, s.causeSet c = true ∧ e.getLsbD (causeNumber c - 8) = true))
    ∧ (s.part = .clearing → exec (.setCauseEnables e) s = .next s)

/-- A STATUS write clears each cause written 1 but FAULT; a FAULT KIND write of any value empties the latch and clears
FAULT; nothing else changes, and in CLEARING both are ignored (R164, R169, R170). -/
def Obligations.CausesAreCleared : Prop :=
  ∀ (s : State) (v : Word),
    (s.part ≠ .clearing → ∃ t, exec (.statusWrite v) s = .next t ∧ t = { s with causes := t.causes }
      ∧ t.causeSet .fault = s.causeSet .fault
      ∧ ∀ c, c ≠ .fault → t.causeSet c = (s.causeSet c && !v.getLsbD (causeNumber c)))
    ∧ (s.part ≠ .clearing → ∃ t, exec (.faultKindWrite v) s = .next t ∧ t = { s with faultLatch := none, causes := t.causes }
      ∧ t.causeSet .fault = false ∧ (∀ c, c ≠ .fault → t.causeSet c = s.causeSet c)
      ∧ t.registerRead .faultKind = 0 ∧ t.registerRead .faultAddress = 0)
    ∧ (s.part = .clearing → exec (.statusWrite v) s = .next s ∧ exec (.faultKindWrite v) s = .next s)

/-- A write to FAULT ADDRESS or IDENT is ignored; a write to another register does what its own command does, CONTROL by
its command field with the enables in bits 14:8 (R164, R171, R179). -/
def Obligations.RegisterWrites : Prop :=
  ∀ (s : State) (v : Word),
    exec (.registerWrite .faultAddress v) s = .next s ∧ exec (.registerWrite .ident v) s = .next s
    ∧ exec (.registerWrite .status v) s = exec (.statusWrite v) s
    ∧ exec (.registerWrite .faultKind v) s = exec (.faultKindWrite v) s
    ∧ (v.toNat % 4 = 0 → exec (.registerWrite .control v) s = exec (.setCauseEnables (v.extractLsb' 8 7)) s)
    ∧ (v.toNat % 4 = 1 → exec (.registerWrite .control v) s = exec (.run (v.extractLsb' 8 7)) s)
    ∧ (v.toNat % 4 = 2 → exec (.registerWrite .control v) s = exec (.stop (v.extractLsb' 8 7)) s)
    ∧ (v.toNat % 4 = 3 → exec (.registerWrite .control v) s = exec (.softReset (v.extractLsb' 8 7)) s)

/-! Host accesses of the RAM -/

/-- A host read of the RAM returns the stored word as it is and records HOST_PARITY at a word with bad parity; in CLEARING it
waits (R165, R166). A host read of a register returns the fields of R179: CONTROL's enables with command field 0, STATUS's
part state, start result and causes, the held fault's address and kind with MULTIPLE, or 0 for both when none is held, and
5120h (R164), in the codes of R179 and R185. The model's choices: log 12. -/
def Obligations.HostReadReturnsWord : Prop :=
  ∀ (s : State) (a : BitVec 14),
    (s.part ≠ .clearing → s.wordBad a.toNat = false → ∃ t, exec (.hostRamRead a) s = .next t
      ∧ t.readData = s.readWord a.toNat ∧ t = { s with readData := t.readData })
    ∧ (s.part ≠ .clearing → s.wordBad a.toNat = true → ∃ t, exec (.hostRamRead a) s = .next t
      ∧ t.readData = s.readWord a.toNat ∧ FaultReported s t a.toNat .hostParity
      ∧ t = { s with readData := t.readData, faultLatch := t.faultLatch, causes := t.causes })
    ∧ (s.part = .clearing → ∃ t, exec (.hostRamRead a) s = .next t ∧ t = { s with held := s.held ++ [.read a] }
      ∧ t.waitAsserted = true)
    ∧ (let control := s.registerRead .control
       control.toNat % 256 = 0 ∧ control.getLsbD 15 = false
       ∧ ∀ c : Cause, control.getLsbD (causeNumber c) = s.enables.getLsbD (causeNumber c - 8))
    ∧ (let status := s.registerRead .status
       status.toNat % 8 = partNumber s.part ∧ status.getLsbD 3 = false ∧ status.toNat / 16 % 16 = startNumber s.startResult
       ∧ status.getLsbD 15 = false ∧ ∀ c : Cause, status.getLsbD (causeNumber c) = s.causeSet c)
    ∧ (s.faultLatch = none → s.registerRead .faultAddress = 0 ∧ s.registerRead .faultKind = 0)
    ∧ (∀ f, s.faultLatch = some f → f.addr < 16384 → (s.registerRead .faultAddress).toNat = f.addr
      ∧ (s.registerRead .faultKind).toNat = faultNumber f.kind + if f.multiple then 32768 else 0)
    ∧ s.registerRead .ident = 0x5120#16

/-- A host write to an unwatched word. With the guard off it is written, and its parity made good. With the guard on, the
header, the Board, the Change List, the summary and progress words, and the count word and slots of a page that is not
FREE or DONE keep their word and parity, and WRITE_REFUSED is recorded; every other word is written (R144, R166, R167).
The model's choices: log 12. -/
def Obligations.GuardJudgesHostWrites : Prop :=
  ∀ (s : State) (a : BitVec 14) (v : Word),
    let n := a.toNat
    let closed := n < 256 ∨ s.layout.board ≤ n ∧ n < s.layout.board + 12 * s.layout.seatCount
      ∨ s.layout.changeList ≤ n ∧ n < s.layout.changeList + s.capacity
    let inPage := fun p : Page => s.layout.pageBase p ≤ n ∧ n < s.layout.pageBase p + 196
    let open_ := fun p : Page => n ≠ s.layout.pageBase p + 2 ∧ n ≠ s.layout.pageBase p + 3
      ∧ (s.pageState p = .free ∨ s.pageState p = .done)
    let written := ∃ t, exec (.hostRamWrite a v) s = .next t ∧ t.readWord n = v ∧ t.wordBad n = false
      ∧ wordsKept s t (· = n) ∧ t = { s with ram := t.ram, badParity := t.badParity }
    let refused := ∃ t, exec (.hostRamWrite a v) s = .next t ∧ FaultReported s t n .writeRefused
      ∧ t = { s with faultLatch := t.faultLatch, causes := t.causes }
    let guarded := s.part = .running ∨ s.part = .stopping
    s.memoryLaw → n ≠ 40 →
      ((s.part = .halted ∨ s.part = .checking → written)
      ∧ (guarded → closed → refused)
      ∧ (guarded → ¬ closed → ∀ p, inPage p → n ≠ s.layout.pageBase p → (open_ p → written) ∧ (¬ open_ p → refused))
      ∧ (guarded → ¬ closed → (∀ p, ¬ inPage p) → written)
      ∧ (s.part = .clearing → ∃ t, exec (.hostRamWrite a v) s = .next t ∧ t = { s with held := s.held ++ [.write a v] }))

/-- A host write to a page's state word while the part runs: POSTED posts a FREE page at the tail of the posting order,
FREE withdraws a POSTED page or returns a DONE one, ABORTING marks a TAKEN page; every other value leaves word and state
and records STATE_REFUSED (R143). In HALTED and CHECKING it is an ordinary write, to where the directory in the RAM places
the word (R167; log 11), and in CLEARING it waits. The model's choices: log 11, log 12. -/
def Obligations.PageStateWrites : Prop :=
  ∀ (s : State) (p : Page) (v : Word),
    let a := s.layout.stateAddr p
    let accepted := fun (x : PageState) (posting : List Page) => ∃ t, exec (.pageStateWrite p v) s = .next t
      ∧ t.pageState p = x ∧ t.pageState (otherPage p) = s.pageState (otherPage p) ∧ t.posting = posting
      ∧ t.readWord a = v ∧ t.wordBad a = false ∧ wordsKept s t (· = a)
      ∧ t = { s with pageA := t.pageA, pageB := t.pageB, posting := t.posting, ram := t.ram, badParity := t.badParity }
    let there := (s.readWord 6).toNat + (if p = .a then 0 else 196)
    (s.part = .halted ∨ s.part = .checking → s.memoryLaw → there < 16384 → ∃ t, exec (.pageStateWrite p v) s = .next t
      ∧ t.readWord there = v ∧ t.wordBad there = false ∧ wordsKept s t (· = there)
      ∧ t = { s with ram := t.ram, badParity := t.badParity })
    ∧ (s.part = .clearing → ∃ t, exec (.pageStateWrite p v) s = .next t
      ∧ t = { s with held := s.held ++ [.write (BitVec.ofNat 14 (s.hostStateAddr p)) v] } ∧ s.hostStateAddr p = there)
    ∧ ((s.part = .running ∨ s.part = .stopping) → s.memoryLaw → a < 16384 →
      (s.pageState p = .free → v = 1 → accepted .posted (s.posting ++ [p]))
      ∧ (s.pageState p = .posted → v = 0 → accepted .free (s.posting.erase p))
      ∧ (s.pageState p = .taken → v = 3 → accepted .aborting s.posting)
      ∧ (s.pageState p = .done → v = 0 → accepted .free s.posting)
      ∧ (¬ (s.pageState p = .free ∧ v = 1 ∨ s.pageState p = .posted ∧ v = 0 ∨ s.pageState p = .taken ∧ v = 3
            ∨ s.pageState p = .done ∧ v = 0) →
          ∃ t, exec (.pageStateWrite p v) s = .next t ∧ FaultReported s t a .stateRefused
            ∧ t = { s with faultLatch := t.faultLatch, causes := t.causes }))

/-- A host write of the taken count while the part runs. A count beyond the entries present records MARK_RANGE and is
replaced by the fill count. The oldest entries are released; the relist-due seats among them go behind the entries
present, and then the lowest-numbered owed seats take the room that is left. Words, flags, counts, the header and the
CHANGES cause follow (R161). In HALTED and CHECKING it is an ordinary write, and in CLEARING it waits (R165, R167).
The model's choices: log 12; that word 39 is written also when the count stays as it was, log 31. -/
def Obligations.TakenCountReleasesEntries : Prop :=
  ∀ (s : State) (v : Word),
    let bad := s.changeList.length < (v - s.takenCount).toNat
    let count := if bad then s.fillCount else v
    let n := (count - s.takenCount).toNat
    let gone := s.changeList.take n
    let again := gone.filter fun i => (s.seat i).board.relistDue
    let room := s.capacity - (s.changeList.length - n + again.length)
    let served := (allSeats.filter fun i => (s.seat i).board.owed).take room
    let added := again ++ served
    (s.part = .halted ∨ s.part = .checking → s.memoryLaw → ∃ t, exec (.takenCountWrite v) s = .next t
      ∧ t.readWord 40 = v ∧ t.wordBad 40 = false ∧ wordsKept s t (· = 40)
      ∧ t = { s with ram := t.ram, badParity := t.badParity })
    ∧ (s.part = .clearing → ∃ t, exec (.takenCountWrite v) s = .next t ∧ t = { s with held := s.held ++ [.write 40 v] })
    ∧ (s.part = .running ∨ s.part = .stopping → s.memoryLaw → s.changeListLaw → s.layoutSound →
      ∃ t, exec (.takenCountWrite v) s = .next t
        ∧ t.changeList = s.changeList.drop n ++ added ∧ t.takenCount = count
        ∧ t.fillCount = s.fillCount + word added.length ∧ t.owedCount = s.owedCount - served.length
        ∧ t.writePos = (s.writePos + added.length) % s.capacity
        ∧ (∀ i, t.seat i = { s.seat i with board := { (s.seat i).board with
            listed := decide (i ∈ t.changeList)
            relistDue := (s.seat i).board.relistDue && !decide (i ∈ gone)
            owed := (s.seat i).board.owed && !decide (i ∈ served) } })
        ∧ (∀ k (h : k < added.length), t.readWord (s.layout.changeList + (s.writePos + k) % s.capacity) = seatWord added[k])
        ∧ t.readWord 40 = v ∧ t.readWord 39 = count
        ∧ (added ≠ [] → t.readWord 38 = t.fillCount) ∧ (served ≠ [] → t.readWord 37 = word t.owedCount)
        ∧ wordsKept s t (fun a => a = 39 ∨ a = 40 ∨ a = 38 ∧ added ≠ [] ∨ a = 37 ∧ served ≠ []
            ∨ ∃ k < added.length, a = s.layout.changeList + (s.writePos + k) % s.capacity)
        ∧ (t.changeList ≠ [] → t.causeSet .changes = true)
        ∧ (t.changeList = [] → t.causeSet .changes = s.causeSet .changes)
        ∧ (∀ c, c ≠ .changes → c ≠ .fault → t.causeSet c = s.causeSet c)
        ∧ (bad → ∃ f, t.faultLatch = some f ∧ (s.faultLatch = none → f = { addr := 40, kind := .markRange, multiple := false }
            ∧ t.causeSet .fault = true) ∧ ∀ g, s.faultLatch = some g → f = { g with multiple := true })
        ∧ (¬ bad → t.faultLatch = s.faultLatch ∧ t.causeSet .fault = s.causeSet .fault)
        ∧ t = { s with changeList := t.changeList, takenCount := t.takenCount, fillCount := t.fillCount,
                       owedCount := t.owedCount, writePos := t.writePos, seats := t.seats, ram := t.ram,
                       badParity := t.badParity, causes := t.causes, faultLatch := t.faultLatch })

/-! Report links: receiving -/

/-- A character with the line's error marks reaches the frame assembler of a receiving link: ignored in SYNC; the first of
a run in IDLE; stored in COLLECTING, or as the eleventh moving the run to OVERFLOW, where characters are counted and their
marks noted. A link that does not receive ignores it (R25, R26). The model's choices: log 19. -/
def Obligations.CharactersFormRuns : Prop :=
  ∀ (s : State) (l : LinkId) (d : Byte) (parityBit stopBit : Bool),
    let k := s.link l
    let c : RunByte := { data := d, stopError := !stopBit, parityError := decide ((onesOf d + bit parityBit) % 2 = 0) }
    let becomes := fun (a : AssemblerState) (r : Run) => ∃ t, exec (.characterReceived l d parityBit stopBit) s = .next t
      ∧ t.link l = { k with assembler := a, run := r } ∧ linksKept s t (· = l) ∧ t = { s with links := t.links }
    let more := fun (bytes : List RunByte) => Run.mk bytes (k.run.count + 1) (k.run.stopMark || c.stopError) (k.run.parityMark || c.parityError)
    (s.part = .running → k.enabled = true →
      (k.assembler = .sync → exec (.characterReceived l d parityBit stopBit) s = .next s)
      ∧ (k.assembler = .idle → becomes .collecting { bytes := [c], count := 1, stopMark := c.stopError, parityMark := c.parityError })
      ∧ (k.assembler = .collecting → k.run.count < 10 → becomes .collecting (more (k.run.bytes ++ [c])))
      ∧ (k.assembler = .collecting → 10 ≤ k.run.count → becomes .overflow (more k.run.bytes))
      ∧ (k.assembler = .overflow → 10 ≤ k.run.count → becomes .overflow (more k.run.bytes)))
    ∧ (¬ (s.part = .running ∧ k.enabled = true) → exec (.characterReceived l d parityBit stopBit) s = .next s)

/-- A gap moves SYNC to IDLE, leaves IDLE, and ends a run: the first of the eight causes that holds discards it, counted
once under that cause alone, with ERRORS-SEEN set; link state, timer and holding slot stay. A run that meets no cause is counted
GOOD and under no cause. A link that does not receive ignores the gap (R26, R27, R30, R31). -/
def Obligations.GapDiscardsBadRuns : Prop :=
  ∀ (s : State) (l : LinkId),
    let k := s.link l
    let r := k.run
    let discarded := fun (i : Fin 11) => ∃ t, exec (.gap l) s = .next t
      ∧ t.link l = { k with assembler := .idle, run := emptyRun, counters := counted k.counters i, errorsSeen := true }
      ∧ linksKept s t (· = l) ∧ CountShown s t l i (k.errorsSeen = false)
      ∧ t = { s with links := t.links, ram := t.ram, badParity := t.badParity }
    (s.part = .running → k.enabled = true → s.memoryLaw →
      (k.assembler = .sync → ∃ t, exec (.gap l) s = .next t ∧ t.link l = { k with assembler := .idle }
        ∧ linksKept s t (· = l) ∧ t = { s with links := t.links })
      ∧ (k.assembler = .idle → exec (.gap l) s = .next s)
      ∧ (k.assembler = .collecting ∨ k.assembler = .overflow →
          (k.slot.isSome → discarded 1)
          ∧ (k.slot = none → r.stopMark = true → discarded 2)
          ∧ (k.slot = none → r.stopMark = false → r.parityMark = true → discarded 3)
          ∧ (k.slot = none → r.stopMark = false → r.parityMark = false →
              (r.count < 10 → discarded 4) ∧ (10 < r.count → discarded 5)
              ∧ (r.count = 10 → runByte r 0 ≠ 0xC3#8 → discarded 6)
              ∧ (r.count = 10 → runByte r 0 = 0xC3#8 → (((runData r).map BitVec.toNat).sum % 256 ≠ 0 → discarded 7)
                ∧ (((runData r).map BitVec.toNat).sum % 256 = 0 →
                    (128 ≤ (runByte r 1).toNat → discarded 8)
                    ∧ ((runByte r 1).toNat < 128 → ∃ t, exec (.gap l) s = .next t ∧ (t.link l).run = emptyRun
                      ∧ (t.link l).counters = counted k.counters 0 ∧ (t.link l).errorsSeen = k.errorsSeen))))))
    ∧ (¬ (s.part = .running ∧ k.enabled = true) → exec (.gap l) s = .next s)

/-- A run of ten sound characters that meets no cause is a good frame: GOOD is counted, a seat report fills the holding
slot with its fields, a keepalive does not; a DOWN link goes UP with the LINK cause, and the link timer restarts from the
part clock (R28, R34, R184). -/
def Obligations.GapTakesGoodFrames : Prop :=
  ∀ (s : State) (l : LinkId),
    let k := s.link l
    let b := fun n => (runByte k.run n).toNat
    s.part = .running → k.enabled = true → s.memoryLaw → k.assembler = .collecting → k.slot = none →
      k.run.stopMark = false → k.run.parityMark = false → k.run.count = 10 → runByte k.run 0 = 0xC3#8 →
      ((runData k.run).map BitVec.toNat).sum % 256 = 0 → b 1 < 128 →
      ∃ t, exec (.gap l) s = .next t
        ∧ t.link l = { k with
            assembler := .idle, run := emptyRun, counters := counted k.counters 0, slot := (t.link l).slot,
            state := if k.state = .down then .up else k.state,
            timer := if k.state = .disabled then k.timer else some s.clock }
        ∧ (64 ≤ b 1 → (t.link l).slot = none)
        ∧ (b 1 < 64 → ∃ p, (t.link l).slot = some p ∧ p.channel.val = b 1 ∧ p.txId.toNat = 256 * b 2 + b 3
            ∧ p.rf.toNat = b 4 ∧ p.audio.toNat = b 6 ∧ p.reading.toNat = 256 * (b 7 % 4) + b 8
            ∧ p.pilot = (runByte k.run 5).getLsbD 0 ∧ p.muted = (runByte k.run 5).getLsbD 1
            ∧ p.fresh = (runByte k.run 5).getLsbD 2 ∧ p.battValid = (runByte k.run 5).getLsbD 3)
        ∧ (k.state = .down → raised s t .link) ∧ (k.state ≠ .down → t.causes = s.causes)
        ∧ linksKept s t (· = l) ∧ CountShown s t l 0 (k.state = .down)
        ∧ t = { s with links := t.links, ram := t.ram, badParity := t.badParity, causes := t.causes }

/-- The link timer of an UP link expires when the part clock has run the link timeout past its start: the link goes DOWN,
the timer stops, LINK is set and the summary word shows each link's UP and its ERRORS-SEEN. Before that nothing happens (R31,
R34, R180).
The model's choices: log 3. -/
def Obligations.LinkTimeoutMakesLinkDown : Prop :=
  ∀ (s : State) (l : LinkId),
    let due := s.part = .running ∧ (s.link l).state = .up ∧ ∃ t0, (s.link l).timer = some t0 ∧ (s.link l).timeout ≤ (s.clock - t0).toNat
    (due → s.memoryLaw → ∃ t, exec (.linkTimerExpiry l) s = .next t
      ∧ t.link l = { s.link l with state := .down, timer := none } ∧ linksKept s t (· = l) ∧ raised s t .link
      ∧ SummaryShown t ∧ wordsKept s t (· = 36)
      ∧ t = { s with links := t.links, ram := t.ram, badParity := t.badParity, causes := t.causes })
    ∧ (¬ due → exec (.linkTimerExpiry l) s = .next s)

/-! Reports -/

/-- A report taken from a holding slot on a carrier that names no seat is UNMAPPED; one whose transmitter ID is not the
seat's is FOREIGN and sets the seat's foreign seen flag. Each is counted and sets ERRORS-SEEN; no other seat state
changes. Without a report, or outside RUNNING, nothing is taken (R19, R20). The model's choices: log 3. -/
def Obligations.ReportsTurnedAway : Prop :=
  ∀ (s : State) (l : LinkId) (r : Report),
    let k := s.link l
    let counts := fun (t : State) (i : Fin 11) =>
      t.link l = { k with slot := none, counters := counted k.counters i, errorsSeen := true } ∧ linksKept s t (· = l)
        ∧ CountShown s t l i (k.errorsSeen = false)
    (s.part = .running → s.memoryLaw → k.slot = some r → s.carrier l r.channel = none →
      ∃ t, exec (.reportTake l) s = .next t ∧ counts t 9
        ∧ t = { s with links := t.links, ram := t.ram, badParity := t.badParity })
    ∧ (∀ i, s.part = .running → s.memoryLaw → k.slot = some r → s.carrier l r.channel = some i →
        r.txId ≠ (s.seat i).ctx.txId → ∃ t, exec (.reportTake l) s = .next t ∧ counts t 10
        ∧ t.seat i = { s.seat i with ctx := { (s.seat i).ctx with foreignSeen := true } } ∧ seatsKept s t (· = i)
        ∧ t = { s with links := t.links, seats := t.seats, ram := t.ram, badParity := t.badParity })
    ∧ (s.part ≠ .running ∨ k.slot = none → exec (.reportTake l) s = .next s)

/-- A report of the seat's own transmitter is accepted: the sample is replaced whole with the levels clamped, the last
report time is the part clock, the foreign seen flag clears. The pilot opens or ends a dropout; without BATT_VALID the
battery is missing and the status NO_DATA; with it an unseeded estimator is seeded, a seeded one takes the filter step, or
is restarted and seeded anew when the reading shows a new pack, and voltage, charge (on a valid curve the straight line between
its breakpoints, flat beyond them) and status follow; an estimator that has
not seen the current generation takes nothing. FRESH restarts it first and issues the intent of an active seat again, and
else a matching MUTED flag settles a waiting channel. A restart clears the two battery monitors. The seat is published if
a compared value changed (R21, R22, R68, R82, R97, R99 to R104, R111, R129, R131).
The model's choices: log 27. -/
def Obligations.ReportsAccepted : Prop :=
  ∀ (s : State) (l : LinkId) (r : Report) (i : Seat),
    let k := s.link l
    let x := s.seat i
    let c := s.seatCurve i
    let gen := s.seatGeneration i
    let stale := r.fresh = false ∧ x.estimator.genSeen ≠ gen
    let base := if r.fresh then restartedEstimator gen else x.estimator
    let swap := ¬ stale ∧ r.battValid = true ∧ base.seeded = true ∧ base.v + c.swapStep ≤ r.reading.toNat
    s.part = .running → k.slot = some r → s.carrier l r.channel = some i → r.txId = x.ctx.txId → x.ctx.active = true →
      x.ctx.link = l → i.val < s.layout.seatCount →
      ∃ t, exec (.reportTake l) s = .next t ∧
        let y := t.seat i
        y.ctx = { x.ctx with
            sample := some { rf := min 120 r.rf.toNat, pilot := r.pilot, muted := r.muted, audio := min 90 r.audio.toNat },
            lastReport := s.clock, foreignSeen := false }
        ∧ (r.pilot = false → x.tracker.dropoutStart = none → y.tracker = { x.tracker with
            dropoutStart := some s.clock, onsets := if x.tracker.onsets < 255 then x.tracker.onsets + 1 else x.tracker.onsets })
        ∧ (r.pilot = true → y.tracker = { x.tracker with dropoutStart := none })
        ∧ (r.pilot = false → x.tracker.dropoutStart ≠ none → y.tracker = x.tracker)
        ∧ (stale → y.estimator = x.estimator)
        ∧ (¬ stale → r.battValid = false → y.estimator = { base with missing := true, status := .noData })
        ∧ (¬ stale → r.battValid = true → ¬ swap → ReadingTaken c base y.estimator r.reading.toNat s.clock)
        ∧ (¬ stale → r.battValid = true → swap →
            ReadingTaken c (restartedEstimator gen) y.estimator r.reading.toNat s.clock)
        ∧ (∀ m : Fin 8, y.monitors[m] = if (m = condLow ∨ m = condCritical) ∧ (r.fresh = true ∨ swap) then clearMonitor
            else x.monitors[m])
        ∧ (r.fresh = true → y.channel = { x.channel with state := .sending, attempt := .first, deadline := none }
            ∧ IssuedLink True { k with slot := none } (t.link l) i)
        ∧ (r.fresh = false → y.channel = (if (x.channel.state = .awaiting ∨ x.channel.state = .unconfirmed)
                ∧ r.muted = decide (x.channel.intent = .muted)
              then { x.channel with state := .settled, attempt := .first, deadline := none } else x.channel)
            ∧ t.link l = { k with slot := none })
        ∧ publishedIfChanged s t i (changeWrite t i) ∧ seatsKept s t (· = i) ∧ linksKept s t (· = l)
        ∧ t = { s with links := t.links, seats := t.seats, boardWrites := t.boardWrites }

/-! Report links: sending -/

/-- An IDLE transmitter of an UP link takes the head of a queue that is not empty while the part is RUNNING: the
lowest-numbered deferred seat fills the room, and the six bytes are built from the seat's channel, transmitter ID and
intent. They go out back to back, each as a start bit low, eight data bits least significant first, an odd parity bit and a
stop bit high. Otherwise nothing is sent, and a line without a frame is high (R25, R37, R38). The model's choices: log 3. -/
def Obligations.TransmitterTakesQueueHead : Prop :=
  ∀ (s : State) (l : LinkId),
    let k := s.link l
    (∀ i rest, s.part = .running → k.tx = .idle → k.state = .up → k.queue = i :: rest → s.queueLawful l →
      ∃ t f, exec (.transmitStart l) s = .next t ∧ (t.link l).tx = .sending f ∧ f.seat = i ∧ f.cancelled = false
        ∧ (∃ check, f.bytes = [0x3C#8, BitVec.ofNat 8 (s.seat i).ctx.channel.val, (s.seat i).ctx.txId.extractLsb' 8 8,
            (s.seat i).ctx.txId.extractLsb' 0 8, if (s.seat i).channel.intent = .muted then 0x01#8 else 0x02#8, check])
        ∧ (f.bytes.map BitVec.toNat).sum % 256 = 0
        ∧ (t.link l).transmitLine.length = 66
        ∧ (∀ n d, f.bytes[n]? = some d → CharacterSpelled d (((t.link l).transmitLine.drop (11 * n)).take 11))
        ∧ (k.deferred = [] → (t.link l).queue = rest ∧ (t.link l).deferred = [])
        ∧ (∀ d ∈ k.deferred, (∀ e ∈ k.deferred, d ≤ e) →
            (t.link l).queue = rest ++ [d] ∧ (t.link l).deferred = k.deferred.erase d)
        ∧ t.link l = { k with queue := (t.link l).queue, deferred := (t.link l).deferred, tx := (t.link l).tx }
        ∧ linksKept s t (· = l) ∧ t = { s with links := t.links })
    ∧ (s.part ≠ .running ∨ k.tx ≠ .idle ∨ k.state ≠ .up ∨ k.queue = [] → exec (.transmitStart l) s = .next s)
    ∧ ((∀ f, k.tx ≠ .sending f) → k.transmitLine = [true])

/-- A frame's completion makes the transmitter space. Uncancelled, it moves the seat's mute channel from SENDING to
AWAITING with the deadline at the confirm time of its class, and the seat is published; cancelled, it delivers nothing,
and so does one that finds the channel elsewhere (log 25). Without a frame on the line nothing completes (R39, R130).
The model's choices: log 3, log 25, log 27. -/
def Obligations.CompletionStartsConfirmation : Prop :=
  ∀ (s : State) (l : LinkId),
    let k := s.link l
    (∀ f, k.tx = .sending f → f.cancelled = false → (s.seat f.seat).channel.state = .sending →
      (s.part = .running ∨ s.part = .stopping) → f.seat.val < s.layout.seatCount →
      ∃ t, exec (.commandFrameCompletion l) s = .next t ∧ t.link l = { k with tx := .spacing } ∧ linksKept s t (· = l)
        ∧ t.seat f.seat = { s.seat f.seat with
            channel := { (s.seat f.seat).channel with
              state := .awaiting, deadline := some (s.clock + BitVec.ofNat 32 (s.seatClass f.seat).confirmTime) }
            board := changedNow (s.seat f.seat).board s.clock }
        ∧ seatsKept s t (· = f.seat) ∧ t.boardWrites = s.boardWrites ++ [changeWrite t f.seat]
        ∧ t = { s with links := t.links, seats := t.seats, boardWrites := t.boardWrites })
    ∧ (∀ f, k.tx = .sending f → f.cancelled = true ∨ (s.seat f.seat).channel.state ≠ .sending →
      ∃ t, exec (.commandFrameCompletion l) s = .next t ∧ t.link l = { k with tx := .spacing } ∧ linksKept s t (· = l)
        ∧ t = { s with links := t.links })
    ∧ ((∀ f, k.tx ≠ .sending f) → exec (.commandFrameCompletion l) s = .next s)

/-- The spacing ends with the transmitter IDLE. In STOPPING, when every transmitter is IDLE by it, every link is DISABLED,
the summary word written and the quiet report made. A transmitter that does not space is left (R39, R43).
The model's choices: log 3. -/
def Obligations.SpacingEndsIdle : Prop :=
  ∀ (s : State) (l : LinkId),
    let k := s.link l
    let last := s.part = .stopping ∧ s.linesQuiet = false ∧ ∀ j, j ≠ l → (s.link j).tx = .idle
    (k.tx = .spacing → ¬ last → ∃ t, exec (.spacingEnd l) s = .next t ∧ t.link l = { k with tx := .idle }
      ∧ linksKept s t (· = l) ∧ t = { s with links := t.links })
    ∧ (k.tx = .spacing → last → s.memoryLaw → ∃ t, exec (.spacingEnd l) s = .next t ∧ t.linesQuiet = true
      ∧ t.link l = { k with tx := .idle, state := .disabled }
      ∧ (∀ j, j ≠ l → t.link j = { s.link j with state := .disabled })
      ∧ SummaryShown t ∧ wordsKept s t (· = 36)
      ∧ t = { s with links := t.links, linesQuiet := true, ram := t.ram, badParity := t.badParity })
    ∧ (k.tx ≠ .spacing → exec (.spacingEnd l) s = .next s)

/-! Passes and evaluations -/

/-- When the part clock has advanced one scan period past the timer's start, the start advances by a scan period. An
expiry that finds the pass state IDLE starts a pass: the pass count, the clock copy and the refresh decision; one that
finds a pass IN FLIGHT is late: the late count, saturating, and LATE. A pass with inactive seats alone left has completed
(R47, R48, R49; log 6). The model's choices: log 3, log 6, log 29. -/
def Obligations.ScanExpiryStartsPassOrIsLate : Prop :=
  ∀ (s : State) (t0 : Clock),
    let left := fun k : Nat => ∃ i : Seat, k ≤ i.val ∧ i.val < s.layout.seatCount ∧ (s.seat i).ctx.active = true
    let due := s.part = .running ∧ s.scanTimer = some t0 ∧ s.scanPeriod ≤ (s.clock - t0).toNat
    let idle := ∀ k, s.pass = some k → ¬ left k
    (due → idle → s.memoryLaw → ∃ t, exec .scanExpiry s = .next t ∧ t.scanTimer = some (t0 + BitVec.ofNat 32 s.scanPeriod)
      ∧ t.passCount = s.passCount + 1 ∧ t.refreshPass = decide (s.countdown ≤ 1)
      ∧ t.countdown = (if s.countdown ≤ 1 then s.refreshInterval else s.countdown - 1)
      ∧ (left 0 → t.pass = some 0) ∧ (¬ left 0 → t.pass = none)
      ∧ t.readWord 34 = t.passCount ∧ t.readWord 32 = lowHalf s.clock ∧ t.readWord 33 = highHalf s.clock
      ∧ wordsKept s t (fun a => 32 ≤ a ∧ a ≤ 34)
      ∧ t = { s with scanTimer := t.scanTimer, pass := t.pass, passCount := t.passCount, refreshPass := t.refreshPass,
                     countdown := t.countdown, ram := t.ram, badParity := t.badParity })
    ∧ (due → ¬ idle → s.memoryLaw → ∃ t, exec .scanExpiry s = .next t ∧ t.scanTimer = some (t0 + BitVec.ofNat 32 s.scanPeriod)
      ∧ t.lateCount = (if s.lateCount < 65535 then s.lateCount + 1 else s.lateCount) ∧ raised s t .late
      ∧ t.readWord 35 = word t.lateCount ∧ wordsKept s t (· = 35)
      ∧ t = { s with scanTimer := t.scanTimer, lateCount := t.lateCount, causes := t.causes, ram := t.ram, badParity := t.badParity })
    ∧ (s.scanTimer = none ∨ s.scanTimer = some t0 ∧ ¬ due → exec .scanExpiry s = .next s)

/-- The pass evaluates its next active seat: the silence decision and cause, the aging of stored readings, the tracker's
rollover, the generation check, the trimming of the history, the sample and the estimate, the deadline; then the monitors by
the raw values of the state so left, frozen ones held and disabled ones cleared; then the publication, a change write or in a
refresh pass a refresh write, by the values that make a visible change (R23, R51 to R55, R62, R66, R68, R85, R86, R88, R90, R104, R106, R108 to R114, R132, R137 to R139).
The pass goes on, or is complete, at this event, with its board write waiting. The model's choices: log 3, log 6, log 27,
log 29. -/
def Obligations.SeatEvaluation : Prop :=
  ∀ (s : State) (k : Nat) (i : Seat),
    let x := s.seat i
    let cls := s.seatClass i
    let age := fun c : Clock => (s.clock - c).toNat
    let silent := cls.silenceTime ≤ age x.ctx.lastReport
    let stale := x.estimator.genSeen ≠ s.seatGeneration i
    let expired := x.channel.state = .awaiting ∧ ∃ d, x.channel.deadline = some d ∧ age d < 2147483648
    let rolls := ¬ silent ∧ cls.fadeWindow * 1000 ≤ age (heldReading s.clock x.tracker.windowStart)
    let kept := x.estimator.history.dropWhile fun p => decide (1000000000 < age p.1)
    let next := fun c : Clock => if age c < 2147483648 then heldReading s.clock c else c
    let taken := ¬ silent ∧ x.estimator.seeded = true ∧ x.estimator.missing = false ∧ CurveValid (s.seatCurve i)
      ∧ age x.estimator.nextSample < 2147483648
    (s.part ≠ .running ∨ s.pass = none → exec .seatEvaluation s = .next s)
    ∧ (∀ n, s.part = .running → s.pass = some n →
        (∀ j : Seat, n ≤ j.val → j.val < s.layout.seatCount → (s.seat j).ctx.active = false) →
        exec .seatEvaluation s = .next { s with pass := none })
    ∧ (s.part = .running → s.pass = some k → k ≤ i.val → i.val < s.layout.seatCount → x.ctx.active = true →
    (∀ j : Seat, k ≤ j.val → j < i → (s.seat j).ctx.active = false) →
      ∃ t, exec .seatEvaluation s = .next t ∧
        let y := t.seat i
        let e := y.estimator
        let offered := fun (c : Fin 8) (raw : Prop) =>
          (cls.raiseCounts[c] = 0 → y.monitors[c] = clearMonitor)
          ∧ (cls.raiseCounts[c] ≠ 0 → ∀ b : Bool, (b = true ↔ raw) →
              Persisted cls.raiseCounts[c] cls.clearCounts[c] b x.monitors[c] y.monitors[c])
        let held := fun c : Fin 8 => y.monitors[c] = if cls.raiseCounts[c] = 0 then clearMonitor else x.monitors[c]
        let battery := fun (c : Fin 8) (limit minutes : Nat) =>
          let low := e.status = .valid ∧ e.minutes ≤ minutes
          (stale → y.monitors[c] = clearMonitor)
          ∧ (¬ stale → (silent ∨ e.status = .noData ∨ e.status = .profileFault) → held c)
          ∧ (¬ stale → ¬ silent → e.status ≠ .noData → e.status ≠ .profileFault →
              offered c (if x.monitors[c].state = .raised ∨ x.monitors[c].state = .noted
                then e.charge < limit + (s.seatCurve i).hysteresis ∨ low else e.charge ≤ limit ∨ low))
        ((∃ j : Seat, i < j ∧ j.val < s.layout.seatCount ∧ (s.seat j).ctx.active = true) → t.pass = some (i.val + 1))
        ∧ ((∀ j : Seat, i < j → j.val < s.layout.seatCount → (s.seat j).ctx.active = false) → t.pass = none)
        ∧ y.ctx = { x.ctx with
            silence := if ¬ silent then .noCause else if (s.link x.ctx.link).state = .down then .linkDown
              else if x.ctx.foreignSeen then .foreignUnit else .noReports
            lastReport := if silent then heldReading s.clock x.ctx.lastReport else x.ctx.lastReport }
        ∧ y.tracker = (if rolls
            then { dropoutStart := x.tracker.dropoutStart.map (heldReading s.clock), onsets := 0,
                   prevOnsets := x.tracker.onsets, windowStart := s.clock }
            else { x.tracker with dropoutStart := x.tracker.dropoutStart.map (heldReading s.clock),
                                  windowStart := heldReading s.clock x.tracker.windowStart })
        ∧ (stale → e = { seeded := false, f := 0, v := 0, charge := 0, missing := false, history := [], nextSample := next 0,
                         result := .warming, minutes := 0, status := .noData, genSeen := s.seatGeneration i })
        ∧ (¬ stale →
            e = { x.estimator with history := e.history, nextSample := e.nextSample, result := e.result,
                                   minutes := e.minutes, status := e.status }
            ∧ StatusDerived e (s.seatCurve i)
            ∧ (taken → e.history = (if 8 ≤ kept.length then kept.drop 1 else kept) ++ [(s.clock, x.estimator.charge)]
                ∧ e.nextSample = s.clock + BitVec.ofNat 32 ((s.seatCurve i).period * 1000) ∧ EstimateOf e.history e)
            ∧ (¬ taken → e.history = kept ∧ e.nextSample = next x.estimator.nextSample
                ∧ (kept ≠ x.estimator.history → EstimateOf kept e)
                ∧ (kept = x.estimator.history → e.result = x.estimator.result ∧ e.minutes = x.estimator.minutes)))
        ∧ (¬ expired → y.channel = x.channel ∧ t.links = s.links)
        ∧ (expired → x.channel.attempt = .first →
            y.channel = { x.channel with state := .sending, attempt := .second, deadline := none }
            ∧ PlacedLink True (s.link x.ctx.link) (t.link x.ctx.link) i ∧ linksKept s t (· = x.ctx.link))
        ∧ (expired → x.channel.attempt = .second →
            y.channel = { x.channel with state := .unconfirmed, deadline := none } ∧ t.links = s.links)
        ∧ offered condSilent silent
        ∧ offered condUnconfirmed (y.channel.state = .unconfirmed)
        ∧ (silent → held condLost ∧ held condWeak ∧ held condHotMic ∧ held condSpeaking)
        ∧ (¬ silent →
            offered condLost (x.ctx.sample.isSome ∧ ∃ d, y.tracker.dropoutStart = some d ∧ cls.lostTime ≤ age d)
            ∧ offered condWeak (∃ p, x.ctx.sample = some p
                ∧ (p.rf < cls.weakLevel ∨ cls.dropoutLimit ≤ y.tracker.onsets ∨ cls.dropoutLimit ≤ y.tracker.prevOnsets))
            ∧ offered condHotMic (∃ p, x.ctx.sample = some p ∧ p.muted = false ∧ i ∉ s.roster
                ∧ (y.channel.state = .settled ∨ y.channel.state = .unconfirmed))
            ∧ offered condSpeaking (∃ p, x.ctx.sample = some p ∧ p.muted = true ∧ cls.speechLevel ≤ p.audio))
        ∧ battery condLow cls.lowCharge cls.lowMinutes ∧ battery condCritical cls.critCharge cls.critMinutes
        ∧ (¬ SamePicture s t i → y.board = changedNow x.board s.clock ∧ t.boardWrites = s.boardWrites ++ [changeWrite t i])
        ∧ (SamePicture s t i → y.board = x.board ∧ t.boardWrites = s.boardWrites ++
            if s.refreshPass then [{ changeWrite t i with change := false }] else [])
        ∧ seatsKept s t (· = i)
        ∧ t = { s with links := t.links, seats := t.seats, boardWrites := t.boardWrites, pass := t.pass })

/-- The model's choice (log 5): three rows name a single step of an evaluation, and an evaluation is one event. Such a command
for the seat that the pass in flight has reached carries out the seat's whole evaluation, the state that SEAT_EVALUATION
leaves, when the evaluation makes the step, so that nothing comes between the step and the rest and at most one rollover is
made: the fade window rolls over when it has run its time at an unfrozen seat; a history sample is taken when it is due at an
unfrozen seat, and the estimate computed from it; an expired confirmation deadline repeats the command, which places the seat
on its link and cancels nothing, or ends UNCONFIRMED. Otherwise, and without such an evaluation, nothing happens (R52, R83,
R85, R94, R108, R110, R132). The model's choices: log 3, log 5, log 6, log 29. -/
def Obligations.SharesOfEvaluation : Prop :=
  ∀ (s : State) (i : Seat),
    let x := s.seat i
    let cls := s.seatClass i
    let e := x.estimator
    let age := fun c : Clock => (s.clock - c).toNat
    let reached := s.part = .running ∧ x.ctx.active = true ∧ i.val < s.layout.seatCount ∧ ∃ k, s.pass = some k
      ∧ k ≤ i.val ∧ ∀ j : Seat, k ≤ j.val → j < i → (s.seat j).ctx.active = false
    let silent := cls.silenceTime ≤ age x.ctx.lastReport
    let rolls := reached ∧ ¬ silent ∧ cls.fadeWindow * 1000 ≤ age (heldReading s.clock x.tracker.windowStart)
    let samples := reached ∧ ¬ silent ∧ e.genSeen = s.seatGeneration i ∧ e.seeded = true ∧ e.missing = false
      ∧ CurveValid (s.seatCurve i) ∧ age e.nextSample < 2147483648
    let expired := reached ∧ x.channel.state = .awaiting ∧ ∃ d, x.channel.deadline = some d ∧ age d < 2147483648
    let evaluates := fun (c : Instr) (step : State → Prop) => ∃ t, exec c s = .next t ∧ exec .seatEvaluation s = .next t
      ∧ seatsKept s t (· = i) ∧ (∀ k, t.pass = some k → i.val < k) ∧ step t
    (rolls → evaluates (.fadeWindowRollover i) fun t => (t.seat i).tracker = {
        dropoutStart := x.tracker.dropoutStart.map (heldReading s.clock), onsets := 0, prevOnsets := x.tracker.onsets,
        windowStart := s.clock })
    ∧ (¬ rolls → exec (.fadeWindowRollover i) s = .next s)
    ∧ (samples → evaluates (.historySample i) fun t =>
        let kept := e.history.dropWhile fun p => decide (1000000000 < age p.1)
        (t.seat i).estimator.history = (if 8 ≤ kept.length then kept.drop 1 else kept) ++ [(s.clock, e.charge)]
        ∧ (t.seat i).estimator.nextSample = s.clock + BitVec.ofNat 32 ((s.seatCurve i).period * 1000)
        ∧ EstimateOf (t.seat i).estimator.history (t.seat i).estimator ∧ StatusDerived (t.seat i).estimator (s.seatCurve i))
    ∧ (¬ samples → exec (.historySample i) s = .next s)
    ∧ (expired → evaluates (.confirmationDeadlineExpiry i) fun t =>
        (x.channel.attempt = .first →
          (t.seat i).channel = { x.channel with state := .sending, attempt := .second, deadline := none }
          ∧ PlacedLink True (s.link x.ctx.link) (t.link x.ctx.link) i ∧ linksKept s t (· = x.ctx.link))
        ∧ (x.channel.attempt = .second →
          (t.seat i).channel = { x.channel with state := .unconfirmed, deadline := none } ∧ t.links = s.links))
    ∧ (¬ expired → exec (.confirmationDeadlineExpiry i) s = .next s)

/-! The Warning Board -/

/-- A seat's oldest write is carried to its close stamp: the stamp advances by 1 when the write begins, the open stamp, the
body words and the close stamp are written, and the write is gone. A change write then offers the seat: a listed seat
becomes relist-due, an owed one stays owed, else it is appended while the list has room, with CHANGES when the list was
empty, and is owed when it has none. Without a write nothing happens (R156, R158, R160). The body words that a publication
takes, which the other statements name by `changeWrite`, carry the seat's values as R157 and R183 lay them out (R65, R84, R111).
The model's choices: log 2, log 3, log 22. -/
def Obligations.BoardWriteOffersSeat : Prop :=
  ∀ (s : State) (i : Seat),
    let b := (s.seat i).board
    EntrySpelled s i (changeWrite s i).body
    ∧ (∀ e, (s.part = .running ∨ s.part = .stopping) → s.boardWrites.find? (fun e => e.seat == i) = some e → e.written ≤ 11 →
      s.memoryLaw → s.changeListLaw → s.layoutSound → i.val < s.layout.seatCount →
      ∃ t, exec (.boardWrite i) s = .next t ∧
        let base := s.layout.board + 12 * i.val
        let stamp := if e.written = 0 then b.stamp + 1 else b.stamp
        let spot := s.layout.changeList + s.writePos
        let appended := e.change = true ∧ b.listed = false ∧ b.owed = false ∧ s.changeList.length < s.capacity
        let owed := e.change = true ∧ b.listed = false ∧ b.owed = false ∧ s.changeList.length = s.capacity
        (∀ k, e.written ≤ k → k ≤ 11 → t.readWord (base + k) = if k = 0 ∨ k = 11 then stamp else (e.body[k - 1]?).getD 0)
        ∧ t.boardWrites = s.boardWrites.erase e
        ∧ t.seat i = { s.seat i with board := { b with
            stamp := stamp, listed := b.listed || decide appended, owed := b.owed || decide owed,
            relistDue := b.relistDue || (e.change && b.listed) } }
        ∧ (appended → t.changeList = s.changeList ++ [i] ∧ t.readWord spot = seatWord i
            ∧ t.writePos = (s.writePos + 1) % s.capacity ∧ t.fillCount = s.fillCount + 1 ∧ t.readWord 38 = t.fillCount)
        ∧ (¬ appended → t.changeList = s.changeList ∧ t.writePos = s.writePos ∧ t.fillCount = s.fillCount)
        ∧ (owed → t.owedCount = s.owedCount + 1 ∧ t.readWord 37 = word t.owedCount)
        ∧ (¬ owed → t.owedCount = s.owedCount)
        ∧ (appended → s.changeList = [] → raised s t .changes)
        ∧ (¬ (appended ∧ s.changeList = []) → t.causes = s.causes)
        ∧ seatsKept s t (· = i)
        ∧ wordsKept s t (fun a => base + e.written ≤ a ∧ a ≤ base + 11 ∨ appended ∧ (a = spot ∨ a = 38) ∨ owed ∧ a = 37)
        ∧ t = { s with boardWrites := t.boardWrites, seats := t.seats, changeList := t.changeList, writePos := t.writePos,
                       fillCount := t.fillCount, owedCount := t.owedCount, causes := t.causes, ram := t.ram,
                       badParity := t.badParity })
    ∧ ((∀ e ∈ s.boardWrites, e.seat ≠ i) ∨ ¬ (s.part = .running ∨ s.part = .stopping) → exec (.boardWrite i) s = .next s)

/-! Order pages -/

/-- With the part RUNNING and no page worked or suspended, the head of the posting order is taken: summary and progress
words 0, state TAKEN, the count read. A count of 1 to 32 stands; another ends the page as SEQUENCE_FAULT, one with bad
parity as RAM_FAULT with PARITY recorded. Otherwise no page is taken (R145). The model's choices: log 3, log 24, log 27. -/
def Obligations.HeadPageIsTaken : Prop :=
  ∀ s : State,
    let free := s.part = .running ∧ s.worked = none ∧ s.suspended = none
    (∀ p rest, free → s.posting = p :: rest → s.memoryLaw → s.layout.pageBase p + 196 ≤ 16384 →
      ∃ t w, exec .takePage s = .next t ∧ PageTaken s t p w ∧ t.posting = rest)
    ∧ (¬ free ∨ s.posting = [] → exec .takePage s = .next s)

/-- The worked page ends when a fault has decided it, at a boundary that finds STOPPING or ABORTING, or after its last
slot: the slots not worked are SKIPPED, the progress, summary and state words written, the page's cause set, the lift
gone. From the state so left a suspended page resumes, its summary word 0 and its slice boundary checked again: STOPPING, then
ABORTING, ends its bulk order ABORTED with the counts so far, and else it stands as it was suspended; without one, in RUNNING
the next posted page is taken; in STOPPING the unit is quiet when no page is left. No other word changes (R145, R147 to R150,
R154). That a summary decided by a fault or by the end of a bulk order stands against STOPPING and an abort is the model's
choice (log 32). The model's choices: log 3, log 23, log 24, log 27, log 32. -/
def Obligations.PageEnds : Prop :=
  ∀ (s : State) (w : PageWork),
    let base := s.layout.pageBase w.page
    let boundary := w.ending = none ∧ w.bulk = none ∧ w.begun = false
    let aborted := s.pageState w.page = .aborting ∧ 1 ≤ w.slot
    let ends := fun x : Summary =>
      w.ending = some x
      ∨ boundary ∧ s.part = .stopping ∧ x = .stopped
      ∨ boundary ∧ s.part = .running ∧ aborted ∧ x = .aborted
      ∨ boundary ∧ s.part = .running ∧ ¬ aborted ∧ w.count ≤ w.slot ∧ x = if w.refusals then .refusals else .complete
    let closed := fun (x : Summary) (u : State) =>
      u.pageState w.page = .done ∧ u.pageState (otherPage w.page) = s.pageState (otherPage w.page)
      ∧ raised s u (pageDoneCause w.page)
      ∧ u.readWord base = 4 ∧ u.readWord (base + 2) = summaryWord x ∧ u.readWord (base + 3) = word w.slot
      ∧ (∀ i, w.slot ≤ i → i < w.count → u.readWord (base + 4 + 6 * i + 3) = resultWord .skipped
          ∧ u.readWord (base + 4 + 6 * i + 4) = 0 ∧ u.readWord (base + 4 + 6 * i + 5) = 0)
      ∧ wordsKept s u (fun a => a = base ∨ a = base + 2 ∨ a = base + 3
          ∨ ∃ i, w.slot ≤ i ∧ i < w.count ∧ base + 4 + 6 * i + 3 ≤ a ∧ a ≤ base + 4 + 6 * i + 5)
      ∧ u = { s with worked := none, lift := none, pageA := u.pageA, pageB := u.pageB, causes := u.causes, reads := [],
                     ram := u.ram, badParity := u.badParity }
    (∀ x, s.worked = some w → (s.part = .running ∨ s.part = .stopping) → ends x → s.memoryLaw → s.layoutSound → s.pageLaw →
      ∃ t u, exec .pageEnd s = .next t ∧ closed x u
        ∧ (s.suspended = none → (s.part = .stopping ∨ s.posting = []) →
            t = { u with orderQuiet := s.orderQuiet || decide (s.part = .stopping) })
        ∧ (∀ p rest, s.suspended = none → s.part = .running → s.posting = p :: rest → ∃ v, PageTaken u t p v)
        ∧ (∀ v b, s.suspended = some v → v.bulk = some b →
            let cut := s.part = .stopping ∨ s.pageState v.page = .aborting
            let summary := s.layout.pageBase v.page + 2
            let result := s.layout.pageBase v.page + 4 + 6 * v.slot + 3
            t.readWord summary = 0
            ∧ (¬ cut → wordsKept u t (· = summary)
                ∧ t = { u with worked := some v, suspended := none, ram := t.ram, badParity := t.badParity })
            ∧ (cut → t.readWord result = resultWord .aborted ∧ t.readWord (result + 1) = word b.handled
                ∧ t.readWord (result + 2) = (match b.kind with
                  | .loadRange => word (b.refused % 256 + 256 * (b.second % 256))
                  | .ackAll _ => word b.second)
                ∧ t.worked = some { v with slot := v.slot + 1, begun := false, refusals := true, bound := none, bulk := none,
                                           ending := some (if s.part = .stopping then .stopped else .aborted) }
                ∧ wordsKept u t (fun a => a = summary ∨ result ≤ a ∧ a ≤ result + 2)
                ∧ t = { u with worked := t.worked, suspended := none, ram := t.ram, badParity := t.badParity })))
    ∧ (s.worked = none ∨ s.worked = some w ∧ (∀ x, ¬ ends x) ∨ ¬ (s.part = .running ∨ s.part = .stopping) →
        exec .pageEnd s = .next s)

/-- A slot whose kind is none of the thirteen gets SEQUENCE_FAULT with the kind read, and its page is to end as
SEQUENCE_FAULT (R146, R178; log 13). The model's choices: log 13, log 24. -/
def Obligations.UnknownKindFaultsPage : Prop :=
  ∀ (s : State) (w : PageWork) (o : Slot), s.worked = some w → s.slotReady w = true → w.count ≤ 32 →
    (s.slotRead w 0).value = o.kind → (∀ k < 3, (s.slotRead w k).bad = false) → s.memoryLaw → s.layoutSound →
    o.kind ∉ [0x01#16, 0x02#16, 0x03#16, 0x10#16, 0x11#16, 0x12#16, 0x13#16, 0x20#16, 0x21#16, 0x22#16, 0x30#16, 0x40#16, 0x50#16] →
    ∃ t, exec .unknownOrderKind s = .next t
      ∧ t.readWord (s.layout.slotAddr w.page w.slot + 3) = resultWord .sequenceFault
      ∧ t.readWord (s.layout.slotAddr w.page w.slot + 4) = o.kind ∧ t.readWord (s.layout.slotAddr w.page w.slot + 5) = 0
      ∧ t.worked = some { w with
          slot := w.slot + 1, begun := false, refusals := true, bound := none, bulk := none, ending := some .sequenceFault }
      ∧ wordsKept s t (slotWords s w)
      ∧ t = { s with worked := t.worked, lift := none, reads := [], ram := t.ram, badParity := t.badParity }

/-- A slot that faults. If a read of its kind, seat or argument word meets bad parity, PARITY is recorded at that word, the
result is RAM_FAULT with the word's address, and the page is to end as RAM_FAULT; no order can be told from such a slot, so
any order command works it (log 4). If the slot before bound it to a seat and it is not a LOAD SEAT, REVOKE FLOOR or RESET
WARNINGS for that seat, the order of its kind is not worked: the result is SEQUENCE_FAULT with its kind and seat word, and
the page is to end as SEQUENCE_FAULT (R146, R152). The words after the first bad one are not read.
The model's choices: log 4, log 24, log 30. -/
def Obligations.FaultySlots : Prop :=
  ∀ (s : State) (w : PageWork) (c : Instr) (kind : Word), s.worked = some w → s.slotReady w = true → w.count ≤ 32 →
    s.memoryLaw → s.layoutSound →
    let orders := [(Instr.loadSeat, 0x01#16), (.loadRange, 0x02#16), (.reloadClasses, 0x03#16), (.grantFloor, 0x10#16),
      (.revokeFloor, 0x11#16), (.clearFloor, 0x12#16), (.setFloorRules, 0x13#16), (.acknowledge, 0x20#16),
      (.acknowledgeAll, 0x21#16), (.resetWarnings, 0x22#16), (.restartEstimator, 0x30#16), (.liftLock, 0x40#16),
      (.clearLinkCounts, 0x50#16)]
    let read := fun k => s.orderRead w k (s.layout.slotAddr w.page w.slot + k)
    let ends := fun (t : State) (code : ResultCode) (a b : Word) (x : Summary) =>
      (w.begun = false → t.readWord (s.layout.progressAddr w.page) = word w.slot)
      ∧ t.readWord (s.layout.slotAddr w.page w.slot + 3) = resultWord code
      ∧ t.readWord (s.layout.slotAddr w.page w.slot + 4) = a ∧ t.readWord (s.layout.slotAddr w.page w.slot + 5) = b
      ∧ t.worked = some { w with slot := w.slot + 1, begun := false, refusals := true, bound := none, bulk := none, ending := some x }
      ∧ wordsKept s t (slotWords s w)
      ∧ t = { s with worked := t.worked, lift := none, reads := [], ram := t.ram, badParity := t.badParity,
                     faultLatch := t.faultLatch, causes := t.causes }
    (c = .unknownOrderKind ∨ (c, kind) ∈ orders → ∀ k < 3, (∀ j < k, (read j).bad = false) → (read k).bad = true → ∃ t, exec c s = .next t
      ∧ ends t .ramFault (word (read k).addr) 0 .ramFault
      ∧ (w.begun = false ∨ s.reads.length ≤ k → (read k).addr = s.layout.slotAddr w.page w.slot + k
          ∧ FaultReported s t (s.layout.slotAddr w.page w.slot + k) .parity)
      ∧ (w.begun = true → k < s.reads.length → t.faultLatch = s.faultLatch ∧ t.causes = s.causes))
    ∧ ((c, kind) ∈ orders → (∀ k < 3, (read k).bad = false) → (read 0).value = kind → ∀ x, w.bound = some x →
        ¬ (kind = kindLoadSeat ∨ kind = kindRevokeFloor ∨ kind = kindResetWarnings) ∨ (read 1).value ≠ x → ∃ t, exec c s = .next t
      ∧ ends t .sequenceFault kind (read 1).value .sequenceFault ∧ t.faultLatch = s.faultLatch ∧ t.causes = s.causes)

/-- LIFT LOCK: in the last slot SEQUENCE_FAULT, which ends the page; then SEAT_RANGE, NOT_LOCKED, or OK with the lift
naming the seat. Detail A is the seat word, and every case but the first binds the next slot to it (R152).
The model's choices: log 4, log 24. -/
def Obligations.LiftLockBindsNextSlot : Prop :=
  ∀ (s : State) (w : PageWork) (o : Slot), s.OrderInHand w o → o.kind = kindLiftLock → s.memoryLaw → s.layoutSound →
    let ends := fun (code : ResultCode) (lift : Option Seat) (bound : Option Word) (ending : Option Summary) =>
      ∃ t, exec .liftLock s = .next t
        ∧ t.readWord (s.layout.slotAddr w.page w.slot + 3) = resultWord code
        ∧ t.readWord (s.layout.slotAddr w.page w.slot + 4) = o.seat ∧ t.readWord (s.layout.slotAddr w.page w.slot + 5) = 0
        ∧ t.lift = lift
        ∧ t.worked = some { w with slot := w.slot + 1, begun := false, refusals := w.refusals || !code.success, bound := bound,
                                   bulk := none, ending := ending }
        ∧ wordsKept s t (slotWords s w)
        ∧ t = { s with worked := t.worked, lift := t.lift, reads := [], ram := t.ram, badParity := t.badParity }
    (w.slot + 1 = w.count → ends .sequenceFault none none (some .sequenceFault))
    ∧ (w.slot + 1 < w.count →
        (s.layout.seatCount ≤ o.seat.toNat ∨ 512 ≤ o.seat.toNat → ends .seatRange none (some o.seat) none)
        ∧ ∀ i : Seat, i.val < s.layout.seatCount → o.seat = seatWord i →
          ((s.seat i).ctx.locked = false → ends .notLocked none (some o.seat) none)
          ∧ ((s.seat i).ctx.locked = true → ends .ok (some i) (some o.seat) none))

/-! Orders on the floor -/

/-- GRANT FLOOR, by the first case that holds (R121, R122, R123, R129). A grant puts the seat at the tail, opens and issues
its intent; a displacement first takes the oldest member whose priority and locked flags are clear, and mutes it.
The model's choices: log 4, log 21, log 27. -/
def Obligations.GrantFloor : Prop :=
  ∀ (s : State) (w : PageWork) (o : Slot), s.OrderInHand w o → o.kind = kindGrantFloor → s.memoryLaw → s.layoutSound →
    (s.part = .running ∨ s.part = .stopping) →
    let answers := fun (code : ResultCode) (b : Word) => ∃ t, exec .grantFloor s = .next t ∧ answeredOnly s t w code o.seat b
    (s.layout.seatCount ≤ o.seat.toNat ∨ 512 ≤ o.seat.toNat → answers .seatRange 0)
    ∧ ∀ i : Seat, i.val < s.layout.seatCount → o.seat = seatWord i →
      ((s.seat i).ctx.active = false → answers .seatInactive 0)
      ∧ ((s.seat i).ctx.active = true → i ∈ s.roster → answers .already (word (s.roster.idxOf i + 1)))
      ∧ ((s.seat i).ctx.active = true → i ∉ s.roster → s.roster.length < s.floorLimit →
          ∃ t, exec .grantFloor s = .next t ∧ OrderDone s t w .ok o.seat (word (s.roster.length + 1))
            ∧ t.roster = s.roster ++ [i] ∧ FloorShown t ∧ Issued s t i .opened
            ∧ t.seat i = { s.seat i with channel := (t.seat i).channel, board := changedNow (s.seat i).board s.clock }
            ∧ t.boardWrites = s.boardWrites ++ [orderWrite t i]
            ∧ seatsKept s t (· = i) ∧ linksKept s t (· = (s.seat i).ctx.link)
            ∧ wordsKept s t (fun a => slotWords s w a ∨ floorWords a)
            ∧ t = { s with roster := t.roster, seats := t.seats, links := t.links, boardWrites := t.boardWrites,
                           worked := t.worked, lift := none, reads := [], ram := t.ram, badParity := t.badParity })
      ∧ ((s.seat i).ctx.active = true → i ∉ s.roster → s.floorLimit ≤ s.roster.length → s.floorPolicy = .refuse →
          answers .floorFull (word s.floorLimit))
      ∧ ((s.seat i).ctx.active = true → i ∉ s.roster → s.floorLimit ≤ s.roster.length → s.floorPolicy = .displace →
          (∀ j ∈ s.roster, (s.seat j).ctx.priority = true ∨ (s.seat j).ctx.locked = true) → answers .floorFull (word s.floorLimit))
      ∧ (∀ (before after : List Seat) (j : Seat), (s.seat i).ctx.active = true → i ∉ s.roster →
          s.floorLimit ≤ s.roster.length → s.floorPolicy = .displace → s.roster = before ++ j :: after → j ∉ before →
          (∀ k ∈ before, (s.seat k).ctx.priority = true ∨ (s.seat k).ctx.locked = true) →
          (s.seat j).ctx.priority = false → (s.seat j).ctx.locked = false →
          (s.seat j).channel.intent = .opened → j ∉ after → j.val < s.layout.seatCount →
          ∃ t u, exec .grantFloor s = .next t ∧ OrderDone s t w .displaced o.seat (seatWord j)
            ∧ t.roster = before ++ after ++ [i] ∧ FloorShown t
            ∧ Issued s u j .muted ∧ linksKept s u (· = (s.seat j).ctx.link) ∧ u.part = s.part
            ∧ u.seat i = s.seat i ∧ Issued u t i .opened ∧ linksKept u t (· = (s.seat i).ctx.link)
            ∧ t.seat j = { s.seat j with channel := (u.seat j).channel, board := changedNow (s.seat j).board s.clock }
            ∧ t.seat i = { s.seat i with channel := (t.seat i).channel, board := changedNow (s.seat i).board s.clock }
            ∧ t.boardWrites = s.boardWrites ++ [orderWrite t j, orderWrite t i]
            ∧ seatsKept s t (fun k => k = i ∨ k = j) ∧ wordsKept s t (fun a => slotWords s w a ∨ floorWords a)
            ∧ t = { s with roster := t.roster, seats := t.seats, links := t.links, boardWrites := t.boardWrites,
                           worked := t.worked, lift := none, reads := [], ram := t.ram, badParity := t.badParity })

/-- REVOKE FLOOR, by the first case that holds (R121, R124, R129). The model's choices: log 4, log 27. -/
def Obligations.RevokeFloor : Prop :=
  ∀ (s : State) (w : PageWork) (o : Slot), s.OrderInHand w o → o.kind = kindRevokeFloor → s.memoryLaw → s.layoutSound →
    s.rosterLaw → (s.part = .running ∨ s.part = .stopping) →
    let answers := fun (code : ResultCode) => ∃ t, exec .revokeFloor s = .next t ∧ answeredOnly s t w code o.seat 0
    (s.layout.seatCount ≤ o.seat.toNat ∨ 512 ≤ o.seat.toNat → answers .seatRange)
    ∧ ∀ i : Seat, i.val < s.layout.seatCount → o.seat = seatWord i →
      (i ∉ s.roster → answers .notOnFloor)
      ∧ (i ∈ s.roster → (s.seat i).ctx.locked = true → s.lift ≠ some i → answers .locked)
      ∧ (i ∈ s.roster → (s.seat i).ctx.locked = false ∨ s.lift = some i →
          ∃ t, exec .revokeFloor s = .next t ∧ OrderDone s t w .ok o.seat (word (s.roster.length - 1))
            ∧ t.roster = s.roster.erase i ∧ FloorShown t ∧ Issued s t i .muted
            ∧ t.seat i = { s.seat i with channel := (t.seat i).channel, board := changedNow (s.seat i).board s.clock }
            ∧ t.boardWrites = s.boardWrites ++ [orderWrite t i]
            ∧ seatsKept s t (· = i) ∧ linksKept s t (· = (s.seat i).ctx.link)
            ∧ wordsKept s t (fun a => slotWords s w a ∨ floorWords a)
            ∧ t = { s with roster := t.roster, seats := t.seats, links := t.links, boardWrites := t.boardWrites,
                           worked := t.worked, lift := none, reads := [], ram := t.ram, badParity := t.badParity })

/-- CLEAR FLOOR removes every member that is not locked, oldest first, each issued MUTED and published once; the locked
keep their order; result OK with the counts removed and skipped (R121, R125, R129).
The model's choices: log 4, log 21, log 27. -/
def Obligations.ClearFloor : Prop :=
  ∀ (s : State) (w : PageWork) (o : Slot), s.OrderInHand w o → o.kind = kindClearFloor → s.memoryLaw → s.layoutSound →
    s.rosterLaw → (s.part = .running ∨ s.part = .stopping) →
    let out := s.roster.filter fun j => (s.seat j).ctx.locked = false
    ∃ t, exec .clearFloor s = .next t ∧ OrderDone s t w .ok (word out.length) (word (s.roster.length - out.length))
      ∧ t.roster = s.roster.filter (fun j => (s.seat j).ctx.locked = true)
      ∧ (out ≠ [] → FloorShown t)
      ∧ (∀ i ∈ out, (t.seat i).channel = { intent := .muted, state := .sending, attempt := .first, deadline := none }
          ∧ t.seat i = { s.seat i with
              channel := (t.seat i).channel
              board := if i.val < s.layout.seatCount then changedNow (s.seat i).board s.clock else (s.seat i).board })
      ∧ IssuedInOrder (s.part = .running) (fun i => (s.seat i).ctx.link) out s.link t.link
      ∧ t.boardWrites = s.boardWrites ++ orderWrites t out
      ∧ seatsKept s t (· ∈ out) ∧ linksKept s t (fun l => ∃ i ∈ out, (s.seat i).ctx.link = l)
      ∧ wordsKept s t (fun a => slotWords s w a ∨ floorWords a ∧ out ≠ [])
      ∧ t = { s with roster := t.roster, seats := t.seats, links := t.links, boardWrites := t.boardWrites,
                     worked := t.worked, lift := none, reads := [], ram := t.ram, badParity := t.badParity }

/-- SET FLOOR RULES clamps the limit to 1 to 8 and takes a policy of 0 as REFUSE and any other as DISPLACE. A roster longer
than the limit refuses it FLOOR_BUSY; else limit and policy are replaced and shown in the header (R120, R126).
The model's choices: log 4, log 26. -/
def Obligations.SetFloorRules : Prop :=
  ∀ (s : State) (w : PageWork) (o : Slot), s.OrderInHand w o → o.kind = kindSetFloorRules → s.memoryLaw → s.layoutSound →
    let limit := if o.arg.toNat % 256 = 0 then 1 else if 8 < o.arg.toNat % 256 then 8 else o.arg.toNat % 256
    let policy := o.arg.toNat / 256
    (limit < s.roster.length →
      ∃ t, exec .setFloorRules s = .next t ∧ answeredOnly s t w .floorBusy (word s.roster.length) (word limit))
    ∧ (s.roster.length ≤ limit →
      ∃ t, exec .setFloorRules s = .next t ∧ OrderDone s t w .ok (word limit) (if policy = 0 then 0 else 1)
        ∧ t.floorLimit = limit ∧ (policy = 0 → t.floorPolicy = .refuse) ∧ (policy ≠ 0 → t.floorPolicy = .displace)
        ∧ FloorShown t ∧ wordsKept s t (fun a => slotWords s w a ∨ floorWords a)
        ∧ t = { s with floorLimit := t.floorLimit, floorPolicy := t.floorPolicy, worked := t.worked, lift := none,
                       reads := [], ram := t.ram, badParity := t.badParity })

/-! Orders on monitors, estimators and counts -/

/-- ACKNOWLEDGE and RESET WARNINGS: refused SEAT_RANGE, then SEAT_INACTIVE, and RESET WARNINGS then LOCKED for a seat that
is locked and not lifted. ACKNOWLEDGE acts on each masked monitor as R77 gives, and detail B is the mask of those it
changed; RESET WARNINGS puts all eight into the fixed CLEAR state, and detail B is the mask of those that were not in it.
The seat is published if its picture changed (R76, R77, R79). The model's choices: log 4, log 27. -/
def Obligations.WarningsAcknowledgedAndReset : Prop :=
  ∀ (s : State) (w : PageWork) (o : Slot), s.OrderInHand w o → s.memoryLaw → s.layoutSound →
    (s.part = .running ∨ s.part = .stopping) →
    let done := fun (t : State) (i : Seat) => publishedIfChanged s t i (orderWrite t i)
      ∧ t.seat i = { s.seat i with monitors := (t.seat i).monitors, board := (t.seat i).board } ∧ seatsKept s t (· = i)
      ∧ wordsKept s t (slotWords s w)
      ∧ t = { s with seats := t.seats, boardWrites := t.boardWrites, worked := t.worked, lift := none, reads := [],
                     ram := t.ram, badParity := t.badParity }
    (o.kind = kindAcknowledge →
      (s.layout.seatCount ≤ o.seat.toNat ∨ 512 ≤ o.seat.toNat →
        ∃ t, exec .acknowledge s = .next t ∧ answeredOnly s t w .seatRange o.seat 0)
      ∧ ∀ i : Seat, i.val < s.layout.seatCount → o.seat = seatWord i →
        ((s.seat i).ctx.active = false → ∃ t, exec .acknowledge s = .next t ∧ answeredOnly s t w .seatInactive o.seat 0)
        ∧ ((s.seat i).ctx.active = true → ∃ t b, exec .acknowledge s = .next t ∧ OrderDone s t w .ok o.seat b
            ∧ b.toNat < 256
            ∧ (∀ c : Fin 8, o.arg.getLsbD c.val = true → Acknowledged (s.seat i).monitors[c] (t.seat i).monitors[c])
            ∧ (∀ c : Fin 8, o.arg.getLsbD c.val = false → (t.seat i).monitors[c] = (s.seat i).monitors[c])
            ∧ (∀ c : Fin 8, b.getLsbD c.val = true ↔ acked (s.seat i).monitors[c] (t.seat i).monitors[c])
            ∧ done t i))
    ∧ (o.kind = kindResetWarnings →
      (s.layout.seatCount ≤ o.seat.toNat ∨ 512 ≤ o.seat.toNat →
        ∃ t, exec .resetWarnings s = .next t ∧ answeredOnly s t w .seatRange o.seat 0)
      ∧ ∀ i : Seat, i.val < s.layout.seatCount → o.seat = seatWord i →
        ((s.seat i).ctx.active = false → ∃ t, exec .resetWarnings s = .next t ∧ answeredOnly s t w .seatInactive o.seat 0)
        ∧ ((s.seat i).ctx.active = true → (s.seat i).ctx.locked = true → s.lift ≠ some i →
            ∃ t, exec .resetWarnings s = .next t ∧ answeredOnly s t w .locked o.seat 0)
        ∧ ((s.seat i).ctx.active = true → (s.seat i).ctx.locked = false ∨ s.lift = some i →
            ∃ t b, exec .resetWarnings s = .next t ∧ OrderDone s t w .ok o.seat b
            ∧ b.toNat < 256 ∧ (∀ c : Fin 8, (t.seat i).monitors[c] = clearMonitor)
            ∧ (∀ c : Fin 8, b.getLsbD c.val = true ↔ (s.seat i).monitors[c] ≠ clearMonitor)
            ∧ done t i))

/-- RESTART ESTIMATOR: refused SEAT_RANGE, then SEAT_INACTIVE; else the whole estimator is restarted with the current
generation of its curve seen, both battery monitors are cleared, and detail B is the status it had (R104, R105, R107).
The model's choices: log 4, log 27. -/
def Obligations.RestartEstimator : Prop :=
  ∀ (s : State) (w : PageWork) (o : Slot), s.OrderInHand w o → o.kind = kindRestartEstimator → s.memoryLaw → s.layoutSound →
    (s.part = .running ∨ s.part = .stopping) →
    (s.layout.seatCount ≤ o.seat.toNat ∨ 512 ≤ o.seat.toNat →
      ∃ t, exec .restartEstimator s = .next t ∧ answeredOnly s t w .seatRange o.seat 0)
    ∧ ∀ i : Seat, i.val < s.layout.seatCount → o.seat = seatWord i →
      ((s.seat i).ctx.active = false → ∃ t, exec .restartEstimator s = .next t ∧ answeredOnly s t w .seatInactive o.seat 0)
      ∧ ((s.seat i).ctx.active = true → ∃ t, exec .restartEstimator s = .next t
          ∧ OrderDone s t w .ok o.seat (word (statusNumber (s.seat i).estimator.status))
          ∧ (t.seat i).estimator = {
              seeded := false, f := 0, v := 0, charge := 0, missing := false, history := [], nextSample := 0,
              result := .warming, minutes := 0, status := .noData, genSeen := s.seatGeneration i }
          ∧ (∀ c : Fin 8, (t.seat i).monitors[c] = if c = condLow ∨ c = condCritical then clearMonitor else (s.seat i).monitors[c])
          ∧ publishedIfChanged s t i (orderWrite t i)
          ∧ t.seat i = { s.seat i with
              estimator := (t.seat i).estimator, monitors := (t.seat i).monitors, board := (t.seat i).board }
          ∧ seatsKept s t (· = i) ∧ wordsKept s t (slotWords s w)
          ∧ t = { s with seats := t.seats, boardWrites := t.boardWrites, worked := t.worked, lift := none, reads := [],
                         ram := t.ram, badParity := t.badParity })

/-- CLEAR LINK COUNTS: the eleven counters and ERRORS-SEEN of every link named in the low eight bits of the argument are
cleared and their eleven header words and the link summary word written; the rest of a link stays. Result OK with the
mask, whatever the links' states; a mask of 0 clears nothing (R32). -/
def Obligations.ClearLinkCounts : Prop :=
  ∀ (s : State) (w : PageWork) (o : Slot), s.OrderInHand w o → o.kind = kindClearLinkCounts → s.memoryLaw → s.layoutSound →
    let named := fun l : LinkId => o.arg.getLsbD l.val = true
    ∃ t, exec .clearLinkCounts s = .next t ∧ OrderDone s t w .ok (word (o.arg.toNat % 256)) 0
      ∧ (∀ l, named l → t.link l = { s.link l with counters := Vector.replicate 11 0, errorsSeen := false })
      ∧ linksKept s t named
      ∧ (∀ l, named l → ∀ k, k < 11 → t.readWord (64 + 11 * l.val + k) = 0)
      ∧ ((∃ l, named l) → SummaryShown t)
      ∧ wordsKept s t (fun a => slotWords s w a ∨ (∃ l, named l) ∧ a = 36
          ∨ ∃ l : LinkId, named l ∧ 64 + 11 * l.val ≤ a ∧ a < 64 + 11 * l.val + 11)
      ∧ t = { s with links := t.links, worked := t.worked, lift := none, reads := [], ram := t.ram, badParity := t.badParity }

/-! Loading -/

/-- LOAD SEAT validates in R7's order and a failing check changes nothing but the slot: SEAT_RANGE, RANGE_BUSY for a seat
that a suspended LOAD RANGE has yet to load, RAM_FAULT for a record read with bad parity (which records PARITY at its read), LOCKED
for a locked seat that is not lifted, BAD_RECORD, CARRIER_TAKEN with the seat that holds the carrier.
The model's choices: log 2, log 4. -/
def Obligations.LoadSeatRefusals : Prop :=
  ∀ (s : State) (w : PageWork) (o : Slot), s.OrderInHand w o → o.kind = kindLoadSeat → s.memoryLaw → s.layoutSound →
    (w.begun = true → s.reads.length ≤ 6) →
    let answers := fun (code : ResultCode) (b : Word) => ∃ t, exec .loadSeat s = .next t ∧ answeredOnly s t w code o.seat b
    (s.layout.seatCount ≤ o.seat.toNat ∨ 512 ≤ o.seat.toNat → answers .seatRange 0)
    ∧ ∀ i : Seat, i.val < s.layout.seatCount → o.seat = seatWord i →
      let read := fun k => s.orderRead w (3 + k) (s.layout.recordAddr i + k)
      let busy := ∃ v b, s.suspended = some v ∧ v.bulk = some b ∧ b.kind = .loadRange ∧ b.cursor ≤ i.val ∧ i.val < b.stop
      (busy → answers .rangeBusy 0)
      ∧ (¬ busy → ∀ k < 3, (∀ j < k, (read j).bad = false) → (read k).bad = true →
          ∃ t, exec .loadSeat s = .next t ∧ OrderDone s t w .ramFault o.seat 0
            ∧ (w.begun = false ∨ s.reads.length ≤ 3 + k → FaultReported s t (s.layout.recordAddr i + k) .parity)
            ∧ (w.begun = true → 3 + k < s.reads.length → t.faultLatch = s.faultLatch ∧ t.causes = s.causes)
            ∧ wordsKept s t (slotWords s w)
            ∧ t = { s with ram := t.ram, badParity := t.badParity, worked := t.worked, lift := none, reads := [],
                           faultLatch := t.faultLatch, causes := t.causes })
      ∧ (¬ busy → (∀ k < 3, (read k).bad = false) → (s.seat i).ctx.locked = true → s.lift ≠ some i → answers .locked 0)
      ∧ ∀ r, Spells (read 0).value (read 1).value (read 2).value r →
          ¬ busy → (∀ k < 3, (read k).bad = false) → (s.seat i).ctx.locked = false ∨ s.lift = some i → r.active = true →
          ((s.link r.link).enabled = false ∨ r.txId = 0 ∨ r.txId = 0xFFFF#16 → answers .badRecord 0)
          ∧ ∀ j, j ≠ i → (s.link r.link).enabled = true → r.txId ≠ 0 → r.txId ≠ 0xFFFF#16 →
              s.carrier r.link r.channel = some j → answers .carrierTaken (seatWord j)

/-- A LOAD SEAT that passes its checks re-initialises the seat and copies the record. An active seat takes its carrier and
has MUTED issued; an inactive one has its mute channel settled and waits for no link. The seat leaves the roster and its old
carrier, the lists of its old link, where a deferred seat fills the room, and the frame in flight there, and is published
(R9 to R12, R37, R40, R104, R121, R129). The model's choices: log 2, log 4, log 27. -/
def Obligations.LoadSeatLoads : Prop :=
  ∀ (s : State) (w : PageWork) (o : Slot) (i : Seat) (r : SeatRecord), s.OrderInHand w o → o.kind = kindLoadSeat →
    s.memoryLaw → s.layoutSound → (s.part = .running ∨ s.part = .stopping) →
    (w.begun = true → s.reads.length ≤ 6) → i.val < s.layout.seatCount → o.seat = seatWord i → s.rangeBusy i = false →
    let read := fun k => s.orderRead w (3 + k) (s.layout.recordAddr i + k)
    Spells (read 0).value (read 1).value (read 2).value r → (∀ k < 3, (read k).bad = false) →
    (s.seat i).ctx.locked = false ∨ s.lift = some i →
    (r.active = true → (s.link r.link).enabled = true ∧ r.txId ≠ 0 ∧ r.txId ≠ 0xFFFF#16
      ∧ (s.carrier r.link r.channel = none ∨ s.carrier r.link r.channel = some i)) →
    ∃ t, exec .loadSeat s = .next t ∧ OrderDone s t w .ok o.seat 0 ∧ SeatLoaded s t i r
      ∧ (s.downlinkLaw → (r.active = true → s.part = .running → i ∈ (t.link r.link).queue ∨ i ∈ (t.link r.link).deferred)
          ∧ (∀ l, ¬ (r.active = true ∧ l = r.link) → i ∉ (t.link l).queue ∧ i ∉ (t.link l).deferred)
          ∧ (∀ l f, (t.link l).tx = .sending f → f.seat = i → f.cancelled = true))
      ∧ wordsKept s t (fun a => slotWords s w a ∨ floorWords a ∧ i ∈ s.roster)
      ∧ t = { s with seats := t.seats, carriers := t.carriers, roster := t.roster, links := t.links, boardWrites := t.boardWrites,
                     worked := t.worked, lift := none, reads := [], ram := t.ram, badParity := t.badParity }

/-- LOAD RANGE and ACKNOWLEDGE ALL: refused NESTED_BULK while a page is suspended; a LOAD RANGE then SEAT_RANGE for a count
of 0 or above 255 or a range past the seat count. An accepted bulk order stands in its slot before its first slice, the
cursor at its first seat number and the suspended mark clear (R16, R78, R149, R151). The model's choices: log 4. -/
def Obligations.BulkOrdersStart : Prop :=
  ∀ (s : State) (w : PageWork) (o : Slot) (c : Instr), s.OrderInHand w o → s.memoryLaw → s.layoutSound →
    c = .loadRange ∧ o.kind = kindLoadRange ∨ c = .acknowledgeAll ∧ o.kind = kindAcknowledgeAll →
    let operandsFit := c = .loadRange → 1 ≤ o.arg.toNat ∧ o.arg.toNat ≤ 255 ∧ o.seat.toNat + o.arg.toNat ≤ s.layout.seatCount
    (s.suspended.isSome → ∃ t, exec c s = .next t ∧ answeredOnly s t w .nestedBulk 0 0)
    ∧ (s.suspended = none → ¬ operandsFit → ∃ t, exec c s = .next t ∧ answeredOnly s t w .seatRange 0 0)
    ∧ (s.suspended = none → operandsFit → ∃ t b, exec c s = .next t
        ∧ t.worked = some { w with begun := true, bulk := some b, bound := none }
        ∧ b.suspendedMark = false ∧ b.atBoundary = false
        ∧ b.sliceEnd = (if b.cursor + 16 ≤ b.stop then b.cursor + 16 else b.stop) ∧ b.handled = 0 ∧ b.second = 0 ∧ b.refused = 0 ∧ b.firstBad = none
        ∧ (c = .loadRange → b.kind = .loadRange ∧ b.cursor = o.seat.toNat ∧ b.stop = o.seat.toNat + o.arg.toNat)
        ∧ (c = .acknowledgeAll → b.kind = .ackAll (o.arg.extractLsb' 0 8) ∧ b.cursor = 0 ∧ b.stop = s.layout.seatCount)
        ∧ (w.begun = false → t.readWord (s.layout.progressAddr w.page) = word w.slot)
        ∧ wordsKept s t (· = s.layout.progressAddr w.page)
        ∧ t = { s with worked := t.worked, reads := [], ram := t.ram, badParity := t.badParity })

/-- A bulk order goes on. At a slice boundary STOPPING, then ABORTING, ends it ABORTED with its counts; then a POSTED other
page suspends it once, and that page is taken. Otherwise a slice of the next 16 seat numbers, or those that remain, begins. A
slice is carried to its end from the cursor on, seat by seat in ascending order: a LOAD RANGE skips its locked seats and
refuses or loads the others from the three words of their records, the words already read as they were read and the others as
they stand at the seat's own share; an ACKNOWLEDGE ALL acknowledges the active seats. After the last seat number the result is
written (R6, R17, R77, R78, R145, R148 to R150, R154). The model's choices: log 2, log 21, log 24, log 27. -/
def Obligations.BulkSliceHandlesSeats : Prop :=
  ∀ (s : State) (w : PageWork) (b : Bulk), s.worked = some w → w.bulk = some b → s.pageLaw → s.memoryLaw → s.layoutLaw →
    s.reads.length ≤ 3 → (s.part = .running ∨ s.part = .stopping) →
    let details := fun (c : Bulk) => match c.kind with
      | .loadRange => (word c.handled, word (c.refused % 256 + 256 * (c.second % 256)))
      | .ackAll _ => (word c.handled, word c.second)
    let aborting := s.pageState w.page = .aborting
    let cut := b.atBoundary = true ∧ (s.part = .stopping ∨ aborting)
    let yields := b.atBoundary = true ∧ ¬ cut ∧ s.pageState (otherPage w.page) = .posted ∧ s.suspended = none ∧ b.suspendedMark = false
    let last := if b.atBoundary = false then b.sliceEnd else if b.cursor + 16 ≤ b.stop then b.cursor + 16 else b.stop
    let begun := if b.atBoundary then { s with reads := [] } else s
    let inHand := { b with atBoundary := false, sliceEnd := last }
    (cut → ∃ t, exec .bulkSlice s = .next t
      ∧ t.readWord (s.layout.slotAddr w.page w.slot + 3) = resultWord .aborted
      ∧ t.readWord (s.layout.slotAddr w.page w.slot + 4) = (details b).1
      ∧ t.readWord (s.layout.slotAddr w.page w.slot + 5) = (details b).2
      ∧ t.worked = some { w with slot := w.slot + 1, begun := false, refusals := true, bound := none, bulk := none,
                                 ending := some (if s.part = .stopping then .stopped else .aborted) }
      ∧ wordsKept s t (slotWords s w)
      ∧ t = { s with worked := t.worked, reads := [], lift := none, ram := t.ram, badParity := t.badParity })
    ∧ (yields → ∃ t u v, exec .bulkSlice s = .next t
      ∧ u.readWord (s.layout.pageBase w.page + 2) = 0x8000#16 ∧ wordsKept s u (· = s.layout.pageBase w.page + 2)
      ∧ u = { s with suspended := some { w with bulk := some { b with suspendedMark := true } }, worked := none,
                     ram := u.ram, badParity := u.badParity }
      ∧ PageTaken u t (otherPage w.page) v)
    ∧ (¬ cut → ¬ yields → ∃ t u c, exec .bulkSlice s = .next t
      ∧ BulkShares (seatsFrom b.cursor last) (begun, inHand) (u, c)
      ∧ (last < b.stop → t = { u with worked := some { w with bulk := some { c with cursor := last, atBoundary := true } } })
      ∧ (b.stop ≤ last →
          OrderDone u t { w with begun := true } (c.firstBad.getD .ok) (details c).1 (details c).2
          ∧ wordsKept u t (slotWords u w)
          ∧ t = { u with worked := t.worked, lift := none, reads := [], ram := t.ram, badParity := t.badParity }))

/-- RELOAD CLASSES reads both tables whole and replaces the stores in one event, each class and curve brought into its
ranges and each changed curve's generation advanced; details name the changed classes and curves, the classes with a field
clamped and the faulty curves, those whose breakpoints do not ascend, whose charges descend or which pass a range. A table word with
bad parity refuses it RAM_FAULT with its address, records PARITY at its read and keeps the stores (R71, R73 to R75, R96, R97). The model's choices: log 2, log 4. -/
def Obligations.ReloadReplacesStores : Prop :=
  ∀ (s : State) (w : PageWork) (o : Slot), s.OrderInHand w o → o.kind = kindReloadClasses → s.memoryLaw → s.layoutSound →
    (w.begun = true → s.reads.length ≤ 139) →
    let read := fun k => s.orderRead w (3 + k) (s.layout.tableAddr k)
    ((∀ k < 136, (read k).bad = false) → ∃ t a b, exec .reloadClasses s = .next t ∧ OrderDone s t w .ok a b
      ∧ StoresReplaced s t (fun k => (read k).value)
      ∧ a.toNat < 4096 ∧ b.toNat < 4096 ∧ (∀ k, 4 ≤ k → k < 8 → a.getLsbD k = false ∧ b.getLsbD k = false)
      ∧ (∀ c : Fin 4, ∀ new, t.classes = some new →
          (a.getLsbD c.val = true ↔ ∀ old, s.classes = some old → old[c] ≠ new[c])
          ∧ (a.getLsbD (8 + c.val) = true ↔
              ¬ ClassUnclamped (fun k => (read (16 * c.val + k)).value) new[c]))
      ∧ (∀ c : Fin 4, ∀ new, t.curves = some new →
          (b.getLsbD c.val = true ↔ t.generations[c] ≠ s.generations[c]) ∧ (b.getLsbD (8 + c.val) = true ↔ ¬ CurveValid new[c]))
      ∧ wordsKept s t (slotWords s w)
      ∧ t = { s with classes := t.classes, curves := t.curves, generations := t.generations, worked := t.worked, lift := none,
                     reads := [], ram := t.ram, badParity := t.badParity })
    ∧ (∀ k < 136, (∀ j < k, (read j).bad = false) → (read k).bad = true →
      ∃ t, exec .reloadClasses s = .next t ∧ OrderDone s t w .ramFault (word (read k).addr) 0
        ∧ (w.begun = false ∨ s.reads.length ≤ 3 + k → (read k).addr = s.layout.tableAddr k
            ∧ FaultReported s t (s.layout.tableAddr k) .parity)
        ∧ (w.begun = true → 3 + k < s.reads.length → t.faultLatch = s.faultLatch ∧ t.causes = s.causes)
        ∧ wordsKept s t (slotWords s w)
        ∧ t = { s with worked := t.worked, lift := none, reads := [], ram := t.ram, badParity := t.badParity,
                       faultLatch := t.faultLatch, causes := t.causes })

/-! Starting -/

/-- CHECKING ends in HALTED with the code of the first of checks 1 to 8 that fails and STARTED set; the link setup, scan
period and refresh interval of a directory read without parity fault are taken all the same. Each word is judged as it was
read: the words that the reading has at this event as they stood then, the others as they stand. A word with bad parity, of
the directory, a page's state word or a table, gives RAM_FAULT, and records PARITY at its read; one of the directory hands
nothing over (R173, R174; log 9). The model's choices: log 2, log 9. -/
def Obligations.FailedStarts : Prop :=
  ∀ s : State, s.part = .checking →
    let fails := fun (code : StartResult) => ∃ t, exec .checkingEnd s = .next t ∧ t.part = .halted ∧ t.startResult = code
      ∧ raised s t .started ∧ SetupTaken s t
      ∧ (∀ l, t.link l = { s.link l with enabled := (t.link l).enabled, divisor := (t.link l).divisor, timeout := (t.link l).timeout })
      ∧ t = { s with part := .halted, startResult := code, causes := t.causes, links := t.links,
                     scanPeriod := t.scanPeriod, refreshInterval := t.refreshInterval, reads := [] }
    let recorded := fun (k a : Nat) (t : State) =>
      (s.reads.length ≤ k → s.faultLatch = none →
        t.faultLatch = some { addr := a, kind := .parity, multiple := false } ∧ t.causeSet .fault = true)
      ∧ (s.reads.length ≤ k → ∀ f, s.faultLatch = some f →
        t.faultLatch = some { f with multiple := true } ∧ t.causeSet .fault = s.causeSet .fault)
      ∧ (k < s.reads.length → t.faultLatch = s.faultLatch ∧ t.causeSet .fault = s.causeSet .fault)
      ∧ t.causeSet .started = true ∧ ∀ c, c ≠ .started → c ≠ .fault → t.causeSet c = s.causeSet c
    let faults := fun (k a : Nat) => ∃ t, exec .checkingEnd s = .next t ∧ t.part = .halted ∧ t.startResult = .ramFault
      ∧ recorded k a t ∧ SetupTaken s t
      ∧ (∀ l, t.link l = { s.link l with enabled := (t.link l).enabled, divisor := (t.link l).divisor, timeout := (t.link l).timeout })
      ∧ t = { s with part := .halted, startResult := .ramFault, causes := t.causes, faultLatch := t.faultLatch,
                     links := t.links, scanPeriod := t.scanPeriod, refreshInterval := t.refreshInterval, reads := [] }
    let good := fun p : Page => (s.pageRead p).bad = false
    let starts := fun p : Page => startable (s.pageRead p).value
    ((∀ a ∈ directoryAddrs, (s.dirRead a).bad = false) →
      (¬ s.countFits → fails .seatCount)
      ∧ (s.countFits → ¬ s.capacityFits → fails .listCapacity)
      ∧ (s.countFits → s.capacityFits → ¬ s.regionsFit → fails .directoryRange)
      ∧ (s.countFits → s.capacityFits → s.regionsFit → ¬ s.regionsApart → fails .regionOverlap)
      ∧ (s.countFits → s.capacityFits → s.regionsFit → s.regionsApart → ¬ s.someLink → fails .noLink)
      ∧ (s.directoryFits → (∀ r ∈ s.reads, r.bad = false) → good .a → ¬ starts .a ∨ good .b ∧ ¬ starts .b → fails .pageState)
      ∧ (s.directoryFits → ¬ good .a → faults 27 (s.dirPageWord .a))
      ∧ (s.directoryFits → good .a → starts .a → ¬ good .b → faults 28 (s.dirPageWord .b))
      ∧ (s.directoryFits → good .a → good .b → starts .a → starts .b →
          ∀ k < 136, (∀ j < k, (s.tableRead j).bad = false) → (s.tableRead k).bad = true → faults (29 + k) (s.dirTableWord k)))
    ∧ (∀ (before after : List Nat) (a : Nat), directoryAddrs = before ++ a :: after → (∀ x ∈ before, (s.dirRead x).bad = false) →
      (s.dirRead a).bad = true → ∃ t, exec .checkingEnd s = .next t ∧ t.part = .halted ∧ t.startResult = .ramFault
        ∧ recorded before.length a t
        ∧ t = { s with part := .halted, startResult := .ramFault, causes := t.causes, faultLatch := t.faultLatch, reads := [] })

/-- A start that passes every check enters RUNNING with the directory in force, each of its words as it was read: the stores replaced; the seats that do not
fit retired, re-initialised with their estimators under the new curves, and published; the floor rules taken when the roster
is empty; the links DOWN with their SENDING seats placed in ascending order; the scan timer running; the pages as found, their
state words as read; the change list settled, out-of-range and overflowing entries removed, and rewritten from position 0; and the header written. No
other seat state, cause or word changes (R9, R18, R42, R58, R72, R74, R104, R119, R120, R142, R158, R162, R174).
The model's choices: log 2, log 21, log 27. -/
def Obligations.SuccessfulStart : Prop :=
  ∀ s : State, s.part = .checking → s.directoryFits → (∀ r ∈ s.reads, r.bad = false) →
    (∀ a ∈ directoryAddrs, (s.dirRead a).bad = false) → (∀ p, (s.pageRead p).bad = false ∧ startable (s.pageRead p).value) →
    (∀ k < 136, (s.tableRead k).bad = false) →
    s.memoryLaw → s.rosterLaw → s.changeListLaw →
    let count := (s.dirWord 0).toNat
    let cap := (s.dirWord 7).toNat
    let gone := allSeats.filter s.startRetires
    let inRange := s.changeList.filter fun i => decide (i.val < count)
    let listed := inRange.take cap
    let overflow := inRange.drop cap
    let served := (allSeats.filter fun i => (s.seat i).board.owed && decide (i.val < count)).take (cap - listed.length)
    ∃ t, exec .checkingEnd s = .next t ∧ t.part = .running ∧ t.startResult = .ok ∧ t.causeSet .started = true
      ∧ t.layout = { seatCount := count, seatTable := (s.dirWord 1).toNat, board := (s.dirWord 2).toNat,
                     changeList := (s.dirWord 3).toNat, classTable := (s.dirWord 4).toNat,
                     curveTable := (s.dirWord 5).toNat, pageArea := (s.dirWord 6).toNat }
      ∧ t.capacity = cap ∧ SetupTaken s t ∧ StoresReplaced s t (fun k => (s.tableRead k).value)
      ∧ (∀ i, i ∉ gone → (t.seat i).ctx = (s.seat i).ctx ∧ (t.seat i).monitors = (s.seat i).monitors
          ∧ (t.seat i).tracker = (s.seat i).tracker ∧ (t.seat i).estimator = (s.seat i).estimator
          ∧ (t.seat i).channel = (s.seat i).channel)
      ∧ (∀ i ∈ gone, (t.seat i).ctx = { (s.seat i).ctx with active := false, sample := none, lastReport := s.clock,
                                                            foreignSeen := false, silence := .noCause }
          ∧ (t.seat i).monitors = Vector.replicate 8 clearMonitor
          ∧ (t.seat i).tracker = { dropoutStart := none, onsets := 0, prevOnsets := 0, windowStart := s.clock }
          ∧ (t.seat i).estimator = {
              seeded := false, f := 0, v := 0, charge := 0, missing := false, history := [], nextSample := 0,
              result := .warming, minutes := 0, status := .noData, genSeen := t.generations[(s.seat i).ctx.curve] }
          ∧ (t.seat i).channel = settledChannel)
      ∧ (∀ i, (t.seat i).board = {
          stamp := (s.seat i).board.stamp
          changedAt := if i ∈ gone ∧ i.val < count then s.clock else (s.seat i).board.changedAt
          listed := decide (i ∈ t.changeList)
          relistDue := (s.seat i).board.relistDue && decide (i ∈ listed)
          owed := ((s.seat i).board.owed && decide (i.val < count) || decide (i ∈ overflow)) && !decide (i ∈ served) })
      ∧ t.owedCount = allSeats.countP (fun i => (t.seat i).board.owed)
      ∧ (∀ l c, t.carrier l c = if ∃ i ∈ gone, (s.seat i).ctx.link = l ∧ (s.seat i).ctx.channel = c then none else s.carrier l c)
      ∧ t.boardWrites = s.boardWrites ++ changeWrites t gone
      ∧ t.roster = s.roster.filter (fun i => decide (i ∉ gone))
      ∧ (t.roster = [] → t.floorLimit = clampTo 1 8 ((s.dirWord 10).toNat % 256)
          ∧ (t.floorPolicy = .refuse ↔ (s.dirWord 10).toNat / 256 = 0))
      ∧ (t.roster ≠ [] → t.floorLimit = s.floorLimit ∧ t.floorPolicy = s.floorPolicy)
      ∧ (∀ l, let sends := allSeats.filter fun i => decide ((t.seat i).ctx.active = true ∧ (t.seat i).ctx.link = l
              ∧ (t.seat i).channel.state = .sending)
          t.link l = { s.link l with
            enabled := (t.link l).enabled, divisor := (t.link l).divisor, timeout := (t.link l).timeout,
            state := if (t.link l).enabled then .down else .disabled, timer := none, assembler := .sync, run := emptyRun,
            slot := none, queue := sends.take 16, deferred := sends.drop 16, tx := .idle })
      ∧ t.scanTimer = some s.clock ∧ t.pass = none ∧ t.countdown = 1 ∧ t.refreshPass = false
      ∧ (∀ p, pageNumber (t.pageState p) = (s.pageRead p).value.toNat ∧ t.readWord (s.dirPageWord p) = (s.pageRead p).value)
      ∧ t.posting = [Page.a, Page.b].filter (fun p => decide ((s.pageRead p).value = 1))
      ∧ t.worked = none ∧ t.suspended = none ∧ t.lift = none
      ∧ t.changeList = listed ++ served ∧ t.takenCount = s.takenCount ∧ t.fillCount - t.takenCount = word t.changeList.length
      ∧ t.writePos = t.changeList.length % cap
      ∧ (∀ k (h : k < t.changeList.length), t.readWord (t.layout.changeList + k) = seatWord t.changeList[k])
      ∧ (t.changeList ≠ [] → t.causeSet .changes = true) ∧ (t.changeList = [] → t.causeSet .changes = s.causeSet .changes)
      ∧ (∀ c, c ≠ .changes → c ≠ .started → t.causeSet c = s.causeSet c)
      ∧ t.readWord 32 = lowHalf s.clock ∧ t.readWord 33 = highHalf s.clock ∧ t.readWord 34 = s.passCount
      ∧ t.readWord 35 = word s.lateCount ∧ SummaryShown t ∧ t.readWord 37 = word t.owedCount
      ∧ t.readWord 38 = t.fillCount ∧ t.readWord 39 = t.takenCount ∧ FloorShown t
      ∧ (∀ (l : LinkId) (k : Fin 11), t.readWord (64 + 11 * l.val + k.val) = word (s.link l).counters[k])
      ∧ wordsKept s t (fun a => 32 ≤ a ∧ a ≤ 39 ∨ 41 ≤ a ∧ a ≤ 49 ∨ 64 ≤ a ∧ a < 152
          ∨ (∃ k < t.changeList.length, a = t.layout.changeList + k) ∨ ∃ p, a = s.dirPageWord p)
      ∧ t = { s with
          part := .running, startResult := .ok, reads := [], causes := t.causes, ram := t.ram, badParity := t.badParity,
          layout := t.layout, links := t.links, seats := t.seats, carriers := t.carriers, scanPeriod := t.scanPeriod,
          refreshInterval := t.refreshInterval, scanTimer := t.scanTimer, pass := none, refreshPass := false,
          countdown := 1, classes := t.classes, curves := t.curves, generations := t.generations, roster := t.roster,
          floorLimit := t.floorLimit, floorPolicy := t.floorPolicy, pageA := t.pageA, pageB := t.pageB,
          posting := t.posting, worked := none, suspended := none, lift := none, changeList := t.changeList,
          writePos := t.writePos, fillCount := t.fillCount, owedCount := t.owedCount, capacity := cap,
          boardWrites := t.boardWrites }

end Statements
end

