-- ==== Sys2Proof/Laws/State.lean ====
section
/-! SUPPORT. One lemma per field for each update of one block's part of the state, and the reads of what an update
wrote. -/

namespace Sys2Proof.Machine

variable (s : State)

/-! raise -/

@[simp] theorem State.raise_pending (c : Cause) : (s.raise c).pending = s.pending := rfl
@[simp] theorem State.raise_part (c : Cause) : (s.raise c).part = s.part := rfl
@[simp] theorem State.raise_startResult (c : Cause) : (s.raise c).startResult = s.startResult := rfl
@[simp] theorem State.raise_enables (c : Cause) : (s.raise c).enables = s.enables := rfl
@[simp] theorem State.raise_faultLatch (c : Cause) : (s.raise c).faultLatch = s.faultLatch := rfl
@[simp] theorem State.raise_ram (c : Cause) : (s.raise c).ram = s.ram := rfl
@[simp] theorem State.raise_badParity (c : Cause) : (s.raise c).badParity = s.badParity := rfl
@[simp] theorem State.raise_clearNext (c : Cause) : (s.raise c).clearNext = s.clearNext := rfl
@[simp] theorem State.raise_held (c : Cause) : (s.raise c).held = s.held := rfl
@[simp] theorem State.raise_readData (c : Cause) : (s.raise c).readData = s.readData := rfl
@[simp] theorem State.raise_layout (c : Cause) : (s.raise c).layout = s.layout := rfl
@[simp] theorem State.raise_reads (c : Cause) : (s.raise c).reads = s.reads := rfl
@[simp] theorem State.raise_linesQuiet (c : Cause) : (s.raise c).linesQuiet = s.linesQuiet := rfl
@[simp] theorem State.raise_orderQuiet (c : Cause) : (s.raise c).orderQuiet = s.orderQuiet := rfl
@[simp] theorem State.raise_links (c : Cause) : (s.raise c).links = s.links := rfl
@[simp] theorem State.raise_seats (c : Cause) : (s.raise c).seats = s.seats := rfl
@[simp] theorem State.raise_carriers (c : Cause) : (s.raise c).carriers = s.carriers := rfl
@[simp] theorem State.raise_clock (c : Cause) : (s.raise c).clock = s.clock := rfl
@[simp] theorem State.raise_scanPeriod (c : Cause) : (s.raise c).scanPeriod = s.scanPeriod := rfl
@[simp] theorem State.raise_refreshInterval (c : Cause) : (s.raise c).refreshInterval = s.refreshInterval := rfl
@[simp] theorem State.raise_scanTimer (c : Cause) : (s.raise c).scanTimer = s.scanTimer := rfl
@[simp] theorem State.raise_pass (c : Cause) : (s.raise c).pass = s.pass := rfl
@[simp] theorem State.raise_refreshPass (c : Cause) : (s.raise c).refreshPass = s.refreshPass := rfl
@[simp] theorem State.raise_countdown (c : Cause) : (s.raise c).countdown = s.countdown := rfl
@[simp] theorem State.raise_passCount (c : Cause) : (s.raise c).passCount = s.passCount := rfl
@[simp] theorem State.raise_lateCount (c : Cause) : (s.raise c).lateCount = s.lateCount := rfl
@[simp] theorem State.raise_classes (c : Cause) : (s.raise c).classes = s.classes := rfl
@[simp] theorem State.raise_curves (c : Cause) : (s.raise c).curves = s.curves := rfl
@[simp] theorem State.raise_generations (c : Cause) : (s.raise c).generations = s.generations := rfl
@[simp] theorem State.raise_roster (c : Cause) : (s.raise c).roster = s.roster := rfl
@[simp] theorem State.raise_floorLimit (c : Cause) : (s.raise c).floorLimit = s.floorLimit := rfl
@[simp] theorem State.raise_floorPolicy (c : Cause) : (s.raise c).floorPolicy = s.floorPolicy := rfl
@[simp] theorem State.raise_pageA (c : Cause) : (s.raise c).pageA = s.pageA := rfl
@[simp] theorem State.raise_pageB (c : Cause) : (s.raise c).pageB = s.pageB := rfl
@[simp] theorem State.raise_posting (c : Cause) : (s.raise c).posting = s.posting := rfl
@[simp] theorem State.raise_worked (c : Cause) : (s.raise c).worked = s.worked := rfl
@[simp] theorem State.raise_suspended (c : Cause) : (s.raise c).suspended = s.suspended := rfl
@[simp] theorem State.raise_lift (c : Cause) : (s.raise c).lift = s.lift := rfl
@[simp] theorem State.raise_changeList (c : Cause) : (s.raise c).changeList = s.changeList := rfl
@[simp] theorem State.raise_writePos (c : Cause) : (s.raise c).writePos = s.writePos := rfl
@[simp] theorem State.raise_fillCount (c : Cause) : (s.raise c).fillCount = s.fillCount := rfl
@[simp] theorem State.raise_takenCount (c : Cause) : (s.raise c).takenCount = s.takenCount := rfl
@[simp] theorem State.raise_owedCount (c : Cause) : (s.raise c).owedCount = s.owedCount := rfl
@[simp] theorem State.raise_capacity (c : Cause) : (s.raise c).capacity = s.capacity := rfl
@[simp] theorem State.raise_boardWrites (c : Cause) : (s.raise c).boardWrites = s.boardWrites := rfl
@[simp] theorem State.raise_takings (c : Cause) : (s.raise c).takings = s.takings := rfl

/-! recordFault -/

@[simp] theorem State.recordFault_pending (a : Nat) (x : FaultKind) : (s.recordFault a x).pending = s.pending := rfl
@[simp] theorem State.recordFault_part (a : Nat) (x : FaultKind) : (s.recordFault a x).part = s.part := rfl
@[simp] theorem State.recordFault_startResult (a : Nat) (x : FaultKind) : (s.recordFault a x).startResult = s.startResult := rfl
@[simp] theorem State.recordFault_enables (a : Nat) (x : FaultKind) : (s.recordFault a x).enables = s.enables := rfl
@[simp] theorem State.recordFault_ram (a : Nat) (x : FaultKind) : (s.recordFault a x).ram = s.ram := rfl
@[simp] theorem State.recordFault_badParity (a : Nat) (x : FaultKind) : (s.recordFault a x).badParity = s.badParity := rfl
@[simp] theorem State.recordFault_clearNext (a : Nat) (x : FaultKind) : (s.recordFault a x).clearNext = s.clearNext := rfl
@[simp] theorem State.recordFault_held (a : Nat) (x : FaultKind) : (s.recordFault a x).held = s.held := rfl
@[simp] theorem State.recordFault_readData (a : Nat) (x : FaultKind) : (s.recordFault a x).readData = s.readData := rfl
@[simp] theorem State.recordFault_layout (a : Nat) (x : FaultKind) : (s.recordFault a x).layout = s.layout := rfl
@[simp] theorem State.recordFault_reads (a : Nat) (x : FaultKind) : (s.recordFault a x).reads = s.reads := rfl
@[simp] theorem State.recordFault_linesQuiet (a : Nat) (x : FaultKind) : (s.recordFault a x).linesQuiet = s.linesQuiet := rfl
@[simp] theorem State.recordFault_orderQuiet (a : Nat) (x : FaultKind) : (s.recordFault a x).orderQuiet = s.orderQuiet := rfl
@[simp] theorem State.recordFault_links (a : Nat) (x : FaultKind) : (s.recordFault a x).links = s.links := rfl
@[simp] theorem State.recordFault_seats (a : Nat) (x : FaultKind) : (s.recordFault a x).seats = s.seats := rfl
@[simp] theorem State.recordFault_carriers (a : Nat) (x : FaultKind) : (s.recordFault a x).carriers = s.carriers := rfl
@[simp] theorem State.recordFault_clock (a : Nat) (x : FaultKind) : (s.recordFault a x).clock = s.clock := rfl
@[simp] theorem State.recordFault_scanPeriod (a : Nat) (x : FaultKind) : (s.recordFault a x).scanPeriod = s.scanPeriod := rfl
@[simp] theorem State.recordFault_refreshInterval (a : Nat) (x : FaultKind) : (s.recordFault a x).refreshInterval = s.refreshInterval := rfl
@[simp] theorem State.recordFault_scanTimer (a : Nat) (x : FaultKind) : (s.recordFault a x).scanTimer = s.scanTimer := rfl
@[simp] theorem State.recordFault_pass (a : Nat) (x : FaultKind) : (s.recordFault a x).pass = s.pass := rfl
@[simp] theorem State.recordFault_refreshPass (a : Nat) (x : FaultKind) : (s.recordFault a x).refreshPass = s.refreshPass := rfl
@[simp] theorem State.recordFault_countdown (a : Nat) (x : FaultKind) : (s.recordFault a x).countdown = s.countdown := rfl
@[simp] theorem State.recordFault_passCount (a : Nat) (x : FaultKind) : (s.recordFault a x).passCount = s.passCount := rfl
@[simp] theorem State.recordFault_lateCount (a : Nat) (x : FaultKind) : (s.recordFault a x).lateCount = s.lateCount := rfl
@[simp] theorem State.recordFault_classes (a : Nat) (x : FaultKind) : (s.recordFault a x).classes = s.classes := rfl
@[simp] theorem State.recordFault_curves (a : Nat) (x : FaultKind) : (s.recordFault a x).curves = s.curves := rfl
@[simp] theorem State.recordFault_generations (a : Nat) (x : FaultKind) : (s.recordFault a x).generations = s.generations := rfl
@[simp] theorem State.recordFault_roster (a : Nat) (x : FaultKind) : (s.recordFault a x).roster = s.roster := rfl
@[simp] theorem State.recordFault_floorLimit (a : Nat) (x : FaultKind) : (s.recordFault a x).floorLimit = s.floorLimit := rfl
@[simp] theorem State.recordFault_floorPolicy (a : Nat) (x : FaultKind) : (s.recordFault a x).floorPolicy = s.floorPolicy := rfl
@[simp] theorem State.recordFault_pageA (a : Nat) (x : FaultKind) : (s.recordFault a x).pageA = s.pageA := rfl
@[simp] theorem State.recordFault_pageB (a : Nat) (x : FaultKind) : (s.recordFault a x).pageB = s.pageB := rfl
@[simp] theorem State.recordFault_posting (a : Nat) (x : FaultKind) : (s.recordFault a x).posting = s.posting := rfl
@[simp] theorem State.recordFault_worked (a : Nat) (x : FaultKind) : (s.recordFault a x).worked = s.worked := rfl
@[simp] theorem State.recordFault_suspended (a : Nat) (x : FaultKind) : (s.recordFault a x).suspended = s.suspended := rfl
@[simp] theorem State.recordFault_lift (a : Nat) (x : FaultKind) : (s.recordFault a x).lift = s.lift := rfl
@[simp] theorem State.recordFault_changeList (a : Nat) (x : FaultKind) : (s.recordFault a x).changeList = s.changeList := rfl
@[simp] theorem State.recordFault_writePos (a : Nat) (x : FaultKind) : (s.recordFault a x).writePos = s.writePos := rfl
@[simp] theorem State.recordFault_fillCount (a : Nat) (x : FaultKind) : (s.recordFault a x).fillCount = s.fillCount := rfl
@[simp] theorem State.recordFault_takenCount (a : Nat) (x : FaultKind) : (s.recordFault a x).takenCount = s.takenCount := rfl
@[simp] theorem State.recordFault_owedCount (a : Nat) (x : FaultKind) : (s.recordFault a x).owedCount = s.owedCount := rfl
@[simp] theorem State.recordFault_capacity (a : Nat) (x : FaultKind) : (s.recordFault a x).capacity = s.capacity := rfl
@[simp] theorem State.recordFault_boardWrites (a : Nat) (x : FaultKind) : (s.recordFault a x).boardWrites = s.boardWrites := rfl
@[simp] theorem State.recordFault_takings (a : Nat) (x : FaultKind) : (s.recordFault a x).takings = s.takings := rfl

/-! clearLatch -/

@[simp] theorem State.clearLatch_pending : (s.clearLatch).pending = s.pending := rfl
@[simp] theorem State.clearLatch_part : (s.clearLatch).part = s.part := rfl
@[simp] theorem State.clearLatch_startResult : (s.clearLatch).startResult = s.startResult := rfl
@[simp] theorem State.clearLatch_enables : (s.clearLatch).enables = s.enables := rfl
@[simp] theorem State.clearLatch_ram : (s.clearLatch).ram = s.ram := rfl
@[simp] theorem State.clearLatch_badParity : (s.clearLatch).badParity = s.badParity := rfl
@[simp] theorem State.clearLatch_clearNext : (s.clearLatch).clearNext = s.clearNext := rfl
@[simp] theorem State.clearLatch_held : (s.clearLatch).held = s.held := rfl
@[simp] theorem State.clearLatch_readData : (s.clearLatch).readData = s.readData := rfl
@[simp] theorem State.clearLatch_layout : (s.clearLatch).layout = s.layout := rfl
@[simp] theorem State.clearLatch_reads : (s.clearLatch).reads = s.reads := rfl
@[simp] theorem State.clearLatch_linesQuiet : (s.clearLatch).linesQuiet = s.linesQuiet := rfl
@[simp] theorem State.clearLatch_orderQuiet : (s.clearLatch).orderQuiet = s.orderQuiet := rfl
@[simp] theorem State.clearLatch_links : (s.clearLatch).links = s.links := rfl
@[simp] theorem State.clearLatch_seats : (s.clearLatch).seats = s.seats := rfl
@[simp] theorem State.clearLatch_carriers : (s.clearLatch).carriers = s.carriers := rfl
@[simp] theorem State.clearLatch_clock : (s.clearLatch).clock = s.clock := rfl
@[simp] theorem State.clearLatch_scanPeriod : (s.clearLatch).scanPeriod = s.scanPeriod := rfl
@[simp] theorem State.clearLatch_refreshInterval : (s.clearLatch).refreshInterval = s.refreshInterval := rfl
@[simp] theorem State.clearLatch_scanTimer : (s.clearLatch).scanTimer = s.scanTimer := rfl
@[simp] theorem State.clearLatch_pass : (s.clearLatch).pass = s.pass := rfl
@[simp] theorem State.clearLatch_refreshPass : (s.clearLatch).refreshPass = s.refreshPass := rfl
@[simp] theorem State.clearLatch_countdown : (s.clearLatch).countdown = s.countdown := rfl
@[simp] theorem State.clearLatch_passCount : (s.clearLatch).passCount = s.passCount := rfl
@[simp] theorem State.clearLatch_lateCount : (s.clearLatch).lateCount = s.lateCount := rfl
@[simp] theorem State.clearLatch_classes : (s.clearLatch).classes = s.classes := rfl
@[simp] theorem State.clearLatch_curves : (s.clearLatch).curves = s.curves := rfl
@[simp] theorem State.clearLatch_generations : (s.clearLatch).generations = s.generations := rfl
@[simp] theorem State.clearLatch_roster : (s.clearLatch).roster = s.roster := rfl
@[simp] theorem State.clearLatch_floorLimit : (s.clearLatch).floorLimit = s.floorLimit := rfl
@[simp] theorem State.clearLatch_floorPolicy : (s.clearLatch).floorPolicy = s.floorPolicy := rfl
@[simp] theorem State.clearLatch_pageA : (s.clearLatch).pageA = s.pageA := rfl
@[simp] theorem State.clearLatch_pageB : (s.clearLatch).pageB = s.pageB := rfl
@[simp] theorem State.clearLatch_posting : (s.clearLatch).posting = s.posting := rfl
@[simp] theorem State.clearLatch_worked : (s.clearLatch).worked = s.worked := rfl
@[simp] theorem State.clearLatch_suspended : (s.clearLatch).suspended = s.suspended := rfl
@[simp] theorem State.clearLatch_lift : (s.clearLatch).lift = s.lift := rfl
@[simp] theorem State.clearLatch_changeList : (s.clearLatch).changeList = s.changeList := rfl
@[simp] theorem State.clearLatch_writePos : (s.clearLatch).writePos = s.writePos := rfl
@[simp] theorem State.clearLatch_fillCount : (s.clearLatch).fillCount = s.fillCount := rfl
@[simp] theorem State.clearLatch_takenCount : (s.clearLatch).takenCount = s.takenCount := rfl
@[simp] theorem State.clearLatch_owedCount : (s.clearLatch).owedCount = s.owedCount := rfl
@[simp] theorem State.clearLatch_capacity : (s.clearLatch).capacity = s.capacity := rfl
@[simp] theorem State.clearLatch_boardWrites : (s.clearLatch).boardWrites = s.boardWrites := rfl
@[simp] theorem State.clearLatch_takings : (s.clearLatch).takings = s.takings := rfl

/-! clearCauses -/

@[simp] theorem State.clearCauses_pending (v : Word) : (s.clearCauses v).pending = s.pending := rfl
@[simp] theorem State.clearCauses_part (v : Word) : (s.clearCauses v).part = s.part := rfl
@[simp] theorem State.clearCauses_startResult (v : Word) : (s.clearCauses v).startResult = s.startResult := rfl
@[simp] theorem State.clearCauses_enables (v : Word) : (s.clearCauses v).enables = s.enables := rfl
@[simp] theorem State.clearCauses_faultLatch (v : Word) : (s.clearCauses v).faultLatch = s.faultLatch := rfl
@[simp] theorem State.clearCauses_ram (v : Word) : (s.clearCauses v).ram = s.ram := rfl
@[simp] theorem State.clearCauses_badParity (v : Word) : (s.clearCauses v).badParity = s.badParity := rfl
@[simp] theorem State.clearCauses_clearNext (v : Word) : (s.clearCauses v).clearNext = s.clearNext := rfl
@[simp] theorem State.clearCauses_held (v : Word) : (s.clearCauses v).held = s.held := rfl
@[simp] theorem State.clearCauses_readData (v : Word) : (s.clearCauses v).readData = s.readData := rfl
@[simp] theorem State.clearCauses_layout (v : Word) : (s.clearCauses v).layout = s.layout := rfl
@[simp] theorem State.clearCauses_reads (v : Word) : (s.clearCauses v).reads = s.reads := rfl
@[simp] theorem State.clearCauses_linesQuiet (v : Word) : (s.clearCauses v).linesQuiet = s.linesQuiet := rfl
@[simp] theorem State.clearCauses_orderQuiet (v : Word) : (s.clearCauses v).orderQuiet = s.orderQuiet := rfl
@[simp] theorem State.clearCauses_links (v : Word) : (s.clearCauses v).links = s.links := rfl
@[simp] theorem State.clearCauses_seats (v : Word) : (s.clearCauses v).seats = s.seats := rfl
@[simp] theorem State.clearCauses_carriers (v : Word) : (s.clearCauses v).carriers = s.carriers := rfl
@[simp] theorem State.clearCauses_clock (v : Word) : (s.clearCauses v).clock = s.clock := rfl
@[simp] theorem State.clearCauses_scanPeriod (v : Word) : (s.clearCauses v).scanPeriod = s.scanPeriod := rfl
@[simp] theorem State.clearCauses_refreshInterval (v : Word) : (s.clearCauses v).refreshInterval = s.refreshInterval := rfl
@[simp] theorem State.clearCauses_scanTimer (v : Word) : (s.clearCauses v).scanTimer = s.scanTimer := rfl
@[simp] theorem State.clearCauses_pass (v : Word) : (s.clearCauses v).pass = s.pass := rfl
@[simp] theorem State.clearCauses_refreshPass (v : Word) : (s.clearCauses v).refreshPass = s.refreshPass := rfl
@[simp] theorem State.clearCauses_countdown (v : Word) : (s.clearCauses v).countdown = s.countdown := rfl
@[simp] theorem State.clearCauses_passCount (v : Word) : (s.clearCauses v).passCount = s.passCount := rfl
@[simp] theorem State.clearCauses_lateCount (v : Word) : (s.clearCauses v).lateCount = s.lateCount := rfl
@[simp] theorem State.clearCauses_classes (v : Word) : (s.clearCauses v).classes = s.classes := rfl
@[simp] theorem State.clearCauses_curves (v : Word) : (s.clearCauses v).curves = s.curves := rfl
@[simp] theorem State.clearCauses_generations (v : Word) : (s.clearCauses v).generations = s.generations := rfl
@[simp] theorem State.clearCauses_roster (v : Word) : (s.clearCauses v).roster = s.roster := rfl
@[simp] theorem State.clearCauses_floorLimit (v : Word) : (s.clearCauses v).floorLimit = s.floorLimit := rfl
@[simp] theorem State.clearCauses_floorPolicy (v : Word) : (s.clearCauses v).floorPolicy = s.floorPolicy := rfl
@[simp] theorem State.clearCauses_pageA (v : Word) : (s.clearCauses v).pageA = s.pageA := rfl
@[simp] theorem State.clearCauses_pageB (v : Word) : (s.clearCauses v).pageB = s.pageB := rfl
@[simp] theorem State.clearCauses_posting (v : Word) : (s.clearCauses v).posting = s.posting := rfl
@[simp] theorem State.clearCauses_worked (v : Word) : (s.clearCauses v).worked = s.worked := rfl
@[simp] theorem State.clearCauses_suspended (v : Word) : (s.clearCauses v).suspended = s.suspended := rfl
@[simp] theorem State.clearCauses_lift (v : Word) : (s.clearCauses v).lift = s.lift := rfl
@[simp] theorem State.clearCauses_changeList (v : Word) : (s.clearCauses v).changeList = s.changeList := rfl
@[simp] theorem State.clearCauses_writePos (v : Word) : (s.clearCauses v).writePos = s.writePos := rfl
@[simp] theorem State.clearCauses_fillCount (v : Word) : (s.clearCauses v).fillCount = s.fillCount := rfl
@[simp] theorem State.clearCauses_takenCount (v : Word) : (s.clearCauses v).takenCount = s.takenCount := rfl
@[simp] theorem State.clearCauses_owedCount (v : Word) : (s.clearCauses v).owedCount = s.owedCount := rfl
@[simp] theorem State.clearCauses_capacity (v : Word) : (s.clearCauses v).capacity = s.capacity := rfl
@[simp] theorem State.clearCauses_boardWrites (v : Word) : (s.clearCauses v).boardWrites = s.boardWrites := rfl
@[simp] theorem State.clearCauses_takings (v : Word) : (s.clearCauses v).takings = s.takings := rfl

/-! putWord -/

@[simp] theorem State.putWord_pending (a : Nat) (w : Word) : (s.putWord a w).pending = s.pending := rfl
@[simp] theorem State.putWord_part (a : Nat) (w : Word) : (s.putWord a w).part = s.part := rfl
@[simp] theorem State.putWord_startResult (a : Nat) (w : Word) : (s.putWord a w).startResult = s.startResult := rfl
@[simp] theorem State.putWord_causes (a : Nat) (w : Word) : (s.putWord a w).causes = s.causes := rfl
@[simp] theorem State.putWord_enables (a : Nat) (w : Word) : (s.putWord a w).enables = s.enables := rfl
@[simp] theorem State.putWord_faultLatch (a : Nat) (w : Word) : (s.putWord a w).faultLatch = s.faultLatch := rfl
@[simp] theorem State.putWord_clearNext (a : Nat) (w : Word) : (s.putWord a w).clearNext = s.clearNext := rfl
@[simp] theorem State.putWord_held (a : Nat) (w : Word) : (s.putWord a w).held = s.held := rfl
@[simp] theorem State.putWord_readData (a : Nat) (w : Word) : (s.putWord a w).readData = s.readData := rfl
@[simp] theorem State.putWord_layout (a : Nat) (w : Word) : (s.putWord a w).layout = s.layout := rfl
@[simp] theorem State.putWord_reads (a : Nat) (w : Word) : (s.putWord a w).reads = s.reads := rfl
@[simp] theorem State.putWord_linesQuiet (a : Nat) (w : Word) : (s.putWord a w).linesQuiet = s.linesQuiet := rfl
@[simp] theorem State.putWord_orderQuiet (a : Nat) (w : Word) : (s.putWord a w).orderQuiet = s.orderQuiet := rfl
@[simp] theorem State.putWord_links (a : Nat) (w : Word) : (s.putWord a w).links = s.links := rfl
@[simp] theorem State.putWord_seats (a : Nat) (w : Word) : (s.putWord a w).seats = s.seats := rfl
@[simp] theorem State.putWord_carriers (a : Nat) (w : Word) : (s.putWord a w).carriers = s.carriers := rfl
@[simp] theorem State.putWord_clock (a : Nat) (w : Word) : (s.putWord a w).clock = s.clock := rfl
@[simp] theorem State.putWord_scanPeriod (a : Nat) (w : Word) : (s.putWord a w).scanPeriod = s.scanPeriod := rfl
@[simp] theorem State.putWord_refreshInterval (a : Nat) (w : Word) : (s.putWord a w).refreshInterval = s.refreshInterval := rfl
@[simp] theorem State.putWord_scanTimer (a : Nat) (w : Word) : (s.putWord a w).scanTimer = s.scanTimer := rfl
@[simp] theorem State.putWord_pass (a : Nat) (w : Word) : (s.putWord a w).pass = s.pass := rfl
@[simp] theorem State.putWord_refreshPass (a : Nat) (w : Word) : (s.putWord a w).refreshPass = s.refreshPass := rfl
@[simp] theorem State.putWord_countdown (a : Nat) (w : Word) : (s.putWord a w).countdown = s.countdown := rfl
@[simp] theorem State.putWord_passCount (a : Nat) (w : Word) : (s.putWord a w).passCount = s.passCount := rfl
@[simp] theorem State.putWord_lateCount (a : Nat) (w : Word) : (s.putWord a w).lateCount = s.lateCount := rfl
@[simp] theorem State.putWord_classes (a : Nat) (w : Word) : (s.putWord a w).classes = s.classes := rfl
@[simp] theorem State.putWord_curves (a : Nat) (w : Word) : (s.putWord a w).curves = s.curves := rfl
@[simp] theorem State.putWord_generations (a : Nat) (w : Word) : (s.putWord a w).generations = s.generations := rfl
@[simp] theorem State.putWord_roster (a : Nat) (w : Word) : (s.putWord a w).roster = s.roster := rfl
@[simp] theorem State.putWord_floorLimit (a : Nat) (w : Word) : (s.putWord a w).floorLimit = s.floorLimit := rfl
@[simp] theorem State.putWord_floorPolicy (a : Nat) (w : Word) : (s.putWord a w).floorPolicy = s.floorPolicy := rfl
@[simp] theorem State.putWord_pageA (a : Nat) (w : Word) : (s.putWord a w).pageA = s.pageA := rfl
@[simp] theorem State.putWord_pageB (a : Nat) (w : Word) : (s.putWord a w).pageB = s.pageB := rfl
@[simp] theorem State.putWord_posting (a : Nat) (w : Word) : (s.putWord a w).posting = s.posting := rfl
@[simp] theorem State.putWord_worked (a : Nat) (w : Word) : (s.putWord a w).worked = s.worked := rfl
@[simp] theorem State.putWord_suspended (a : Nat) (w : Word) : (s.putWord a w).suspended = s.suspended := rfl
@[simp] theorem State.putWord_lift (a : Nat) (w : Word) : (s.putWord a w).lift = s.lift := rfl
@[simp] theorem State.putWord_changeList (a : Nat) (w : Word) : (s.putWord a w).changeList = s.changeList := rfl
@[simp] theorem State.putWord_writePos (a : Nat) (w : Word) : (s.putWord a w).writePos = s.writePos := rfl
@[simp] theorem State.putWord_fillCount (a : Nat) (w : Word) : (s.putWord a w).fillCount = s.fillCount := rfl
@[simp] theorem State.putWord_takenCount (a : Nat) (w : Word) : (s.putWord a w).takenCount = s.takenCount := rfl
@[simp] theorem State.putWord_owedCount (a : Nat) (w : Word) : (s.putWord a w).owedCount = s.owedCount := rfl
@[simp] theorem State.putWord_capacity (a : Nat) (w : Word) : (s.putWord a w).capacity = s.capacity := rfl
@[simp] theorem State.putWord_boardWrites (a : Nat) (w : Word) : (s.putWord a w).boardWrites = s.boardWrites := rfl
@[simp] theorem State.putWord_takings (a : Nat) (w : Word) : (s.putWord a w).takings = s.takings := rfl

/-! setSeat -/

@[simp] theorem State.setSeat_pending (i : Seat) (x : SeatState) : (s.setSeat i x).pending = s.pending := rfl
@[simp] theorem State.setSeat_part (i : Seat) (x : SeatState) : (s.setSeat i x).part = s.part := rfl
@[simp] theorem State.setSeat_startResult (i : Seat) (x : SeatState) : (s.setSeat i x).startResult = s.startResult := rfl
@[simp] theorem State.setSeat_causes (i : Seat) (x : SeatState) : (s.setSeat i x).causes = s.causes := rfl
@[simp] theorem State.setSeat_enables (i : Seat) (x : SeatState) : (s.setSeat i x).enables = s.enables := rfl
@[simp] theorem State.setSeat_faultLatch (i : Seat) (x : SeatState) : (s.setSeat i x).faultLatch = s.faultLatch := rfl
@[simp] theorem State.setSeat_ram (i : Seat) (x : SeatState) : (s.setSeat i x).ram = s.ram := rfl
@[simp] theorem State.setSeat_badParity (i : Seat) (x : SeatState) : (s.setSeat i x).badParity = s.badParity := rfl
@[simp] theorem State.setSeat_clearNext (i : Seat) (x : SeatState) : (s.setSeat i x).clearNext = s.clearNext := rfl
@[simp] theorem State.setSeat_held (i : Seat) (x : SeatState) : (s.setSeat i x).held = s.held := rfl
@[simp] theorem State.setSeat_readData (i : Seat) (x : SeatState) : (s.setSeat i x).readData = s.readData := rfl
@[simp] theorem State.setSeat_layout (i : Seat) (x : SeatState) : (s.setSeat i x).layout = s.layout := rfl
@[simp] theorem State.setSeat_reads (i : Seat) (x : SeatState) : (s.setSeat i x).reads = s.reads := rfl
@[simp] theorem State.setSeat_linesQuiet (i : Seat) (x : SeatState) : (s.setSeat i x).linesQuiet = s.linesQuiet := rfl
@[simp] theorem State.setSeat_orderQuiet (i : Seat) (x : SeatState) : (s.setSeat i x).orderQuiet = s.orderQuiet := rfl
@[simp] theorem State.setSeat_links (i : Seat) (x : SeatState) : (s.setSeat i x).links = s.links := rfl
@[simp] theorem State.setSeat_carriers (i : Seat) (x : SeatState) : (s.setSeat i x).carriers = s.carriers := rfl
@[simp] theorem State.setSeat_clock (i : Seat) (x : SeatState) : (s.setSeat i x).clock = s.clock := rfl
@[simp] theorem State.setSeat_scanPeriod (i : Seat) (x : SeatState) : (s.setSeat i x).scanPeriod = s.scanPeriod := rfl
@[simp] theorem State.setSeat_refreshInterval (i : Seat) (x : SeatState) : (s.setSeat i x).refreshInterval = s.refreshInterval := rfl
@[simp] theorem State.setSeat_scanTimer (i : Seat) (x : SeatState) : (s.setSeat i x).scanTimer = s.scanTimer := rfl
@[simp] theorem State.setSeat_pass (i : Seat) (x : SeatState) : (s.setSeat i x).pass = s.pass := rfl
@[simp] theorem State.setSeat_refreshPass (i : Seat) (x : SeatState) : (s.setSeat i x).refreshPass = s.refreshPass := rfl
@[simp] theorem State.setSeat_countdown (i : Seat) (x : SeatState) : (s.setSeat i x).countdown = s.countdown := rfl
@[simp] theorem State.setSeat_passCount (i : Seat) (x : SeatState) : (s.setSeat i x).passCount = s.passCount := rfl
@[simp] theorem State.setSeat_lateCount (i : Seat) (x : SeatState) : (s.setSeat i x).lateCount = s.lateCount := rfl
@[simp] theorem State.setSeat_classes (i : Seat) (x : SeatState) : (s.setSeat i x).classes = s.classes := rfl
@[simp] theorem State.setSeat_curves (i : Seat) (x : SeatState) : (s.setSeat i x).curves = s.curves := rfl
@[simp] theorem State.setSeat_generations (i : Seat) (x : SeatState) : (s.setSeat i x).generations = s.generations := rfl
@[simp] theorem State.setSeat_roster (i : Seat) (x : SeatState) : (s.setSeat i x).roster = s.roster := rfl
@[simp] theorem State.setSeat_floorLimit (i : Seat) (x : SeatState) : (s.setSeat i x).floorLimit = s.floorLimit := rfl
@[simp] theorem State.setSeat_floorPolicy (i : Seat) (x : SeatState) : (s.setSeat i x).floorPolicy = s.floorPolicy := rfl
@[simp] theorem State.setSeat_pageA (i : Seat) (x : SeatState) : (s.setSeat i x).pageA = s.pageA := rfl
@[simp] theorem State.setSeat_pageB (i : Seat) (x : SeatState) : (s.setSeat i x).pageB = s.pageB := rfl
@[simp] theorem State.setSeat_posting (i : Seat) (x : SeatState) : (s.setSeat i x).posting = s.posting := rfl
@[simp] theorem State.setSeat_worked (i : Seat) (x : SeatState) : (s.setSeat i x).worked = s.worked := rfl
@[simp] theorem State.setSeat_suspended (i : Seat) (x : SeatState) : (s.setSeat i x).suspended = s.suspended := rfl
@[simp] theorem State.setSeat_lift (i : Seat) (x : SeatState) : (s.setSeat i x).lift = s.lift := rfl
@[simp] theorem State.setSeat_changeList (i : Seat) (x : SeatState) : (s.setSeat i x).changeList = s.changeList := rfl
@[simp] theorem State.setSeat_writePos (i : Seat) (x : SeatState) : (s.setSeat i x).writePos = s.writePos := rfl
@[simp] theorem State.setSeat_fillCount (i : Seat) (x : SeatState) : (s.setSeat i x).fillCount = s.fillCount := rfl
@[simp] theorem State.setSeat_takenCount (i : Seat) (x : SeatState) : (s.setSeat i x).takenCount = s.takenCount := rfl
@[simp] theorem State.setSeat_owedCount (i : Seat) (x : SeatState) : (s.setSeat i x).owedCount = s.owedCount := rfl
@[simp] theorem State.setSeat_capacity (i : Seat) (x : SeatState) : (s.setSeat i x).capacity = s.capacity := rfl
@[simp] theorem State.setSeat_boardWrites (i : Seat) (x : SeatState) : (s.setSeat i x).boardWrites = s.boardWrites := rfl
@[simp] theorem State.setSeat_takings (i : Seat) (x : SeatState) : (s.setSeat i x).takings = s.takings := rfl

/-! setLink -/

@[simp] theorem State.setLink_pending (l : LinkId) (x : Link) : (s.setLink l x).pending = s.pending := rfl
@[simp] theorem State.setLink_part (l : LinkId) (x : Link) : (s.setLink l x).part = s.part := rfl
@[simp] theorem State.setLink_startResult (l : LinkId) (x : Link) : (s.setLink l x).startResult = s.startResult := rfl
@[simp] theorem State.setLink_causes (l : LinkId) (x : Link) : (s.setLink l x).causes = s.causes := rfl
@[simp] theorem State.setLink_enables (l : LinkId) (x : Link) : (s.setLink l x).enables = s.enables := rfl
@[simp] theorem State.setLink_faultLatch (l : LinkId) (x : Link) : (s.setLink l x).faultLatch = s.faultLatch := rfl
@[simp] theorem State.setLink_ram (l : LinkId) (x : Link) : (s.setLink l x).ram = s.ram := rfl
@[simp] theorem State.setLink_badParity (l : LinkId) (x : Link) : (s.setLink l x).badParity = s.badParity := rfl
@[simp] theorem State.setLink_clearNext (l : LinkId) (x : Link) : (s.setLink l x).clearNext = s.clearNext := rfl
@[simp] theorem State.setLink_held (l : LinkId) (x : Link) : (s.setLink l x).held = s.held := rfl
@[simp] theorem State.setLink_readData (l : LinkId) (x : Link) : (s.setLink l x).readData = s.readData := rfl
@[simp] theorem State.setLink_layout (l : LinkId) (x : Link) : (s.setLink l x).layout = s.layout := rfl
@[simp] theorem State.setLink_reads (l : LinkId) (x : Link) : (s.setLink l x).reads = s.reads := rfl
@[simp] theorem State.setLink_linesQuiet (l : LinkId) (x : Link) : (s.setLink l x).linesQuiet = s.linesQuiet := rfl
@[simp] theorem State.setLink_orderQuiet (l : LinkId) (x : Link) : (s.setLink l x).orderQuiet = s.orderQuiet := rfl
@[simp] theorem State.setLink_seats (l : LinkId) (x : Link) : (s.setLink l x).seats = s.seats := rfl
@[simp] theorem State.setLink_carriers (l : LinkId) (x : Link) : (s.setLink l x).carriers = s.carriers := rfl
@[simp] theorem State.setLink_clock (l : LinkId) (x : Link) : (s.setLink l x).clock = s.clock := rfl
@[simp] theorem State.setLink_scanPeriod (l : LinkId) (x : Link) : (s.setLink l x).scanPeriod = s.scanPeriod := rfl
@[simp] theorem State.setLink_refreshInterval (l : LinkId) (x : Link) : (s.setLink l x).refreshInterval = s.refreshInterval := rfl
@[simp] theorem State.setLink_scanTimer (l : LinkId) (x : Link) : (s.setLink l x).scanTimer = s.scanTimer := rfl
@[simp] theorem State.setLink_pass (l : LinkId) (x : Link) : (s.setLink l x).pass = s.pass := rfl
@[simp] theorem State.setLink_refreshPass (l : LinkId) (x : Link) : (s.setLink l x).refreshPass = s.refreshPass := rfl
@[simp] theorem State.setLink_countdown (l : LinkId) (x : Link) : (s.setLink l x).countdown = s.countdown := rfl
@[simp] theorem State.setLink_passCount (l : LinkId) (x : Link) : (s.setLink l x).passCount = s.passCount := rfl
@[simp] theorem State.setLink_lateCount (l : LinkId) (x : Link) : (s.setLink l x).lateCount = s.lateCount := rfl
@[simp] theorem State.setLink_classes (l : LinkId) (x : Link) : (s.setLink l x).classes = s.classes := rfl
@[simp] theorem State.setLink_curves (l : LinkId) (x : Link) : (s.setLink l x).curves = s.curves := rfl
@[simp] theorem State.setLink_generations (l : LinkId) (x : Link) : (s.setLink l x).generations = s.generations := rfl
@[simp] theorem State.setLink_roster (l : LinkId) (x : Link) : (s.setLink l x).roster = s.roster := rfl
@[simp] theorem State.setLink_floorLimit (l : LinkId) (x : Link) : (s.setLink l x).floorLimit = s.floorLimit := rfl
@[simp] theorem State.setLink_floorPolicy (l : LinkId) (x : Link) : (s.setLink l x).floorPolicy = s.floorPolicy := rfl
@[simp] theorem State.setLink_pageA (l : LinkId) (x : Link) : (s.setLink l x).pageA = s.pageA := rfl
@[simp] theorem State.setLink_pageB (l : LinkId) (x : Link) : (s.setLink l x).pageB = s.pageB := rfl
@[simp] theorem State.setLink_posting (l : LinkId) (x : Link) : (s.setLink l x).posting = s.posting := rfl
@[simp] theorem State.setLink_worked (l : LinkId) (x : Link) : (s.setLink l x).worked = s.worked := rfl
@[simp] theorem State.setLink_suspended (l : LinkId) (x : Link) : (s.setLink l x).suspended = s.suspended := rfl
@[simp] theorem State.setLink_lift (l : LinkId) (x : Link) : (s.setLink l x).lift = s.lift := rfl
@[simp] theorem State.setLink_changeList (l : LinkId) (x : Link) : (s.setLink l x).changeList = s.changeList := rfl
@[simp] theorem State.setLink_writePos (l : LinkId) (x : Link) : (s.setLink l x).writePos = s.writePos := rfl
@[simp] theorem State.setLink_fillCount (l : LinkId) (x : Link) : (s.setLink l x).fillCount = s.fillCount := rfl
@[simp] theorem State.setLink_takenCount (l : LinkId) (x : Link) : (s.setLink l x).takenCount = s.takenCount := rfl
@[simp] theorem State.setLink_owedCount (l : LinkId) (x : Link) : (s.setLink l x).owedCount = s.owedCount := rfl
@[simp] theorem State.setLink_capacity (l : LinkId) (x : Link) : (s.setLink l x).capacity = s.capacity := rfl
@[simp] theorem State.setLink_boardWrites (l : LinkId) (x : Link) : (s.setLink l x).boardWrites = s.boardWrites := rfl
@[simp] theorem State.setLink_takings (l : LinkId) (x : Link) : (s.setLink l x).takings = s.takings := rfl

/-! setCarrier -/

@[simp] theorem State.setCarrier_pending (l : LinkId) (c : Channel) (v : Option Seat) : (s.setCarrier l c v).pending = s.pending := rfl
@[simp] theorem State.setCarrier_part (l : LinkId) (c : Channel) (v : Option Seat) : (s.setCarrier l c v).part = s.part := rfl
@[simp] theorem State.setCarrier_startResult (l : LinkId) (c : Channel) (v : Option Seat) : (s.setCarrier l c v).startResult = s.startResult := rfl
@[simp] theorem State.setCarrier_causes (l : LinkId) (c : Channel) (v : Option Seat) : (s.setCarrier l c v).causes = s.causes := rfl
@[simp] theorem State.setCarrier_enables (l : LinkId) (c : Channel) (v : Option Seat) : (s.setCarrier l c v).enables = s.enables := rfl
@[simp] theorem State.setCarrier_faultLatch (l : LinkId) (c : Channel) (v : Option Seat) : (s.setCarrier l c v).faultLatch = s.faultLatch := rfl
@[simp] theorem State.setCarrier_ram (l : LinkId) (c : Channel) (v : Option Seat) : (s.setCarrier l c v).ram = s.ram := rfl
@[simp] theorem State.setCarrier_badParity (l : LinkId) (c : Channel) (v : Option Seat) : (s.setCarrier l c v).badParity = s.badParity := rfl
@[simp] theorem State.setCarrier_clearNext (l : LinkId) (c : Channel) (v : Option Seat) : (s.setCarrier l c v).clearNext = s.clearNext := rfl
@[simp] theorem State.setCarrier_held (l : LinkId) (c : Channel) (v : Option Seat) : (s.setCarrier l c v).held = s.held := rfl
@[simp] theorem State.setCarrier_readData (l : LinkId) (c : Channel) (v : Option Seat) : (s.setCarrier l c v).readData = s.readData := rfl
@[simp] theorem State.setCarrier_layout (l : LinkId) (c : Channel) (v : Option Seat) : (s.setCarrier l c v).layout = s.layout := rfl
@[simp] theorem State.setCarrier_reads (l : LinkId) (c : Channel) (v : Option Seat) : (s.setCarrier l c v).reads = s.reads := rfl
@[simp] theorem State.setCarrier_linesQuiet (l : LinkId) (c : Channel) (v : Option Seat) : (s.setCarrier l c v).linesQuiet = s.linesQuiet := rfl
@[simp] theorem State.setCarrier_orderQuiet (l : LinkId) (c : Channel) (v : Option Seat) : (s.setCarrier l c v).orderQuiet = s.orderQuiet := rfl
@[simp] theorem State.setCarrier_links (l : LinkId) (c : Channel) (v : Option Seat) : (s.setCarrier l c v).links = s.links := rfl
@[simp] theorem State.setCarrier_seats (l : LinkId) (c : Channel) (v : Option Seat) : (s.setCarrier l c v).seats = s.seats := rfl
@[simp] theorem State.setCarrier_clock (l : LinkId) (c : Channel) (v : Option Seat) : (s.setCarrier l c v).clock = s.clock := rfl
@[simp] theorem State.setCarrier_scanPeriod (l : LinkId) (c : Channel) (v : Option Seat) : (s.setCarrier l c v).scanPeriod = s.scanPeriod := rfl
@[simp] theorem State.setCarrier_refreshInterval (l : LinkId) (c : Channel) (v : Option Seat) : (s.setCarrier l c v).refreshInterval = s.refreshInterval := rfl
@[simp] theorem State.setCarrier_scanTimer (l : LinkId) (c : Channel) (v : Option Seat) : (s.setCarrier l c v).scanTimer = s.scanTimer := rfl
@[simp] theorem State.setCarrier_pass (l : LinkId) (c : Channel) (v : Option Seat) : (s.setCarrier l c v).pass = s.pass := rfl
@[simp] theorem State.setCarrier_refreshPass (l : LinkId) (c : Channel) (v : Option Seat) : (s.setCarrier l c v).refreshPass = s.refreshPass := rfl
@[simp] theorem State.setCarrier_countdown (l : LinkId) (c : Channel) (v : Option Seat) : (s.setCarrier l c v).countdown = s.countdown := rfl
@[simp] theorem State.setCarrier_passCount (l : LinkId) (c : Channel) (v : Option Seat) : (s.setCarrier l c v).passCount = s.passCount := rfl
@[simp] theorem State.setCarrier_lateCount (l : LinkId) (c : Channel) (v : Option Seat) : (s.setCarrier l c v).lateCount = s.lateCount := rfl
@[simp] theorem State.setCarrier_classes (l : LinkId) (c : Channel) (v : Option Seat) : (s.setCarrier l c v).classes = s.classes := rfl
@[simp] theorem State.setCarrier_curves (l : LinkId) (c : Channel) (v : Option Seat) : (s.setCarrier l c v).curves = s.curves := rfl
@[simp] theorem State.setCarrier_generations (l : LinkId) (c : Channel) (v : Option Seat) : (s.setCarrier l c v).generations = s.generations := rfl
@[simp] theorem State.setCarrier_roster (l : LinkId) (c : Channel) (v : Option Seat) : (s.setCarrier l c v).roster = s.roster := rfl
@[simp] theorem State.setCarrier_floorLimit (l : LinkId) (c : Channel) (v : Option Seat) : (s.setCarrier l c v).floorLimit = s.floorLimit := rfl
@[simp] theorem State.setCarrier_floorPolicy (l : LinkId) (c : Channel) (v : Option Seat) : (s.setCarrier l c v).floorPolicy = s.floorPolicy := rfl
@[simp] theorem State.setCarrier_pageA (l : LinkId) (c : Channel) (v : Option Seat) : (s.setCarrier l c v).pageA = s.pageA := rfl
@[simp] theorem State.setCarrier_pageB (l : LinkId) (c : Channel) (v : Option Seat) : (s.setCarrier l c v).pageB = s.pageB := rfl
@[simp] theorem State.setCarrier_posting (l : LinkId) (c : Channel) (v : Option Seat) : (s.setCarrier l c v).posting = s.posting := rfl
@[simp] theorem State.setCarrier_worked (l : LinkId) (c : Channel) (v : Option Seat) : (s.setCarrier l c v).worked = s.worked := rfl
@[simp] theorem State.setCarrier_suspended (l : LinkId) (c : Channel) (v : Option Seat) : (s.setCarrier l c v).suspended = s.suspended := rfl
@[simp] theorem State.setCarrier_lift (l : LinkId) (c : Channel) (v : Option Seat) : (s.setCarrier l c v).lift = s.lift := rfl
@[simp] theorem State.setCarrier_changeList (l : LinkId) (c : Channel) (v : Option Seat) : (s.setCarrier l c v).changeList = s.changeList := rfl
@[simp] theorem State.setCarrier_writePos (l : LinkId) (c : Channel) (v : Option Seat) : (s.setCarrier l c v).writePos = s.writePos := rfl
@[simp] theorem State.setCarrier_fillCount (l : LinkId) (c : Channel) (v : Option Seat) : (s.setCarrier l c v).fillCount = s.fillCount := rfl
@[simp] theorem State.setCarrier_takenCount (l : LinkId) (c : Channel) (v : Option Seat) : (s.setCarrier l c v).takenCount = s.takenCount := rfl
@[simp] theorem State.setCarrier_owedCount (l : LinkId) (c : Channel) (v : Option Seat) : (s.setCarrier l c v).owedCount = s.owedCount := rfl
@[simp] theorem State.setCarrier_capacity (l : LinkId) (c : Channel) (v : Option Seat) : (s.setCarrier l c v).capacity = s.capacity := rfl
@[simp] theorem State.setCarrier_boardWrites (l : LinkId) (c : Channel) (v : Option Seat) : (s.setCarrier l c v).boardWrites = s.boardWrites := rfl
@[simp] theorem State.setCarrier_takings (l : LinkId) (c : Channel) (v : Option Seat) : (s.setCarrier l c v).takings = s.takings := rfl

/-! Reads after updates -/

@[simp] theorem State.raise_causes (c : Cause) : (s.raise c).causes = s.causes ||| causeBit c := rfl
@[simp] theorem State.setSeat_seats (i : Seat) (x : SeatState) : (s.setSeat i x).seats = s.seats.set i x := rfl
@[simp] theorem State.setLink_links (l : LinkId) (x : Link) : (s.setLink l x).links = s.links.set l x := rfl

@[simp] theorem State.seat_setSeat (i j : Seat) (x : SeatState) :
    (s.setSeat i x).seat j = if j = i then x else s.seat j := by
  simp only [State.seat, State.setSeat, Fin.getElem_fin, Vector.getElem_set, Fin.ext_iff, eq_comm (a := i.val)]

@[simp] theorem State.link_setLink (l m : LinkId) (x : Link) :
    (s.setLink l x).link m = if m = l then x else s.link m := by
  simp only [State.link, State.setLink, Fin.getElem_fin, Vector.getElem_set, Fin.ext_iff, eq_comm (a := l.val)]

theorem carrierIndex_inj {l m : LinkId} {c d : Channel} (h : carrierIndex l c = carrierIndex m d) : l = m ∧ c = d := by
  simp only [carrierIndex, Fin.mk.injEq] at h
  constructor <;> apply Fin.ext <;> omega

@[simp] theorem State.carrier_setCarrier (l m : LinkId) (c d : Channel) (v : Option Seat) :
    (s.setCarrier l c v).carrier m d = if m = l ∧ d = c then v else s.carrier m d := by
  by_cases h : m = l ∧ d = c
  · obtain ⟨rfl, rfl⟩ := h
    simp [State.carrier, State.setCarrier]
  · have : carrierIndex l c ≠ carrierIndex m d := fun e => h ⟨(carrierIndex_inj e).1.symm, (carrierIndex_inj e).2.symm⟩
    rw [if_neg h]
    simp only [State.carrier, State.setCarrier, Fin.getElem_fin]
    exact Vector.getElem_set_ne _ _ (fun e => this (Fin.ext e))

@[simp] theorem State.carrier_setSeat (i : Seat) (x : SeatState) (l : LinkId) (c : Channel) :
    (s.setSeat i x).carrier l c = s.carrier l c := rfl
@[simp] theorem State.seat_setLink (l : LinkId) (x : Link) (i : Seat) : (s.setLink l x).seat i = s.seat i := rfl
@[simp] theorem State.link_setSeat (i : Seat) (x : SeatState) (l : LinkId) : (s.setSeat i x).link l = s.link l := rfl
@[simp] theorem State.seat_putWord (a : Nat) (w : Word) (i : Seat) : (s.putWord a w).seat i = s.seat i := rfl
@[simp] theorem State.link_putWord (a : Nat) (w : Word) (l : LinkId) : (s.putWord a w).link l = s.link l := rfl
@[simp] theorem State.carrier_putWord (a : Nat) (w : Word) (l : LinkId) (c : Channel) :
    (s.putWord a w).carrier l c = s.carrier l c := rfl
@[simp] theorem State.seat_raise (c : Cause) (i : Seat) : (s.raise c).seat i = s.seat i := rfl
@[simp] theorem State.link_raise (c : Cause) (l : LinkId) : (s.raise c).link l = s.link l := rfl
@[simp] theorem State.carrier_raise (x : Cause) (l : LinkId) (c : Channel) : (s.raise x).carrier l c = s.carrier l c := rfl
@[simp] theorem State.seat_recordFault (a : Nat) (x : FaultKind) (i : Seat) : (s.recordFault a x).seat i = s.seat i := rfl
@[simp] theorem State.link_recordFault (a : Nat) (x : FaultKind) (l : LinkId) : (s.recordFault a x).link l = s.link l := rfl
@[simp] theorem State.carrier_setLink (l : LinkId) (x : Link) (m : LinkId) (c : Channel) :
    (s.setLink l x).carrier m c = s.carrier m c := rfl
@[simp] theorem State.seat_setCarrier (l : LinkId) (c : Channel) (v : Option Seat) (i : Seat) :
    (s.setCarrier l c v).seat i = s.seat i := rfl
@[simp] theorem State.link_setCarrier (m : LinkId) (c : Channel) (v : Option Seat) (l : LinkId) :
    (s.setCarrier m c v).link l = s.link l := rfl

end Sys2Proof.Machine
end

