-- ==== Sys2Proof/Laws/Frames.lean ====
section
/-! SUPPORT. The frame of every operation, once: what an operation leaves alone is said by erasing what it may change. -/

namespace Sys2Proof.Machine

/-- The fields of the state. -/
inductive Fld where
  | pending
  | part
  | startResult
  | causes
  | enables
  | faultLatch
  | ram
  | badParity
  | clearNext
  | held
  | readData
  | layout
  | reads
  | linesQuiet
  | orderQuiet
  | links
  | seats
  | carriers
  | clock
  | scanPeriod
  | refreshInterval
  | scanTimer
  | pass
  | refreshPass
  | countdown
  | passCount
  | lateCount
  | classes
  | curves
  | generations
  | roster
  | floorLimit
  | floorPolicy
  | pageA
  | pageB
  | posting
  | worked
  | suspended
  | lift
  | changeList
  | writePos
  | fillCount
  | takenCount
  | owedCount
  | capacity
  | boardWrites
  | takings
deriving DecidableEq, Repr

/-- The state with the fields that `k` names taken back to their reset values: `erase k t = erase k s` says that `t` and
`s` differ in those fields alone. -/
def erase (k : Fld → Bool) (s : State) : State :=
  { pending := bif k .pending then State.reset.pending else s.pending
    part := bif k .part then State.reset.part else s.part
    startResult := bif k .startResult then State.reset.startResult else s.startResult
    causes := bif k .causes then State.reset.causes else s.causes
    enables := bif k .enables then State.reset.enables else s.enables
    faultLatch := bif k .faultLatch then State.reset.faultLatch else s.faultLatch
    ram := bif k .ram then State.reset.ram else s.ram
    badParity := bif k .badParity then State.reset.badParity else s.badParity
    clearNext := bif k .clearNext then State.reset.clearNext else s.clearNext
    held := bif k .held then State.reset.held else s.held
    readData := bif k .readData then State.reset.readData else s.readData
    layout := bif k .layout then State.reset.layout else s.layout
    reads := bif k .reads then State.reset.reads else s.reads
    linesQuiet := bif k .linesQuiet then State.reset.linesQuiet else s.linesQuiet
    orderQuiet := bif k .orderQuiet then State.reset.orderQuiet else s.orderQuiet
    links := bif k .links then State.reset.links else s.links
    seats := bif k .seats then State.reset.seats else s.seats
    carriers := bif k .carriers then State.reset.carriers else s.carriers
    clock := bif k .clock then State.reset.clock else s.clock
    scanPeriod := bif k .scanPeriod then State.reset.scanPeriod else s.scanPeriod
    refreshInterval := bif k .refreshInterval then State.reset.refreshInterval else s.refreshInterval
    scanTimer := bif k .scanTimer then State.reset.scanTimer else s.scanTimer
    pass := bif k .pass then State.reset.pass else s.pass
    refreshPass := bif k .refreshPass then State.reset.refreshPass else s.refreshPass
    countdown := bif k .countdown then State.reset.countdown else s.countdown
    passCount := bif k .passCount then State.reset.passCount else s.passCount
    lateCount := bif k .lateCount then State.reset.lateCount else s.lateCount
    classes := bif k .classes then State.reset.classes else s.classes
    curves := bif k .curves then State.reset.curves else s.curves
    generations := bif k .generations then State.reset.generations else s.generations
    roster := bif k .roster then State.reset.roster else s.roster
    floorLimit := bif k .floorLimit then State.reset.floorLimit else s.floorLimit
    floorPolicy := bif k .floorPolicy then State.reset.floorPolicy else s.floorPolicy
    pageA := bif k .pageA then State.reset.pageA else s.pageA
    pageB := bif k .pageB then State.reset.pageB else s.pageB
    posting := bif k .posting then State.reset.posting else s.posting
    worked := bif k .worked then State.reset.worked else s.worked
    suspended := bif k .suspended then State.reset.suspended else s.suspended
    lift := bif k .lift then State.reset.lift else s.lift
    changeList := bif k .changeList then State.reset.changeList else s.changeList
    writePos := bif k .writePos then State.reset.writePos else s.writePos
    fillCount := bif k .fillCount then State.reset.fillCount else s.fillCount
    takenCount := bif k .takenCount then State.reset.takenCount else s.takenCount
    owedCount := bif k .owedCount then State.reset.owedCount else s.owedCount
    capacity := bif k .capacity then State.reset.capacity else s.capacity
    boardWrites := bif k .boardWrites then State.reset.boardWrites else s.boardWrites
    takings := bif k .takings then State.reset.takings else s.takings }

theorem erase_keeps_pending {k : Fld → Bool} {s t : State} (h : erase k t = erase k s) (h1 : k .pending = false) : t.pending = s.pending := by
  simpa [erase, h1] using congrArg State.pending h
theorem erase_keeps_part {k : Fld → Bool} {s t : State} (h : erase k t = erase k s) (h1 : k .part = false) : t.part = s.part := by
  simpa [erase, h1] using congrArg State.part h
theorem erase_keeps_startResult {k : Fld → Bool} {s t : State} (h : erase k t = erase k s) (h1 : k .startResult = false) : t.startResult = s.startResult := by
  simpa [erase, h1] using congrArg State.startResult h
theorem erase_keeps_causes {k : Fld → Bool} {s t : State} (h : erase k t = erase k s) (h1 : k .causes = false) : t.causes = s.causes := by
  simpa [erase, h1] using congrArg State.causes h
theorem erase_keeps_enables {k : Fld → Bool} {s t : State} (h : erase k t = erase k s) (h1 : k .enables = false) : t.enables = s.enables := by
  simpa [erase, h1] using congrArg State.enables h
theorem erase_keeps_faultLatch {k : Fld → Bool} {s t : State} (h : erase k t = erase k s) (h1 : k .faultLatch = false) : t.faultLatch = s.faultLatch := by
  simpa [erase, h1] using congrArg State.faultLatch h
theorem erase_keeps_ram {k : Fld → Bool} {s t : State} (h : erase k t = erase k s) (h1 : k .ram = false) : t.ram = s.ram := by
  simpa [erase, h1] using congrArg State.ram h
theorem erase_keeps_badParity {k : Fld → Bool} {s t : State} (h : erase k t = erase k s) (h1 : k .badParity = false) : t.badParity = s.badParity := by
  simpa [erase, h1] using congrArg State.badParity h
theorem erase_keeps_clearNext {k : Fld → Bool} {s t : State} (h : erase k t = erase k s) (h1 : k .clearNext = false) : t.clearNext = s.clearNext := by
  simpa [erase, h1] using congrArg State.clearNext h
theorem erase_keeps_held {k : Fld → Bool} {s t : State} (h : erase k t = erase k s) (h1 : k .held = false) : t.held = s.held := by
  simpa [erase, h1] using congrArg State.held h
theorem erase_keeps_readData {k : Fld → Bool} {s t : State} (h : erase k t = erase k s) (h1 : k .readData = false) : t.readData = s.readData := by
  simpa [erase, h1] using congrArg State.readData h
theorem erase_keeps_layout {k : Fld → Bool} {s t : State} (h : erase k t = erase k s) (h1 : k .layout = false) : t.layout = s.layout := by
  simpa [erase, h1] using congrArg State.layout h
theorem erase_keeps_reads {k : Fld → Bool} {s t : State} (h : erase k t = erase k s) (h1 : k .reads = false) : t.reads = s.reads := by
  simpa [erase, h1] using congrArg State.reads h
theorem erase_keeps_linesQuiet {k : Fld → Bool} {s t : State} (h : erase k t = erase k s) (h1 : k .linesQuiet = false) : t.linesQuiet = s.linesQuiet := by
  simpa [erase, h1] using congrArg State.linesQuiet h
theorem erase_keeps_orderQuiet {k : Fld → Bool} {s t : State} (h : erase k t = erase k s) (h1 : k .orderQuiet = false) : t.orderQuiet = s.orderQuiet := by
  simpa [erase, h1] using congrArg State.orderQuiet h
theorem erase_keeps_links {k : Fld → Bool} {s t : State} (h : erase k t = erase k s) (h1 : k .links = false) : t.links = s.links := by
  simpa [erase, h1] using congrArg State.links h
theorem erase_keeps_seats {k : Fld → Bool} {s t : State} (h : erase k t = erase k s) (h1 : k .seats = false) : t.seats = s.seats := by
  simpa [erase, h1] using congrArg State.seats h
theorem erase_keeps_carriers {k : Fld → Bool} {s t : State} (h : erase k t = erase k s) (h1 : k .carriers = false) : t.carriers = s.carriers := by
  simpa [erase, h1] using congrArg State.carriers h
theorem erase_keeps_clock {k : Fld → Bool} {s t : State} (h : erase k t = erase k s) (h1 : k .clock = false) : t.clock = s.clock := by
  simpa [erase, h1] using congrArg State.clock h
theorem erase_keeps_scanPeriod {k : Fld → Bool} {s t : State} (h : erase k t = erase k s) (h1 : k .scanPeriod = false) : t.scanPeriod = s.scanPeriod := by
  simpa [erase, h1] using congrArg State.scanPeriod h
theorem erase_keeps_refreshInterval {k : Fld → Bool} {s t : State} (h : erase k t = erase k s) (h1 : k .refreshInterval = false) : t.refreshInterval = s.refreshInterval := by
  simpa [erase, h1] using congrArg State.refreshInterval h
theorem erase_keeps_scanTimer {k : Fld → Bool} {s t : State} (h : erase k t = erase k s) (h1 : k .scanTimer = false) : t.scanTimer = s.scanTimer := by
  simpa [erase, h1] using congrArg State.scanTimer h
theorem erase_keeps_pass {k : Fld → Bool} {s t : State} (h : erase k t = erase k s) (h1 : k .pass = false) : t.pass = s.pass := by
  simpa [erase, h1] using congrArg State.pass h
theorem erase_keeps_refreshPass {k : Fld → Bool} {s t : State} (h : erase k t = erase k s) (h1 : k .refreshPass = false) : t.refreshPass = s.refreshPass := by
  simpa [erase, h1] using congrArg State.refreshPass h
theorem erase_keeps_countdown {k : Fld → Bool} {s t : State} (h : erase k t = erase k s) (h1 : k .countdown = false) : t.countdown = s.countdown := by
  simpa [erase, h1] using congrArg State.countdown h
theorem erase_keeps_passCount {k : Fld → Bool} {s t : State} (h : erase k t = erase k s) (h1 : k .passCount = false) : t.passCount = s.passCount := by
  simpa [erase, h1] using congrArg State.passCount h
theorem erase_keeps_lateCount {k : Fld → Bool} {s t : State} (h : erase k t = erase k s) (h1 : k .lateCount = false) : t.lateCount = s.lateCount := by
  simpa [erase, h1] using congrArg State.lateCount h
theorem erase_keeps_classes {k : Fld → Bool} {s t : State} (h : erase k t = erase k s) (h1 : k .classes = false) : t.classes = s.classes := by
  simpa [erase, h1] using congrArg State.classes h
theorem erase_keeps_curves {k : Fld → Bool} {s t : State} (h : erase k t = erase k s) (h1 : k .curves = false) : t.curves = s.curves := by
  simpa [erase, h1] using congrArg State.curves h
theorem erase_keeps_generations {k : Fld → Bool} {s t : State} (h : erase k t = erase k s) (h1 : k .generations = false) : t.generations = s.generations := by
  simpa [erase, h1] using congrArg State.generations h
theorem erase_keeps_roster {k : Fld → Bool} {s t : State} (h : erase k t = erase k s) (h1 : k .roster = false) : t.roster = s.roster := by
  simpa [erase, h1] using congrArg State.roster h
theorem erase_keeps_floorLimit {k : Fld → Bool} {s t : State} (h : erase k t = erase k s) (h1 : k .floorLimit = false) : t.floorLimit = s.floorLimit := by
  simpa [erase, h1] using congrArg State.floorLimit h
theorem erase_keeps_floorPolicy {k : Fld → Bool} {s t : State} (h : erase k t = erase k s) (h1 : k .floorPolicy = false) : t.floorPolicy = s.floorPolicy := by
  simpa [erase, h1] using congrArg State.floorPolicy h
theorem erase_keeps_pageA {k : Fld → Bool} {s t : State} (h : erase k t = erase k s) (h1 : k .pageA = false) : t.pageA = s.pageA := by
  simpa [erase, h1] using congrArg State.pageA h
theorem erase_keeps_pageB {k : Fld → Bool} {s t : State} (h : erase k t = erase k s) (h1 : k .pageB = false) : t.pageB = s.pageB := by
  simpa [erase, h1] using congrArg State.pageB h
theorem erase_keeps_posting {k : Fld → Bool} {s t : State} (h : erase k t = erase k s) (h1 : k .posting = false) : t.posting = s.posting := by
  simpa [erase, h1] using congrArg State.posting h
theorem erase_keeps_worked {k : Fld → Bool} {s t : State} (h : erase k t = erase k s) (h1 : k .worked = false) : t.worked = s.worked := by
  simpa [erase, h1] using congrArg State.worked h
theorem erase_keeps_suspended {k : Fld → Bool} {s t : State} (h : erase k t = erase k s) (h1 : k .suspended = false) : t.suspended = s.suspended := by
  simpa [erase, h1] using congrArg State.suspended h
theorem erase_keeps_lift {k : Fld → Bool} {s t : State} (h : erase k t = erase k s) (h1 : k .lift = false) : t.lift = s.lift := by
  simpa [erase, h1] using congrArg State.lift h
theorem erase_keeps_changeList {k : Fld → Bool} {s t : State} (h : erase k t = erase k s) (h1 : k .changeList = false) : t.changeList = s.changeList := by
  simpa [erase, h1] using congrArg State.changeList h
theorem erase_keeps_writePos {k : Fld → Bool} {s t : State} (h : erase k t = erase k s) (h1 : k .writePos = false) : t.writePos = s.writePos := by
  simpa [erase, h1] using congrArg State.writePos h
theorem erase_keeps_fillCount {k : Fld → Bool} {s t : State} (h : erase k t = erase k s) (h1 : k .fillCount = false) : t.fillCount = s.fillCount := by
  simpa [erase, h1] using congrArg State.fillCount h
theorem erase_keeps_takenCount {k : Fld → Bool} {s t : State} (h : erase k t = erase k s) (h1 : k .takenCount = false) : t.takenCount = s.takenCount := by
  simpa [erase, h1] using congrArg State.takenCount h
theorem erase_keeps_owedCount {k : Fld → Bool} {s t : State} (h : erase k t = erase k s) (h1 : k .owedCount = false) : t.owedCount = s.owedCount := by
  simpa [erase, h1] using congrArg State.owedCount h
theorem erase_keeps_capacity {k : Fld → Bool} {s t : State} (h : erase k t = erase k s) (h1 : k .capacity = false) : t.capacity = s.capacity := by
  simpa [erase, h1] using congrArg State.capacity h
theorem erase_keeps_boardWrites {k : Fld → Bool} {s t : State} (h : erase k t = erase k s) (h1 : k .boardWrites = false) : t.boardWrites = s.boardWrites := by
  simpa [erase, h1] using congrArg State.boardWrites h
theorem erase_keeps_takings {k : Fld → Bool} {s t : State} (h : erase k t = erase k s) (h1 : k .takings = false) : t.takings = s.takings := by
  simpa [erase, h1] using congrArg State.takings h
theorem erase_with_pending {k : Fld → Bool} {s : State} {x : List Instr} (h : k .pending = true) : erase k { s with pending := x } = erase k s := by
  simp only [erase, h, cond_true]
theorem erase_with_part {k : Fld → Bool} {s : State} {x : PartState} (h : k .part = true) : erase k { s with part := x } = erase k s := by
  simp only [erase, h, cond_true]
theorem erase_with_startResult {k : Fld → Bool} {s : State} {x : StartResult} (h : k .startResult = true) : erase k { s with startResult := x } = erase k s := by
  simp only [erase, h, cond_true]
theorem erase_with_causes {k : Fld → Bool} {s : State} {x : BitVec 7} (h : k .causes = true) : erase k { s with causes := x } = erase k s := by
  simp only [erase, h, cond_true]
theorem erase_with_enables {k : Fld → Bool} {s : State} {x : BitVec 7} (h : k .enables = true) : erase k { s with enables := x } = erase k s := by
  simp only [erase, h, cond_true]
theorem erase_with_faultLatch {k : Fld → Bool} {s : State} {x : Option HeldFault} (h : k .faultLatch = true) : erase k { s with faultLatch := x } = erase k s := by
  simp only [erase, h, cond_true]
theorem erase_with_ram {k : Fld → Bool} {s : State} {x : List Host.Cell} (h : k .ram = true) : erase k { s with ram := x } = erase k s := by
  simp only [erase, h, cond_true]
theorem erase_with_badParity {k : Fld → Bool} {s : State} {x : List Nat} (h : k .badParity = true) : erase k { s with badParity := x } = erase k s := by
  simp only [erase, h, cond_true]
theorem erase_with_clearNext {k : Fld → Bool} {s : State} {x : Nat} (h : k .clearNext = true) : erase k { s with clearNext := x } = erase k s := by
  simp only [erase, h, cond_true]
theorem erase_with_held {k : Fld → Bool} {s : State} {x : List HostAccess} (h : k .held = true) : erase k { s with held := x } = erase k s := by
  simp only [erase, h, cond_true]
theorem erase_with_readData {k : Fld → Bool} {s : State} {x : Word} (h : k .readData = true) : erase k { s with readData := x } = erase k s := by
  simp only [erase, h, cond_true]
theorem erase_with_layout {k : Fld → Bool} {s : State} {x : Layout} (h : k .layout = true) : erase k { s with layout := x } = erase k s := by
  simp only [erase, h, cond_true]
theorem erase_with_reads {k : Fld → Bool} {s : State} {x : List ReadWord} (h : k .reads = true) : erase k { s with reads := x } = erase k s := by
  simp only [erase, h, cond_true]
theorem erase_with_linesQuiet {k : Fld → Bool} {s : State} {x : Bool} (h : k .linesQuiet = true) : erase k { s with linesQuiet := x } = erase k s := by
  simp only [erase, h, cond_true]
theorem erase_with_orderQuiet {k : Fld → Bool} {s : State} {x : Bool} (h : k .orderQuiet = true) : erase k { s with orderQuiet := x } = erase k s := by
  simp only [erase, h, cond_true]
theorem erase_with_links {k : Fld → Bool} {s : State} {x : Vector Link 8} (h : k .links = true) : erase k { s with links := x } = erase k s := by
  simp only [erase, h, cond_true]
theorem erase_with_seats {k : Fld → Bool} {s : State} {x : Vector SeatState 512} (h : k .seats = true) : erase k { s with seats := x } = erase k s := by
  simp only [erase, h, cond_true]
theorem erase_with_carriers {k : Fld → Bool} {s : State} {x : Vector (Option Seat) 512} (h : k .carriers = true) : erase k { s with carriers := x } = erase k s := by
  simp only [erase, h, cond_true]
theorem erase_with_clock {k : Fld → Bool} {s : State} {x : Clock} (h : k .clock = true) : erase k { s with clock := x } = erase k s := by
  simp only [erase, h, cond_true]
theorem erase_with_scanPeriod {k : Fld → Bool} {s : State} {x : Nat} (h : k .scanPeriod = true) : erase k { s with scanPeriod := x } = erase k s := by
  simp only [erase, h, cond_true]
theorem erase_with_refreshInterval {k : Fld → Bool} {s : State} {x : Nat} (h : k .refreshInterval = true) : erase k { s with refreshInterval := x } = erase k s := by
  simp only [erase, h, cond_true]
theorem erase_with_scanTimer {k : Fld → Bool} {s : State} {x : Option Clock} (h : k .scanTimer = true) : erase k { s with scanTimer := x } = erase k s := by
  simp only [erase, h, cond_true]
theorem erase_with_pass {k : Fld → Bool} {s : State} {x : Option Nat} (h : k .pass = true) : erase k { s with pass := x } = erase k s := by
  simp only [erase, h, cond_true]
theorem erase_with_refreshPass {k : Fld → Bool} {s : State} {x : Bool} (h : k .refreshPass = true) : erase k { s with refreshPass := x } = erase k s := by
  simp only [erase, h, cond_true]
theorem erase_with_countdown {k : Fld → Bool} {s : State} {x : Nat} (h : k .countdown = true) : erase k { s with countdown := x } = erase k s := by
  simp only [erase, h, cond_true]
theorem erase_with_passCount {k : Fld → Bool} {s : State} {x : Word} (h : k .passCount = true) : erase k { s with passCount := x } = erase k s := by
  simp only [erase, h, cond_true]
theorem erase_with_lateCount {k : Fld → Bool} {s : State} {x : Nat} (h : k .lateCount = true) : erase k { s with lateCount := x } = erase k s := by
  simp only [erase, h, cond_true]
theorem erase_with_classes {k : Fld → Bool} {s : State} {x : Option (Vector WarningClass 4)} (h : k .classes = true) : erase k { s with classes := x } = erase k s := by
  simp only [erase, h, cond_true]
theorem erase_with_curves {k : Fld → Bool} {s : State} {x : Option (Vector Curve 4)} (h : k .curves = true) : erase k { s with curves := x } = erase k s := by
  simp only [erase, h, cond_true]
theorem erase_with_generations {k : Fld → Bool} {s : State} {x : Vector Word 4} (h : k .generations = true) : erase k { s with generations := x } = erase k s := by
  simp only [erase, h, cond_true]
theorem erase_with_roster {k : Fld → Bool} {s : State} {x : List Seat} (h : k .roster = true) : erase k { s with roster := x } = erase k s := by
  simp only [erase, h, cond_true]
theorem erase_with_floorLimit {k : Fld → Bool} {s : State} {x : Nat} (h : k .floorLimit = true) : erase k { s with floorLimit := x } = erase k s := by
  simp only [erase, h, cond_true]
theorem erase_with_floorPolicy {k : Fld → Bool} {s : State} {x : FloorPolicy} (h : k .floorPolicy = true) : erase k { s with floorPolicy := x } = erase k s := by
  simp only [erase, h, cond_true]
theorem erase_with_pageA {k : Fld → Bool} {s : State} {x : PageState} (h : k .pageA = true) : erase k { s with pageA := x } = erase k s := by
  simp only [erase, h, cond_true]
theorem erase_with_pageB {k : Fld → Bool} {s : State} {x : PageState} (h : k .pageB = true) : erase k { s with pageB := x } = erase k s := by
  simp only [erase, h, cond_true]
theorem erase_with_posting {k : Fld → Bool} {s : State} {x : List Page} (h : k .posting = true) : erase k { s with posting := x } = erase k s := by
  simp only [erase, h, cond_true]
theorem erase_with_worked {k : Fld → Bool} {s : State} {x : Option PageWork} (h : k .worked = true) : erase k { s with worked := x } = erase k s := by
  simp only [erase, h, cond_true]
theorem erase_with_suspended {k : Fld → Bool} {s : State} {x : Option PageWork} (h : k .suspended = true) : erase k { s with suspended := x } = erase k s := by
  simp only [erase, h, cond_true]
theorem erase_with_lift {k : Fld → Bool} {s : State} {x : Option Seat} (h : k .lift = true) : erase k { s with lift := x } = erase k s := by
  simp only [erase, h, cond_true]
theorem erase_with_changeList {k : Fld → Bool} {s : State} {x : List Seat} (h : k .changeList = true) : erase k { s with changeList := x } = erase k s := by
  simp only [erase, h, cond_true]
theorem erase_with_writePos {k : Fld → Bool} {s : State} {x : Nat} (h : k .writePos = true) : erase k { s with writePos := x } = erase k s := by
  simp only [erase, h, cond_true]
theorem erase_with_fillCount {k : Fld → Bool} {s : State} {x : Word} (h : k .fillCount = true) : erase k { s with fillCount := x } = erase k s := by
  simp only [erase, h, cond_true]
theorem erase_with_takenCount {k : Fld → Bool} {s : State} {x : Word} (h : k .takenCount = true) : erase k { s with takenCount := x } = erase k s := by
  simp only [erase, h, cond_true]
theorem erase_with_owedCount {k : Fld → Bool} {s : State} {x : Nat} (h : k .owedCount = true) : erase k { s with owedCount := x } = erase k s := by
  simp only [erase, h, cond_true]
theorem erase_with_capacity {k : Fld → Bool} {s : State} {x : Nat} (h : k .capacity = true) : erase k { s with capacity := x } = erase k s := by
  simp only [erase, h, cond_true]
theorem erase_with_boardWrites {k : Fld → Bool} {s : State} {x : List BoardEntry} (h : k .boardWrites = true) : erase k { s with boardWrites := x } = erase k s := by
  simp only [erase, h, cond_true]
theorem erase_with_takings {k : Fld → Bool} {s : State} {x : Nat} (h : k .takings = true) : erase k { s with takings := x } = erase k s := by
  simp only [erase, h, cond_true]

/-- The fields that `l` lists may change. -/
abbrev Opens (k : Fld → Bool) (l : List Fld) : Prop := ∀ f ∈ l, k f = true

theorem Opens.mono {k : Fld → Bool} {l m : List Fld} (h : Opens k l) (hs : m ⊆ l) : Opens k m := fun f hf => h f (hs hf)

abbrev fRam : List Fld := [.ram, .badParity]
abbrev fFault : List Fld := [.causes, .faultLatch]
abbrev fRead : List Fld := [.causes, .faultLatch, .reads]
abbrev fCount : List Fld := [.links, .ram, .badParity]
abbrev fPub : List Fld := [.seats, .boardWrites]
abbrev fList : List Fld := [.causes, .ram, .badParity, .seats, .changeList, .writePos, .fillCount, .owedCount]
abbrev fTaken : List Fld := .faultLatch :: .takenCount :: fList
abbrev fBoard : List Fld := .boardWrites :: fList

variable {k : Fld → Bool} {s : State}

/-! Flags and RAM -/

theorem erase_raise {c : Cause} (h : Opens k [.causes]) : erase k (s.raise c) = erase k s := erase_with_causes (h _ (by decide))
theorem erase_clearCauses {v : Word} (h : Opens k [.causes]) : erase k (s.clearCauses v) = erase k s :=
  erase_with_causes (h _ (by decide))
theorem erase_recordFault {a : Nat} {x : FaultKind} (h : Opens k fFault) : erase k (s.recordFault a x) = erase k s := by
  simp only [erase, State.recordFault, h .causes (by decide), h .faultLatch (by decide), cond_true]
theorem erase_clearLatch (h : Opens k fFault) : erase k s.clearLatch = erase k s := by
  simp only [erase, State.clearLatch, h .causes (by decide), h .faultLatch (by decide), cond_true]
theorem erase_putWord {a : Nat} {w : Word} (h : Opens k fRam) : erase k (s.putWord a w) = erase k s := by
  simp only [erase, State.putWord, h .ram (by decide), h .badParity (by decide), cond_true]
theorem erase_putWords (h : Opens k fRam) : ∀ (ws : List Word) (a : Nat) (s : State), erase k (s.putWords a ws) = erase k s
  | [], _, _ => rfl
  | _ :: ws, a, _ => (erase_putWords h ws (a + 1) _).trans (erase_putWord h)
theorem erase_readChecked {a : Nat} (h : Opens k fFault) : erase k (s.readChecked a) = erase k s := by
  unfold State.readChecked; split
  · exact erase_recordFault h
  · rfl
theorem erase_readOne {a : Nat} (h : Opens k fRead) : erase k (s.readOne a) = erase k s :=
  (erase_with_reads (h _ (by decide))).trans (erase_readChecked (h.mono (by decide)))
theorem erase_readOn {next : List ReadWord → Option Nat} (h : Opens k fRead) :
    ∀ (n : Nat) (s : State), erase k (s.readOn next n) = erase k s
  | 0, _ => rfl
  | n + 1, s => by
    simp only [State.readOn]; split
    · rfl
    · exact (erase_readOn h n _).trans (erase_readOne h)

/-! Seats, links, carriers, pages -/

theorem erase_setSeat {i : Seat} {x : SeatState} (h : Opens k [.seats]) : erase k (s.setSeat i x) = erase k s :=
  erase_with_seats (h _ (by decide))
theorem erase_setCtx {i : Seat} {x : Context} (h : Opens k [.seats]) : erase k (s.setCtx i x) = erase k s := erase_setSeat h
theorem erase_setMonitors {i : Seat} {x : Vector Monitor 8} (h : Opens k [.seats]) :
    erase k (s.setMonitors i x) = erase k s := erase_setSeat h
theorem erase_setTracker {i : Seat} {x : Tracker} (h : Opens k [.seats]) : erase k (s.setTracker i x) = erase k s :=
  erase_setSeat h
theorem erase_setEstimator {i : Seat} {x : Estimator} (h : Opens k [.seats]) : erase k (s.setEstimator i x) = erase k s :=
  erase_setSeat h
theorem erase_setChannel {i : Seat} {x : MuteChannel} (h : Opens k [.seats]) : erase k (s.setChannel i x) = erase k s :=
  erase_setSeat h
theorem erase_setBoard {i : Seat} {x : BoardSeat} (h : Opens k [.seats]) : erase k (s.setBoard i x) = erase k s :=
  erase_setSeat h
theorem erase_setIntent {i : Seat} {x : Intent} (h : Opens k [.seats]) : erase k (s.setIntent i x) = erase k s :=
  erase_setSeat h
theorem erase_setLink {l : LinkId} {x : Link} (h : Opens k [.links]) : erase k (s.setLink l x) = erase k s :=
  erase_with_links (h _ (by decide))
theorem erase_setCarrier {l : LinkId} {c : Channel} {v : Option Seat} (h : Opens k [.carriers]) :
    erase k (s.setCarrier l c v) = erase k s := erase_with_carriers (h _ (by decide))
theorem erase_setPageState {p : Page} {x : PageState} (h : Opens k [.pageA, .pageB]) :
    erase k (s.setPageState p x) = erase k s := by
  cases p
  · exact erase_with_pageA (h _ (by decide))
  · exact erase_with_pageB (h _ (by decide))
theorem erase_place {i : Seat} (h : Opens k [.links]) : erase k (s.place i) = erase k s := erase_setLink h
theorem erase_withdraw {i : Seat} (h : Opens k [.links]) : erase k (s.withdraw i) = erase k s := erase_setLink h
theorem erase_cancelFrame {i : Seat} (h : Opens k [.links]) : erase k (s.cancelFrame i) = erase k s := erase_setLink h
theorem erase_issue {i : Seat} (h : Opens k [.seats, .links]) : erase k (s.issue i) = erase k s := by
  unfold State.issue; dsimp only
  refine (erase_cancelFrame (h.mono (by decide))).trans ?_
  split
  · exact (erase_place (h.mono (by decide))).trans (erase_setChannel (h.mono (by decide)))
  · exact erase_setChannel (h.mono (by decide))

/-! Header words and statistics -/

theorem erase_writeLinkSummary (h : Opens k fRam) : erase k s.writeLinkSummary = erase k s := erase_putWord h
theorem erase_writeFloorHeader (h : Opens k fRam) : erase k s.writeFloorHeader = erase k s :=
  (erase_putWord h).trans (erase_putWords h _ _ _)
theorem erase_writeClockHeader (h : Opens k fRam) : erase k s.writeClockHeader = erase k s :=
  (erase_putWord h).trans (erase_putWord h)
theorem erase_countLink {l : LinkId} {i : Fin 11} (h : Opens k fCount) : erase k (s.countLink l i) = erase k s := by
  unfold State.countLink; dsimp only; split
  · exact (erase_putWord (h.mono (by decide))).trans (erase_setLink (h.mono (by decide)))
  · rfl
theorem erase_countDiscard {l : LinkId} {i : Fin 11} (h : Opens k fCount) : erase k (s.countDiscard l i) = erase k s := by
  unfold State.countDiscard; dsimp only; split
  · exact erase_countLink h
  · exact ((erase_writeLinkSummary (h.mono (by decide))).trans (erase_setLink (h.mono (by decide)))).trans (erase_countLink h)

/-! Publication and the change list -/

theorem erase_publishChange {i : Seat} (h : Opens k fPub) : erase k (s.publishChange i) = erase k s := by
  unfold State.publishChange; split
  · exact (erase_with_boardWrites (h _ (by decide))).trans (erase_setBoard (h.mono (by decide)))
  · rfl
theorem erase_publishRefresh {i : Seat} (h : Opens k [.boardWrites]) : erase k (s.publishRefresh i) = erase k s := by
  unfold State.publishRefresh; split
  · exact erase_with_boardWrites (h _ (by decide))
  · rfl
theorem erase_foldl {α : Type} {f : State → α → State} (hf : ∀ s a, erase k (f s a) = erase k s) :
    ∀ (l : List α) (s : State), erase k (l.foldl f s) = erase k s
  | [], _ => rfl
  | a :: l, s => (erase_foldl hf l (f s a)).trans (hf s a)
theorem erase_publishVisible {before : State} {is : List Seat} (h : Opens k fPub) :
    erase k (publishVisible before s is) = erase k s := by
  refine erase_foldl (fun t i => ?_) is s
  split
  · rfl
  · exact erase_publishChange h
theorem erase_writeFill (h : Opens k fRam) : erase k s.writeFill = erase k s := erase_putWord h
theorem erase_writeOwed (h : Opens k fRam) : erase k s.writeOwed = erase k s := erase_putWord h
theorem erase_writeTaken (h : Opens k fRam) : erase k s.writeTaken = erase k s := erase_putWord h
theorem erase_appendChange {i : Seat} (h : Opens k fList) : erase k (s.appendChange i) = erase k s := by
  have e : ∀ (t : State) (a : List Seat) (b : Nat) (c : Word),
      erase k { t with changeList := a, writePos := b, fillCount := c } = erase k t := fun t a b c => by
    simp only [erase, h .changeList (by decide), h .writePos (by decide), h .fillCount (by decide), cond_true]
  unfold State.appendChange; dsimp only
  refine (erase_writeFill (h.mono (by decide))).trans ((e _ _ _ _).trans ?_)
  refine (erase_setBoard (h.mono (by decide))).trans ((erase_putWord (h.mono (by decide))).trans ?_)
  split
  · exact erase_raise (h.mono (by decide))
  · rfl
theorem erase_offer {i : Seat} (h : Opens k fList) : erase k (s.offer i) = erase k s := by
  unfold State.offer; dsimp only; split
  · exact erase_setBoard (h.mono (by decide))
  split
  · rfl
  split
  · exact erase_appendChange h
  · exact (erase_writeOwed (h.mono (by decide))).trans
      ((erase_with_owedCount (h _ (by decide))).trans (erase_setBoard (h.mono (by decide))))
theorem erase_owedStep (h : Opens k fList) {t : State} (ht : s.owedStep = some t) : erase k t = erase k s := by
  unfold State.owedStep at ht
  split at ht
  · obtain ⟨i, -, rfl⟩ := Option.map_eq_some_iff.1 ht
    refine (erase_appendChange h).trans ((erase_writeOwed (h.mono (by decide))).trans ?_)
    exact (erase_with_owedCount (s := s.setBoard i _) (h _ (by decide))).trans (erase_setBoard (h.mono (by decide)))
  · cases ht
theorem erase_appendOwed (h : Opens k fList) (n : Nat) (s : State) : erase k (State.appendOwed n s) = erase k s := by
  induction n generalizing s with
  | zero => rfl
  | succ n ih =>
    simp only [State.appendOwed]; split
    · rfl
    · exact (ih _).trans (erase_owedStep h (by assumption))
theorem erase_releaseOne (h : Opens k fList) : erase k s.releaseOne = erase k s := by
  unfold State.releaseOne; split
  · rfl
  dsimp only; split
  · exact (erase_offer h).trans ((erase_with_changeList (h _ (by decide))).trans (erase_setBoard (h.mono (by decide))))
  · exact (erase_with_changeList (h _ (by decide))).trans (erase_setBoard (h.mono (by decide)))
theorem erase_release (h : Opens k fList) : ∀ (n : Nat) (s : State), erase k (State.release n s) = erase k s
  | 0, _ => rfl
  | n + 1, _ => (erase_release h n _).trans (erase_releaseOne h)
theorem erase_notifyChanges (h : Opens k [.causes]) : erase k s.notifyChanges = erase k s := by
  unfold State.notifyChanges; split
  · rfl
  · exact erase_raise h
theorem erase_acceptTaken {v : Word} (h : Opens k fTaken) : erase k (s.acceptTaken v) = erase k s := by
  unfold State.acceptTaken; dsimp only
  generalize (512 : Nat) = n
  refine (erase_notifyChanges (h.mono (by decide))).trans ((erase_appendOwed (h.mono (by decide)) _ _).trans ?_)
  refine (erase_writeTaken (h.mono (by decide))).trans ((erase_with_takenCount (h _ (by decide))).trans ?_)
  refine (erase_release (h.mono (by decide)) _ _).trans ?_
  split
  · exact erase_recordFault (h.mono (by decide))
  · rfl
theorem erase_boardWord {i : Seat} (h : Opens k fBoard) : erase k (s.boardWord i) = erase k s := by
  unfold State.boardWord; split
  · rfl
  dsimp only
  split
  · exact (erase_with_boardWrites (h _ (by decide))).trans
      ((erase_putWord (h.mono (by decide))).trans (erase_setBoard (h.mono (by decide))))
  split
  · exact (erase_offer (h.mono (by decide))).trans ((erase_with_boardWrites (h _ (by decide))).trans
      ((erase_putWord (h.mono (by decide))).trans (erase_setBoard (h.mono (by decide)))))
  · exact (erase_with_boardWrites (h _ (by decide))).trans
      ((erase_putWord (h.mono (by decide))).trans (erase_setBoard (h.mono (by decide))))
theorem erase_askNextWord (h : Opens k [.boardWrites]) : erase k s.askNextWord = erase k s := by
  unfold State.askNextWord; split
  · rfl
  · exact erase_with_boardWrites (h _ (by decide))
theorem erase_boardWords {i : Seat} (h : Opens k fBoard) : ∀ (n : Nat) (s : State), erase k (State.boardWords i n s) = erase k s
  | 0, _ => rfl
  | n + 1, _ => (erase_boardWords h n _).trans (erase_boardWord h)
theorem erase_finishBoardWrite {i : Seat} (h : Opens k fBoard) : erase k (s.finishBoardWrite i) = erase k s := by
  unfold State.finishBoardWrite; split
  · rfl
  · exact erase_boardWords h _ _
theorem erase_settleChangeList {c : Nat} (h : Opens k (.capacity :: fList)) : erase k (s.settleChangeList c) = erase k s := by
  have e1 : ∀ (t : State) (n : Nat), erase k (t.dropOutOfRange n) = erase k t := fun t n => by
    simp only [erase, State.dropOutOfRange, h .seats (by decide), h .changeList (by decide), h .owedCount (by decide), cond_true]
  have e2 : ∀ (t : State) (n : Nat), erase k (t.dropOverflow n) = erase k t := fun t n => by
    simp only [erase, State.dropOverflow, h .seats (by decide), h .changeList (by decide), h .owedCount (by decide), cond_true]
  have e3 : ∀ (t : State) (a b : Nat) (c : Word),
      erase k { t with capacity := a, writePos := b, fillCount := c } = erase k t := fun t a b c => by
    simp only [erase, h .capacity (by decide), h .writePos (by decide), h .fillCount (by decide), cond_true]
  unfold State.settleChangeList; dsimp only
  generalize (512 : Nat) = n
  refine (erase_notifyChanges (h.mono (by decide))).trans ((erase_writeTaken (h.mono (by decide))).trans
    ((erase_writeOwed (h.mono (by decide))).trans ((erase_writeFill (h.mono (by decide))).trans
    ((erase_appendOwed (h.mono (by decide)) _ _).trans ?_))))
  exact (e3 _ _ _ _).trans ((erase_putWords (h.mono (by decide)) _ _ _).trans ((e2 _ _).trans (e1 _ _)))

end Sys2Proof.Machine
end

