-- ==== Sys2Proof/Laws/BlockFrames.lean ====
section
/-! SUPPORT. The frames of the blocks' operations: monitors, tracker, estimator, floor, links, seats, pages, orders. -/

namespace Sys2Proof.Machine

variable {k : Fld → Bool} {s : State}

/-! One seat's values -/

theorem erase_clearMonitors {i : Seat} (h : Opens k [.seats]) : erase k (s.clearMonitors i) = erase k s := erase_setMonitors h
theorem erase_clearBatteryMonitors {i : Seat} (h : Opens k [.seats]) : erase k (s.clearBatteryMonitors i) = erase k s :=
  erase_setMonitors h
theorem erase_acknowledgeSeat {i : Seat} {m : Byte} (h : Opens k fPub) : erase k (s.acknowledgeSeat i m) = erase k s :=
  (erase_publishVisible h).trans (erase_setMonitors (h.mono (by decide)))
theorem erase_seatStoreWork {i : Seat} {b : Bool} (h : Opens k [.seats]) : erase k (s.seatStoreWork i b) = erase k s :=
  erase_setCtx h
theorem erase_signalWork {i : Seat} {b : Bool} (h : Opens k [.seats]) : erase k (s.signalWork i b) = erase k s :=
  erase_setTracker h
theorem erase_restartEstimator {i : Seat} (h : Opens k [.seats]) : erase k (s.restartEstimator i) = erase k s :=
  (erase_clearBatteryMonitors h).trans (erase_setEstimator h)
theorem erase_generationCheck {i : Seat} (h : Opens k [.seats]) : erase k (s.generationCheck i) = erase k s := by
  unfold State.generationCheck; split
  · rfl
  · exact erase_restartEstimator h
theorem erase_batteryWork {i : Seat} {b : Bool} (h : Opens k [.seats]) : erase k (s.batteryWork i b) = erase k s :=
  (erase_setEstimator h).trans (erase_generationCheck h)
theorem erase_batteryArrival {i : Seat} {f b : Bool} {r : Nat} (h : Opens k [.seats]) :
    erase k (s.batteryArrival i f b r) = erase k s := by
  unfold State.batteryArrival; dsimp only; split
  · exact (erase_clearBatteryMonitors h).trans (erase_setEstimator h)
  · exact erase_setEstimator h

/-! Floor and mute channels -/

theorem erase_leaveRoster {i : Seat} (h : Opens k [.roster, .seats]) : erase k (s.leaveRoster i) = erase k s :=
  (erase_setIntent (h.mono (by decide))).trans (erase_with_roster (h _ (by decide)))
theorem erase_takeFloor {i : Seat} (h : Opens k [.roster, .seats, .links]) : erase k (s.takeFloor i) = erase k s :=
  (erase_issue (h.mono (by decide))).trans (erase_leaveRoster (h.mono (by decide)))
theorem erase_giveFloor {i : Seat} (h : Opens k [.roster, .seats, .links]) : erase k (s.giveFloor i) = erase k s :=
  (erase_issue (h.mono (by decide))).trans ((erase_setIntent (h.mono (by decide))).trans (erase_with_roster (h _ (by decide))))
theorem erase_muteArrival {i : Seat} {f m : Bool} (h : Opens k [.seats, .links]) :
    erase k (s.muteArrival i f m) = erase k s := by
  unfold State.muteArrival; dsimp only; split
  · exact (erase_setChannel (h.mono (by decide))).trans (erase_issue h)
  · exact erase_setChannel (h.mono (by decide))
theorem erase_muteCompletion {i : Seat} (h : Opens k [.seats]) : erase k (s.muteCompletion i) = erase k s := by
  unfold State.muteCompletion; dsimp only; split
  · exact erase_setChannel h
  · rfl
theorem erase_deadlineCheck {i : Seat} (h : Opens k [.seats, .links]) : erase k (s.deadlineCheck i) = erase k s := by
  unfold State.deadlineCheck; dsimp only; split
  · split
    · split
      · exact (erase_place (h.mono (by decide))).trans (erase_setChannel (h.mono (by decide)))
      · exact erase_setChannel (h.mono (by decide))
    · exact erase_setChannel (h.mono (by decide))
  · rfl

/-! Links -/

abbrev fHeard : List Fld := [.links, .causes, .ram, .badParity]

theorem erase_linkHeard {l : LinkId} (h : Opens k fHeard) : erase k (s.linkHeard l) = erase k s := by
  unfold State.linkHeard; dsimp only; split
  · exact (erase_writeLinkSummary (h.mono (by decide))).trans
      ((erase_raise (h.mono (by decide))).trans (erase_setLink (h.mono (by decide))))
  · exact erase_setLink (h.mono (by decide))
  · rfl
theorem erase_goodFrame {l : LinkId} {r : Run} (h : Opens k fHeard) : erase k (s.goodFrame l r) = erase k s := by
  unfold State.goodFrame; dsimp only
  refine (erase_linkHeard h).trans ?_
  split
  · exact (erase_setLink (h.mono (by decide))).trans (erase_countLink (h.mono (by decide)))
  · exact erase_countLink (h.mono (by decide))
theorem erase_endRun {l : LinkId} (h : Opens k fHeard) : erase k (s.endRun l) = erase k s := by
  unfold State.endRun; dsimp only; split
  · exact (erase_countDiscard (h.mono (by decide))).trans (erase_setLink (h.mono (by decide)))
  · exact (erase_goodFrame h).trans (erase_setLink (h.mono (by decide)))
theorem erase_gapOn {l : LinkId} (h : Opens k fHeard) : erase k (s.gapOn l) = erase k s := by
  unfold State.gapOn; split
  · exact erase_setLink (h.mono (by decide))
  · rfl
  · exact erase_endRun h
  · exact erase_endRun h
theorem erase_linkLost {l : LinkId} (h : Opens k fHeard) : erase k (s.linkLost l) = erase k s :=
  (erase_writeLinkSummary (h.mono (by decide))).trans
    ((erase_raise (h.mono (by decide))).trans (erase_setLink (h.mono (by decide))))
theorem erase_transmit {l : LinkId} (h : Opens k [.links]) : erase k (s.transmit l) = erase k s := by
  unfold State.transmit; dsimp only; split
  · exact erase_setLink h
  · rfl
theorem erase_completeFrame {l : LinkId} (h : Opens k [.links, .seats, .boardWrites]) :
    erase k (s.completeFrame l) = erase k s := by
  unfold State.completeFrame; split
  · dsimp only; split
    · exact erase_setLink (h.mono (by decide))
    · exact (erase_publishVisible (h.mono (by decide))).trans
        ((erase_muteCompletion (h.mono (by decide))).trans (erase_setLink (h.mono (by decide))))
  · rfl
theorem erase_quietLines (h : Opens k [.links, .linesQuiet, .ram, .badParity]) : erase k s.quietLines = erase k s := by
  unfold State.quietLines; split
  · refine (erase_writeLinkSummary (h.mono (by decide))).trans ?_
    simp only [erase, h .links (by decide), h .linesQuiet (by decide), cond_true]
  · rfl
theorem erase_endSpacing {l : LinkId} (h : Opens k [.links, .linesQuiet, .ram, .badParity]) :
    erase k (s.endSpacing l) = erase k s := by
  unfold State.endSpacing; split
  · exact (erase_quietLines h).trans (erase_setLink (h.mono (by decide)))
  · rfl
theorem erase_writeCounters (h : Opens k fRam) : erase k s.writeCounters = erase k s :=
  erase_foldl (fun _ _ => erase_putWords h _ _ _) _ _
theorem erase_placeSending (h : Opens k [.links]) : erase k s.placeSending = erase k s := by
  refine erase_foldl (fun t i => ?_) _ _
  split
  · exact erase_place h
  · rfl
theorem erase_startLinks (h : Opens k fCount) : erase k s.startLinks = erase k s :=
  (erase_placeSending (h.mono (by decide))).trans ((erase_writeLinkSummary (h.mono (by decide))).trans
    ((erase_writeCounters (h.mono (by decide))).trans (erase_with_links (h _ (by decide)))))
theorem erase_takeLinkSetup {v : Vector LinkSetup 8} (h : Opens k [.links]) : erase k (s.takeLinkSetup v) = erase k s :=
  erase_with_links (h _ (by decide))
theorem erase_clearLinkCounts {l : LinkId} (h : Opens k fCount) : erase k (s.clearLinkCounts l) = erase k s :=
  (erase_putWords (h.mono (by decide)) _ _ _).trans (erase_setLink (h.mono (by decide)))
theorem erase_clearMaskedCounts {m : Byte} (h : Opens k fCount) : erase k (s.clearMaskedCounts m) = erase k s := by
  unfold State.clearMaskedCounts; dsimp only; split
  · rfl
  · refine (erase_writeLinkSummary (h.mono (by decide))).trans (erase_foldl (fun t l => ?_) _ _)
    split
    · exact erase_clearLinkCounts h
    · rfl

/-! Seats -/

abbrev fInit : List Fld := [.roster, .seats, .links]
abbrev fLoad : List Fld := [.roster, .seats, .links, .carriers, .ram, .badParity, .boardWrites]

theorem erase_reinitialise {i : Seat} (h : Opens k fInit) : erase k (s.reinitialise i) = erase k s := by
  unfold State.reinitialise; dsimp only
  exact (erase_setCtx (h.mono (by decide))).trans ((erase_setTracker (h.mono (by decide))).trans
    ((erase_clearMonitors (h.mono (by decide))).trans ((erase_restartEstimator (h.mono (by decide))).trans
    ((erase_withdraw (h.mono (by decide))).trans (erase_leaveRoster (h.mono (by decide)))))))
theorem erase_freeCarrier {i : Seat} (h : Opens k [.carriers]) : erase k (s.freeCarrier i) = erase k s := by
  unfold State.freeCarrier; dsimp only; split
  · exact erase_setCarrier h
  · rfl
theorem erase_recordGeneration {i : Seat} (h : Opens k [.seats]) : erase k (s.recordGeneration i) = erase k s :=
  erase_setEstimator h
theorem erase_floorHeaderIfChanged {t : State} (h : Opens k fRam) : erase k (floorHeaderIfChanged t s) = erase k s := by
  unfold floorHeaderIfChanged; split
  · rfl
  · exact erase_writeFloorHeader h
theorem erase_applyRecord {i : Seat} {r : SeatRecord} (h : Opens k fLoad) : erase k (s.applyRecord i r) = erase k s := by
  unfold State.applyRecord; dsimp only
  refine (erase_publishChange (h.mono (by decide))).trans ((erase_floorHeaderIfChanged (h.mono (by decide))).trans ?_)
  split
  · refine (erase_issue (h.mono (by decide))).trans ((erase_setIntent (h.mono (by decide))).trans
      ((erase_recordGeneration (h.mono (by decide))).trans ((erase_setCarrier (h.mono (by decide))).trans
      ((erase_setCtx (h.mono (by decide))).trans ((erase_freeCarrier (h.mono (by decide))).trans
      (erase_reinitialise (h.mono (by decide))))))))
  · refine (erase_setChannel (h.mono (by decide))).trans
      ((erase_recordGeneration (h.mono (by decide))).trans
      ((erase_setCtx (h.mono (by decide))).trans ((erase_freeCarrier (h.mono (by decide))).trans
      (erase_reinitialise (h.mono (by decide))))))
theorem erase_retire {i : Seat} (h : Opens k [.roster, .seats, .links, .carriers]) : erase k (s.retire i) = erase k s := by
  unfold State.retire; dsimp only
  exact (erase_setChannel (h.mono (by decide))).trans ((erase_setCtx (h.mono (by decide))).trans
    ((erase_freeCarrier (h.mono (by decide))).trans (erase_reinitialise (h.mono (by decide)))))
theorem erase_acceptReport {i : Seat} {r : Report} (h : Opens k [.seats, .links]) :
    erase k (s.acceptReport i r) = erase k s := by
  unfold State.acceptReport; dsimp only
  exact (erase_muteArrival h).trans ((erase_batteryArrival (h.mono (by decide))).trans
    ((erase_setTracker (h.mono (by decide))).trans (erase_setCtx (h.mono (by decide)))))

abbrev fReport : List Fld := [.links, .ram, .badParity, .seats, .boardWrites]

theorem erase_judgeReport {l : LinkId} {r : Report} (h : Opens k fReport) : erase k (s.judgeReport l r) = erase k s := by
  unfold State.judgeReport; split
  · exact erase_countDiscard (h.mono (by decide))
  split
  · exact (erase_publishVisible (h.mono (by decide))).trans (erase_acceptReport (h.mono (by decide)))
  · dsimp only
    exact (erase_setCtx (h.mono (by decide))).trans (erase_countDiscard (h.mono (by decide)))
theorem erase_takeReport {l : LinkId} (h : Opens k fReport) : erase k (s.takeReport l) = erase k s := by
  unfold State.takeReport; split
  · rfl
  · exact (erase_judgeReport h).trans (erase_setLink (h.mono (by decide)))

/-! Pages -/

abbrev fPageState : List Fld := [.pageA, .pageB, .ram, .badParity]
abbrev fTake : List Fld := [.pageA, .pageB, .ram, .badParity, .posting, .causes, .faultLatch, .worked, .reads, .takings]
abbrev fFinish : List Fld := [.ram, .badParity, .worked, .lift, .reads]
abbrev fEnd : List Fld := .suspended :: .orderQuiet :: .lift :: fTake

theorem erase_writePageState {p : Page} {x : PageState} (h : Opens k fPageState) :
    erase k (s.writePageState p x) = erase k s :=
  (erase_putWord (h.mono (by decide))).trans (erase_setPageState (h.mono (by decide)))
theorem erase_writeSummary {p : Page} {x : Summary} (h : Opens k fRam) : erase k (s.writeSummary p x) = erase k s :=
  erase_putWord h
theorem erase_writeProgress {p : Page} {n : Nat} (h : Opens k fRam) : erase k (s.writeProgress p n) = erase k s :=
  erase_putWord h
theorem erase_writeResult {p : Page} {n : Nat} {c : ResultCode} {a b : Word} (h : Opens k fRam) :
    erase k (s.writeResult p n c a b) = erase k s := erase_putWords h _ _ _
theorem erase_takeHead (h : Opens k fTake) : erase k s.takeHead = erase k s := by
  have e : ∀ (t : State) (a : Option PageWork) (n : Nat) (b : List ReadWord),
      erase k { t with worked := a, takings := n, reads := b } = erase k t :=
    fun t a n b => by simp only [erase, h .worked (by decide), h .reads (by decide), h .takings (by decide), cond_true]
  unfold State.takeHead; split
  · rfl
  dsimp only
  exact (e _ _ _ _).trans ((erase_readChecked (h.mono (by decide))).trans ((erase_writePageState (h.mono (by decide))).trans
    ((erase_writeProgress (h.mono (by decide))).trans ((erase_writeSummary (h.mono (by decide))).trans
    (erase_with_posting (h _ (by decide)))))))
theorem erase_takeIfFree (h : Opens k fTake) : erase k s.takeIfFree = erase k s := by
  unfold State.takeIfFree; split
  · exact erase_takeHead h
  · rfl
theorem erase_beginSlot {w : PageWork} (h : Opens k [.ram, .badParity, .worked, .reads]) :
    erase k (s.beginSlot w) = erase k s := by
  have e : ∀ (t : State) (a : Option PageWork) (b : List ReadWord), erase k { t with worked := a, reads := b } = erase k t :=
    fun t a b => by simp only [erase, h .worked (by decide), h .reads (by decide), cond_true]
  unfold State.beginSlot; split
  · rfl
  · exact (e _ _ _).trans (erase_writeProgress (h.mono (by decide)))
theorem erase_finishOrder {w : PageWork} {e : OrderEnd} (h : Opens k fFinish) : erase k (s.finishOrder w e) = erase k s := by
  have e' : ∀ (t : State) (a : Option PageWork) (l : Option Seat) (b : List ReadWord),
      erase k { t with worked := a, lift := l, reads := b } = erase k t :=
    fun t a l b => by simp only [erase, h .worked (by decide), h .lift (by decide), h .reads (by decide), cond_true]
  exact (e' _ _ _ _).trans (erase_writeResult (h.mono (by decide)))
theorem erase_startBulk {w : PageWork} {b : Bulk} (h : Opens k [.worked, .reads]) : erase k (s.startBulk w b) = erase k s := by
  simp only [erase, State.startBulk, h .worked (by decide), h .reads (by decide), cond_true]
theorem erase_cutBulk {w : PageWork} {b : Bulk} {x : Summary} (h : Opens k fFinish) :
    erase k (s.cutBulk w b x) = erase k s := erase_finishOrder h
theorem erase_boundaryCut {w : PageWork} {b : Bulk} {t : State} (h : Opens k fFinish) (ht : s.boundaryCut w b = some t) :
    erase k t = erase k s := by
  unfold State.boundaryCut at ht
  split at ht
  · cases ht; exact erase_cutBulk h
  split at ht
  · cases ht; exact erase_cutBulk h
  · cases ht
theorem erase_suspend {w : PageWork} {b : Bulk} (h : Opens k (.suspended :: fTake)) : erase k (s.suspend w b) = erase k s := by
  have e : ∀ (t : State) (a c : Option PageWork), erase k { t with suspended := a, worked := c } = erase k t :=
    fun t a b => by simp only [erase, h .worked (by decide), h .suspended (by decide), cond_true]
  unfold State.suspend; dsimp only
  exact (erase_takeHead (h.mono (by decide))).trans ((e _ _ _).trans (erase_putWord (h.mono (by decide))))
theorem erase_resume (h : Opens k (.suspended :: fFinish)) : erase k s.resume = erase k s := by
  have e : ∀ (t : State) (a c : Option PageWork), erase k { t with worked := a, suspended := c } = erase k t :=
    fun t a b => by simp only [erase, h .worked (by decide), h .suspended (by decide), cond_true]
  unfold State.resume; split
  · rfl
  rename_i v _
  have e1 : erase k { s.writeSummary v.page .complete with worked := some v, suspended := none } = erase k s :=
    (e _ _ _).trans (erase_writeSummary (h.mono (by decide)))
  dsimp only; split
  · exact e1
  · rename_i b _
    cases hc : State.boundaryCut { s.writeSummary v.page .complete with worked := some v, suspended := none } v b with
    | none => exact e1
    | some t => exact (erase_boundaryCut (h.mono (by decide)) hc).trans e1
theorem erase_quietOrders (h : Opens k [.orderQuiet]) : erase k s.quietOrders = erase k s :=
  erase_with_orderQuiet (h _ (by decide))
theorem erase_skipSlots {w : PageWork} (h : Opens k fRam) : erase k (s.skipSlots w) = erase k s :=
  erase_foldl (fun _ _ => erase_writeResult h) _ _
theorem erase_endPage {w : PageWork} {x : Summary} (h : Opens k fEnd) : erase k (s.endPage w x) = erase k s := by
  have e : ∀ (t : State) (a : Option PageWork) (l : Option Seat) (b : List ReadWord),
      erase k { t with worked := a, lift := l, reads := b } = erase k t :=
    fun t a l b => by simp only [erase, h .worked (by decide), h .lift (by decide), h .reads (by decide), cond_true]
  unfold State.endPage; dsimp only
  refine (erase_quietOrders (h.mono (by decide))).trans ?_
  split
  · exact (erase_resume (h.mono (by decide))).trans ((e _ _ _ _).trans ((erase_raise (h.mono (by decide))).trans
      ((erase_writePageState (h.mono (by decide))).trans ((erase_writeSummary (h.mono (by decide))).trans
      ((erase_writeProgress (h.mono (by decide))).trans (erase_skipSlots (h.mono (by decide))))))))
  · exact (erase_takeIfFree (h.mono (by decide))).trans ((e _ _ _ _).trans ((erase_raise (h.mono (by decide))).trans
      ((erase_writePageState (h.mono (by decide))).trans ((erase_writeSummary (h.mono (by decide))).trans
      ((erase_writeProgress (h.mono (by decide))).trans (erase_skipSlots (h.mono (by decide))))))))

abbrev fJudge : List Fld := [.pageA, .pageB, .ram, .badParity, .posting, .causes, .faultLatch]

theorem erase_judgePageState {p : Page} {v : Word} (h : Opens k fJudge) : erase k (s.judgePageState p v) = erase k s := by
  unfold State.judgePageState; split
  · exact (erase_with_posting (h _ (by decide))).trans (erase_writePageState (h.mono (by decide)))
  · exact (erase_with_posting (h _ (by decide))).trans (erase_writePageState (h.mono (by decide)))
  · exact erase_writePageState (h.mono (by decide))
  · exact erase_writePageState (h.mono (by decide))
  · exact erase_recordFault (h.mono (by decide))
theorem erase_stopOrders (h : Opens k [.lift, .orderQuiet]) : erase k s.stopOrders = erase k s := by
  simp only [erase, State.stopOrders, State.quietOrders, h .lift (by decide), h .orderQuiet (by decide), cond_true]
theorem erase_startOrders {a b : PageState} (h : Opens k (.suspended :: .lift :: fTake)) :
    erase k (s.startOrders a b) = erase k s := by
  have e : ∀ (t : State) (p : List Page) (w v : Option PageWork) (l : Option Seat) (r : List ReadWord),
      erase k { t with posting := p, worked := w, suspended := v, lift := l, reads := r } = erase k t :=
    fun t p w v l r => by
      simp only [erase, h .posting (by decide), h .worked (by decide), h .suspended (by decide), h .lift (by decide),
        h .reads (by decide), cond_true]
  exact (e _ _ _ _ _ _).trans ((erase_writePageState (h.mono (by decide))).trans (erase_writePageState (h.mono (by decide))))

/-! Orders -/

abbrev fSlot : List Fld := [.ram, .badParity, .causes, .faultLatch, .worked, .lift, .reads]

theorem erase_enterSlot {w : PageWork} (h : Opens k fSlot) : erase k (s.enterSlot w) = erase k s :=
  (erase_readOn (h.mono (by decide)) _ _).trans (erase_beginSlot (h.mono (by decide)))
theorem erase_workEntered {work : PageWork → Slot → State → State × Option OrderEnd} {w : PageWork} (h : Opens k fFinish)
    (hw : ∀ w o t, erase k (work w o t).1 = erase k t) : erase k (workEntered work w s) = erase k s := by
  unfold workEntered; dsimp only
  split
  · exact erase_finishOrder h
  split
  · exact erase_finishOrder h
  split <;> rename_i heq
  · exact (erase_finishOrder h).trans ((congrArg (fun p => erase k p.1) heq).symm.trans (hw _ _ _))
  · exact (congrArg (fun p => erase k p.1) heq).symm.trans (hw _ _ _)
/-- Working a slot changes what the slot's own bookkeeping may change, and what the order's work changes. -/
theorem erase_workSlot {takes : Word → Bool} {work : PageWork → Slot → State → State × Option OrderEnd} (h : Opens k fSlot)
    (hw : ∀ w o t, erase k (work w o t).1 = erase k t) : erase k (workSlot takes work s) = erase k s := by
  unfold workSlot; split
  · rfl
  split
  · exact (erase_workEntered (h.mono (by decide)) hw).trans (erase_enterSlot h)
  · rfl
theorem erase_workOrder {kind : Word} {work : Slot → State → State × OrderEnd} (h : Opens k fSlot)
    (hw : ∀ o t, erase k (work o t).1 = erase k t) : erase k (workOrder kind work s) = erase k s :=
  erase_workSlot h fun _ o t => hw o t
theorem erase_replaceStores {a : Vector WarningClass 4} {b : Vector Curve 4} (h : Opens k [.classes, .curves, .generations]) :
    erase k (s.replaceStores a b) = erase k s := by
  simp only [erase, State.replaceStores, h .classes (by decide), h .curves (by decide), h .generations (by decide), cond_true]
theorem erase_reloadWork {o : Slot} (h : Opens k [.classes, .curves, .generations]) :
    erase k (reloadWork o s).1 = erase k s := by
  unfold reloadWork; dsimp only; split
  · rfl
  · exact erase_replaceStores h
theorem erase_onActiveSeat {o : Slot} {work : Seat → State × OrderEnd} (hw : ∀ i, erase k (work i).1 = erase k s) :
    erase k (onActiveSeat o s work).1 = erase k s := by
  unfold onActiveSeat; split
  · rfl
  split
  · exact hw _
  · rfl
theorem erase_acknowledgeWork {o : Slot} (h : Opens k fPub) : erase k (acknowledgeWork o s).1 = erase k s :=
  erase_onActiveSeat fun _ => erase_acknowledgeSeat h
theorem erase_resetWarningsWork {o : Slot} (h : Opens k fPub) : erase k (resetWarningsWork o s).1 = erase k s := by
  refine erase_onActiveSeat fun i => ?_
  split
  · rfl
  · exact (erase_publishVisible h).trans (erase_clearMonitors (h.mono (by decide)))
theorem erase_restartEstimatorWork {o : Slot} (h : Opens k fPub) : erase k (restartEstimatorWork o s).1 = erase k s :=
  erase_onActiveSeat fun _ => (erase_publishVisible h).trans (erase_restartEstimator (h.mono (by decide)))
theorem erase_loadSeatWork {o : Slot} (h : Opens k fLoad) : erase k (loadSeatWork o s).1 = erase k s := by
  unfold loadSeatWork; split
  · rfl
  split
  · rfl
  dsimp only; split
  · rfl
  split
  · rfl
  split
  · rfl
  · exact erase_applyRecord h
theorem erase_loadRangeWork {w : PageWork} {o : Slot} (h : Opens k [.worked, .reads]) :
    erase k (loadRangeWork w o s).1 = erase k s := by
  unfold loadRangeWork; dsimp only; split
  · rfl
  split
  · rfl
  · exact erase_startBulk h
theorem erase_acknowledgeAllWork {w : PageWork} {o : Slot} (h : Opens k [.worked, .reads]) :
    erase k (acknowledgeAllWork w o s).1 = erase k s := by
  unfold acknowledgeAllWork; split
  · rfl
  · exact erase_startBulk h
theorem erase_readRecord {i : Seat} (h : Opens k fRead) : erase k (s.readRecord i) = erase k s := erase_readOn h _ _

abbrev fRange : List Fld := .causes :: .faultLatch :: .reads :: fLoad

theorem erase_judgeOneOfRange {i : Seat} {b : Bulk} (h : Opens k fLoad) : erase k (judgeOneOfRange i (s, b)).1 = erase k s := by
  unfold judgeOneOfRange; dsimp only; split
  · rfl
  split
  · rfl
  · exact erase_applyRecord h
theorem erase_loadOneOfRange {i : Seat} {b : Bulk} (h : Opens k fRange) : erase k (loadOneOfRange i (s, b)).1 = erase k s := by
  unfold loadOneOfRange; dsimp only
  refine (erase_with_reads (h _ (by decide))).trans ?_
  split
  · rfl
  · exact (erase_judgeOneOfRange (h.mono (by decide))).trans (erase_readRecord (h.mono (by decide)))
theorem erase_ackOneOfAll {m : Byte} {i : Seat} {b : Bulk} (h : Opens k fPub) :
    erase k (ackOneOfAll m i (s, b)).1 = erase k s := by
  unfold ackOneOfAll; dsimp only; split
  · exact erase_acknowledgeSeat h
  · rfl
theorem erase_bulkSeat {n : Nat} (h : Opens k fRange) (p : State × Bulk) : erase k (bulkSeat p n).1 = erase k p.1 := by
  obtain ⟨s, b⟩ := p
  unfold bulkSeat; split
  · rfl
  split
  · exact erase_loadOneOfRange h
  · exact erase_ackOneOfAll (h.mono (by decide))
theorem erase_foldlBulk (h : Opens k fRange) : ∀ (l : List Nat) (p : State × Bulk),
    erase k (l.foldl bulkSeat p).1 = erase k p.1
  | [], _ => rfl
  | n :: l, p => (erase_foldlBulk h l (bulkSeat p n)).trans (erase_bulkSeat h p)
theorem erase_slice {b : Bulk} (h : Opens k fRange) : erase k (s.slice b).1 = erase k s := erase_foldlBulk h _ _
theorem erase_workSlice {w : PageWork} {b : Bulk} (h : Opens k (.worked :: .lift :: fRange)) :
    erase k (s.workSlice w b) = erase k s := by
  unfold State.workSlice; dsimp only; split
  · exact (erase_finishOrder (h.mono (by decide))).trans (erase_slice (h.mono (by decide)))
  · exact (erase_with_worked (h _ (by decide))).trans (erase_slice (h.mono (by decide)))

abbrev fSlice : List Fld := [.worked, .lift, .causes, .faultLatch, .reads, .roster, .seats, .links, .carriers, .ram,
  .badParity, .boardWrites, .suspended, .pageA, .pageB, .posting, .takings]

theorem erase_bulkOn {w : PageWork} {b : Bulk} (h : Opens k fSlice) : erase k (s.bulkOn w b) = erase k s := by
  unfold State.bulkOn; split
  · split
    · exact erase_boundaryCut (h.mono (by decide)) (by assumption)
    split
    · exact erase_suspend (h.mono (by decide))
    · exact (erase_workSlice (h.mono (by decide))).trans (erase_with_reads (h _ (by decide)))
  · exact erase_workSlice (h.mono (by decide))
theorem erase_rangeWork {w : PageWork} {b : Bulk} {t : State} (h : Opens k (.worked :: fRange))
    (ht : s.rangeWork w b = some t) : erase k t = erase k s := by
  have e : ∀ (t : State) (a : Option PageWork) (b : List ReadWord), erase k { t with worked := a, reads := b } = erase k t :=
    fun t a b => by simp only [erase, h .worked (by decide), h .reads (by decide), cond_true]
  unfold State.rangeWork at ht
  split at ht
  · cases ht; exact (erase_with_worked (h _ (by decide))).trans (erase_bulkSeat (h.mono (by decide)) (s, b))
  split at ht
  · cases ht; exact e _ _ _
  · cases ht
theorem erase_orderWork {t : State} (h : Opens k (.worked :: fRange)) (ht : s.orderWork = some t) : erase k t = erase k s := by
  unfold State.orderWork at ht
  split at ht
  · cases ht
  split at ht
  · cases ht
  split at ht
  · exact erase_rangeWork h ht
  · cases ht

abbrev fFloor : List Fld := [.roster, .seats, .links, .ram, .badParity, .boardWrites]

theorem erase_grantFloorWork {o : Slot} (h : Opens k fFloor) : erase k (grantFloorWork o s).1 = erase k s := by
  unfold grantFloorWork; split
  · rfl
  split
  · rfl
  split
  · rfl
  split
  · exact (erase_publishVisible (h.mono (by decide))).trans ((erase_writeFloorHeader (h.mono (by decide))).trans
      (erase_giveFloor (h.mono (by decide))))
  split
  · exact (erase_publishVisible (h.mono (by decide))).trans ((erase_writeFloorHeader (h.mono (by decide))).trans
      ((erase_giveFloor (h.mono (by decide))).trans (erase_takeFloor (h.mono (by decide)))))
  · rfl
theorem erase_revokeFloorWork {o : Slot} (h : Opens k fFloor) : erase k (revokeFloorWork o s).1 = erase k s := by
  unfold revokeFloorWork; split
  · rfl
  split
  · rfl
  split
  · rfl
  · exact (erase_publishVisible (h.mono (by decide))).trans ((erase_writeFloorHeader (h.mono (by decide))).trans
      (erase_takeFloor (h.mono (by decide))))
theorem erase_clearFloorWork {o : Slot} (h : Opens k fFloor) : erase k (clearFloorWork o s).1 = erase k s :=
  (erase_publishVisible (h.mono (by decide))).trans ((erase_floorHeaderIfChanged (h.mono (by decide))).trans
    (erase_foldl (fun _ _ => erase_takeFloor (h.mono (by decide))) _ _))
theorem erase_setFloorRulesWork {o : Slot} (h : Opens k [.floorLimit, .floorPolicy, .ram, .badParity]) :
    erase k (setFloorRulesWork o s).1 = erase k s := by
  have e : ∀ (t : State) (a : Nat) (b : FloorPolicy), erase k { t with floorLimit := a, floorPolicy := b } = erase k t :=
    fun t a b => by simp only [erase, h .floorLimit (by decide), h .floorPolicy (by decide), cond_true]
  unfold setFloorRulesWork; dsimp only; split
  · rfl
  · exact (erase_writeFloorHeader (h.mono (by decide))).trans (e _ _ _)
theorem liftLockWork_state {w : PageWork} {o : Slot} : (liftLockWork w o s).1 = s := by
  unfold liftLockWork; split
  · rfl
  split
  · rfl
  split <;> rfl

/-! Evaluation -/

theorem erase_blockWork {i : Seat} {b : Bool} (h : Opens k [.seats, .links]) : erase k (s.blockWork i b) = erase k s :=
  (erase_deadlineCheck h).trans ((erase_batteryWork (h.mono (by decide))).trans
    ((erase_signalWork (h.mono (by decide))).trans (erase_seatStoreWork (h.mono (by decide)))))
theorem erase_judgeSeat {i : Seat} (h : Opens k [.seats, .links]) : erase k (s.judgeSeat i) = erase k s :=
  (erase_setMonitors (h.mono (by decide))).trans (erase_blockWork h)
theorem erase_publishEvaluation {before : State} {i : Seat} (h : Opens k fPub) :
    erase k (publishEvaluation before s i) = erase k s := by
  unfold publishEvaluation; split
  · split
    · exact erase_publishRefresh (h.mono (by decide))
    · rfl
  · exact erase_publishChange h
theorem erase_evaluate {i : Seat} (h : Opens k [.seats, .links, .boardWrites]) : erase k (s.evaluate i) = erase k s :=
  (erase_publishEvaluation (h.mono (by decide))).trans (erase_judgeSeat (h.mono (by decide)))
theorem erase_settlePass (h : Opens k [.pass]) : erase k s.settlePass = erase k s := by
  unfold State.settlePass; split
  · rfl
  split
  · exact erase_with_pass (h _ (by decide))
  · rfl
theorem erase_passOn (h : Opens k [.seats, .links, .boardWrites, .pass]) : erase k s.passOn = erase k s := by
  unfold State.passOn; split
  · rfl
  split
  · exact erase_with_pass (h _ (by decide))
  · exact (erase_settlePass (h.mono (by decide))).trans ((erase_with_pass (h _ (by decide))).trans
      (erase_evaluate (h.mono (by decide))))

abbrev fPass : List Fld := [.pass, .passCount, .refreshPass, .countdown, .lateCount, .causes, .ram, .badParity]

theorem erase_startPass (h : Opens k fPass) : erase k s.startPass = erase k s := by
  have e : ∀ (t : State) (a : Option Nat) (b : Word) (c : Bool) (d : Nat),
      erase k { t with pass := a, passCount := b, refreshPass := c, countdown := d } = erase k t := fun t a b c d => by
    simp only [erase, h .pass (by decide), h .passCount (by decide), h .refreshPass (by decide), h .countdown (by decide),
      cond_true]
  unfold State.startPass; dsimp only
  exact (erase_settlePass (h.mono (by decide))).trans ((erase_writeClockHeader (h.mono (by decide))).trans
    ((erase_putWord (h.mono (by decide))).trans (e _ _ _ _ _)))
theorem erase_lateExpiry (h : Opens k fPass) : erase k s.lateExpiry = erase k s :=
  (erase_raise (h.mono (by decide))).trans ((erase_putWord (h.mono (by decide))).trans (erase_with_lateCount (h _ (by decide))))
theorem erase_onExpiry (h : Opens k fPass) : erase k s.onExpiry = erase k s := by
  unfold State.onExpiry; dsimp only; split
  · exact (erase_startPass h).trans (erase_settlePass (h.mono (by decide)))
  · exact (erase_lateExpiry h).trans (erase_settlePass (h.mono (by decide)))
theorem erase_abandonPass (h : Opens k [.pass, .refreshPass, .scanTimer]) : erase k s.abandonPass = erase k s := by
  simp only [erase, State.abandonPass, h .pass (by decide), h .refreshPass (by decide), h .scanTimer (by decide), cond_true]
theorem erase_startEvaluation (h : Opens k [.countdown, .pass, .refreshPass, .scanTimer, .ram, .badParity]) :
    erase k s.startEvaluation = erase k s := by
  have e : ∀ (t : State) (a : Nat) (b : Option Nat) (c : Bool) (d : Option Clock),
      erase k { t with countdown := a, pass := b, refreshPass := c, scanTimer := d } = erase k t := fun t a b c d => by
    simp only [erase, h .pass (by decide), h .countdown (by decide), h .refreshPass (by decide), h .scanTimer (by decide),
      cond_true]
  unfold State.startEvaluation; dsimp only
  exact (e _ _ _ _ _).trans ((erase_putWord (h.mono (by decide))).trans ((erase_putWord (h.mono (by decide))).trans
    (erase_writeClockHeader (h.mono (by decide)))))

end Sys2Proof.Machine
end

