-- ==== Sys2Proof/Laws/Memory.lean ====
section
/-! SUPPORT. The Exchange RAM: reads after writes, and the canonical form that every memory operation keeps (log 8). -/

namespace Sys2Proof.Machine

theorem Memory.wfFrom_mono {m : List Host.Cell} {lo lo' : Nat} (h : Memory.wfFrom lo m) (hl : lo' ≤ lo) :
    Memory.wfFrom lo' m := by
  cases m with
  | nil => rfl
  | cons c m =>
    obtain ⟨a, b⟩ := c
    simp only [Memory.wfFrom, Bool.and_eq_true, decide_eq_true_eq] at h ⊢
    exact ⟨⟨⟨by omega, h.1.1.2⟩, h.1.2⟩, h.2⟩

/-- Below the addresses it lists, a canonical memory reads as the unlisted byte. -/
theorem memGet_below {m : List Host.Cell} {lo a : Nat} (h : Memory.wfFrom lo m) (ha : a < lo) : memGet m a = unlistedByte := by
  induction m generalizing lo with
  | nil => rfl
  | cons c m ih =>
    obtain ⟨k, b⟩ := c
    simp only [Memory.wfFrom, Bool.and_eq_true, decide_eq_true_eq] at h
    simp only [memGet]
    rw [if_neg (by omega)]
    exact ih h.2 (by omega)

theorem wfFrom_memCons {m : List Host.Cell} {lo a : Nat} {b : Byte} (h : Memory.wfFrom (a + 1) m) (hl : lo ≤ a)
    (hr : a < 2 * ramWords) : Memory.wfFrom lo (memCons a b m) := by
  unfold memCons; split
  · exact Memory.wfFrom_mono h (by omega)
  · simp only [Memory.wfFrom, Bool.and_eq_true, decide_eq_true_eq, bne_iff_ne, ne_eq]
    exact ⟨⟨⟨hl, hr⟩, by assumption⟩, h⟩

theorem wfFrom_memPut {m : List Host.Cell} {lo a : Nat} {b : Byte} (h : Memory.wfFrom lo m) (hl : lo ≤ a)
    (hr : a < 2 * ramWords) : Memory.wfFrom lo (memPut m a b) := by
  induction m generalizing lo with
  | nil => exact wfFrom_memCons rfl hl hr
  | cons c m ih =>
    obtain ⟨k, c⟩ := c
    have h0 := h
    simp only [Memory.wfFrom, Bool.and_eq_true, decide_eq_true_eq] at h
    simp only [memPut]
    split
    · refine wfFrom_memCons ?_ hl hr
      simp only [Memory.wfFrom, Bool.and_eq_true, decide_eq_true_eq]
      exact ⟨⟨⟨by omega, h.1.1.2⟩, h.1.2⟩, h.2⟩
    split
    · subst a; exact wfFrom_memCons h.2 hl hr
    · simp only [Memory.wfFrom, Bool.and_eq_true, decide_eq_true_eq]
      exact ⟨⟨⟨h.1.1.1, h.1.1.2⟩, h.1.2⟩, ih h.2 (by omega)⟩

/-- A memory write keeps the canonical form. -/
theorem wf_memPut {m : List Host.Cell} {a : Nat} {b : Byte} (h : Memory.wf m) (hr : a < 2 * ramWords) :
    Memory.wf (memPut m a b) := wfFrom_memPut h (Nat.zero_le _) hr

theorem memGet_memCons {m : List Host.Cell} {a x : Nat} {b : Byte} (h : Memory.wfFrom (a + 1) m) :
    memGet (memCons a b m) x = if x = a then b else memGet m x := by
  unfold memCons; split
  · split
    · subst x; rw [memGet_below h (by omega)]; exact (‹b = unlistedByte›).symm
    · rfl
  · simp only [memGet, eq_comm (a := a)]

/-- A read after a write. -/
theorem memGet_memPut {m : List Host.Cell} {lo a x : Nat} {b : Byte} (h : Memory.wfFrom lo m) :
    memGet (memPut m a b) x = if x = a then b else memGet m x := by
  induction m generalizing lo with
  | nil => exact memGet_memCons rfl
  | cons c m ih =>
    obtain ⟨k, c⟩ := c
    have h0 := h
    simp only [Memory.wfFrom, Bool.and_eq_true, decide_eq_true_eq] at h
    simp only [memPut]
    split
    · refine memGet_memCons ?_
      simp only [Memory.wfFrom, Bool.and_eq_true, decide_eq_true_eq]
      exact ⟨⟨⟨by omega, h.1.1.2⟩, h.1.2⟩, h.2⟩
    split
    · subst a
      rw [memGet_memCons h.2]
      split
      · rfl
      · simp only [memGet]; rw [if_neg (by omega)]
    · simp only [memGet, ih h.2]
      split
      · rw [if_neg (by omega)]
      · rfl

/-! Words -/

variable {s : State}

theorem wf_putWord {a : Nat} {w : Word} (h : Memory.wf s.ram) : Memory.wf (s.putWord a w).ram := by
  unfold State.putWord; dsimp only; split
  · exact wf_memPut (wf_memPut h (by omega)) (by omega)
  · exact h

theorem wf_putWords (ws : List Word) {s : State} {a : Nat} (h : Memory.wf s.ram) : Memory.wf (s.putWords a ws).ram := by
  induction ws generalizing s a with
  | nil => exact h
  | cons w ws ih => exact ih (wf_putWord h)

theorem wordOfBytes_extract (w : Word) :
    wordOfBytes (w.extractLsb' 0 8).toNat (w.extractLsb' 8 8).toNat = w := by
  apply BitVec.eq_of_toNat_eq
  simp only [wordOfBytes, word, BitVec.extractLsb'_toNat, BitVec.toNat_ofNat, Nat.shiftRight_eq_div_pow]
  have := w.isLt
  omega

/-- A word after a word write. -/
theorem readWord_putWord {a x : Nat} {w : Word} (h : Memory.wf s.ram) :
    (s.putWord a w).readWord x = if x = a ∧ a < ramWords then w else s.readWord x := by
  unfold State.readWord State.putWord
  dsimp only
  by_cases ha : a < ramWords
  · simp only [if_pos ha]
    by_cases hx : x < ramWords
    · simp only [if_pos hx]
      have h1 : Memory.wfFrom 0 (memPut s.ram (2 * a) (w.extractLsb' 0 8)) := wf_memPut h (by omega)
      rw [memGet_memPut h1, memGet_memPut h1, memGet_memPut h, memGet_memPut h]
      by_cases e : x = a
      · subst x
        rw [if_neg (by omega), if_pos rfl, if_pos rfl, if_pos ⟨rfl, ha⟩]
        exact wordOfBytes_extract w
      · rw [if_neg (by omega), if_neg (by omega), if_neg (by omega), if_neg (by omega), if_neg (by tauto)]
    · rw [if_neg hx, if_neg hx, if_neg (by omega)]
  · rw [if_neg ha, if_neg (fun h : x = a ∧ a < ramWords => ha h.2)]

/-- A word's parity after a word write (R166). -/
theorem wordBad_putWord {a x : Nat} {w : Word} :
    (s.putWord a w).wordBad x = if x = a ∧ a < ramWords then false else s.wordBad x := by
  unfold State.wordBad State.putWord
  dsimp only
  by_cases ha : a < ramWords
  · simp only [if_pos ha]
    by_cases e : x = a
    · subst x; rw [if_pos ⟨rfl, ha⟩]; simp
    · rw [if_neg (by tauto)]
      have e1 : ∀ b, (b = 2 * x ∨ b = 2 * x + 1) → (s.badParity.filter (fun c => c != 2 * a && c != 2 * a + 1)).contains b =
          s.badParity.contains b := fun b hb => by
        rw [Bool.eq_iff_iff]
        simp only [List.contains_iff_mem, List.mem_filter, Bool.and_eq_true, bne_iff_ne]
        refine ⟨fun h => h.1, fun h => ⟨h, ?_⟩⟩
        omega
      rw [e1 _ (Or.inl rfl), e1 _ (Or.inr rfl)]
  · rw [if_neg ha, if_neg (fun h : x = a ∧ a < ramWords => ha h.2)]

theorem readWord_congr {t : State} (h : t.ram = s.ram) (a : Nat) : t.readWord a = s.readWord a := by
  simp only [State.readWord, h]

theorem wordBad_congr {t : State} (h : t.badParity = s.badParity) (a : Nat) : t.wordBad a = s.wordBad a := by
  simp only [State.wordBad, h]

theorem putWords_ram_cons (a : Nat) (w : Word) (ws : List Word) : s.putWords a (w :: ws) = (s.putWord a w).putWords (a + 1) ws := rfl

/-- Words after a run of word writes. -/
theorem readWord_putWords (ws : List Word) {s : State} {a x : Nat} (h : Memory.wf s.ram) (hr : a + ws.length ≤ ramWords) :
    (s.putWords a ws).readWord x = if hx : a ≤ x ∧ x < a + ws.length then ws[x - a]'(by omega) else s.readWord x := by
  induction ws generalizing s a with
  | nil => rw [dif_neg (by simp only [List.length_nil]; omega)]; rfl
  | cons w ws ih =>
    simp only [List.length_cons] at hr
    rw [State.putWords, ih (wf_putWord h) (by omega)]
    by_cases e : x = a
    · subst x
      rw [dif_neg (by omega), readWord_putWord h, if_pos ⟨rfl, by omega⟩, dif_pos (by simp only [List.length_cons]; omega)]
      simp
    · by_cases e2 : a + 1 ≤ x ∧ x < a + 1 + ws.length
      · rw [dif_pos e2, dif_pos (by simp only [List.length_cons]; omega)]
        have : x - a = (x - (a + 1)) + 1 := by omega
        simp only [this, List.getElem_cons_succ]
      · rw [dif_neg e2, readWord_putWord h, if_neg (by tauto), dif_neg (by simp only [List.length_cons]; omega)]

theorem wordBad_putWords (ws : List Word) {s : State} {a x : Nat} (hr : a + ws.length ≤ ramWords) :
    (s.putWords a ws).wordBad x = if a ≤ x ∧ x < a + ws.length then false else s.wordBad x := by
  induction ws generalizing s a with
  | nil => rw [if_neg (by simp only [List.length_nil]; omega)]; rfl
  | cons w ws ih =>
    simp only [List.length_cons] at hr ⊢
    rw [State.putWords, ih (by omega), wordBad_putWord]
    by_cases e : x = a
    · subst x; rw [if_neg (by omega), if_pos ⟨rfl, by omega⟩, if_pos (by omega)]
    · by_cases e2 : a + 1 ≤ x ∧ x < a + 1 + ws.length
      · rw [if_pos e2, if_pos (by omega)]
      · rw [if_neg e2, if_neg (by tauto), if_neg (by omega)]

/-- Outside the words written, a run of word writes leaves every word as it was, wherever the run stands. -/
theorem readWord_putWords_other (ws : List Word) {s : State} {a x : Nat} (h : Memory.wf s.ram)
    (hx : x < a ∨ a + ws.length ≤ x) : (s.putWords a ws).readWord x = s.readWord x := by
  induction ws generalizing s a with
  | nil => rfl
  | cons w ws ih =>
    simp only [List.length_cons] at hx
    rw [State.putWords, ih (wf_putWord h) (by omega), readWord_putWord h, if_neg (by omega)]

theorem wordBad_putWords_other (ws : List Word) {s : State} {a x : Nat} (hx : x < a ∨ a + ws.length ≤ x) :
    (s.putWords a ws).wordBad x = s.wordBad x := by
  induction ws generalizing s a with
  | nil => rfl
  | cons w ws ih =>
    simp only [List.length_cons] at hx
    rw [State.putWords, ih (by omega), wordBad_putWord, if_neg (by omega)]

/-- The memory right after reset is canonical. -/
theorem wf_reset : Memory.wf State.reset.ram := rfl

end Sys2Proof.Machine
end

