-- ==== Sys2Proof/Laws/Flows.lean ====
section
/-! SUPPORT. What an operation of the part can do to the RAM, the fault latch and the causes, said once: write words,
record faults and raise causes other than FAULT. The laws of the memory and of the latch follow from it. -/

namespace Sys2Proof.Machine

/-- `t` follows from `s` by word writes, fault records, causes other than FAULT, and changes of other fields. -/
inductive Flows : State → State → Prop where
  | same {s t : State} (h1 : t.ram = s.ram) (h2 : t.badParity = s.badParity) (h3 : t.faultLatch = s.faultLatch)
      (h4 : t.causes = s.causes) : Flows s t
  | put (s : State) (a : Nat) (w : Word) : Flows s (s.putWord a w)
  | record (s : State) (a : Nat) (x : FaultKind) : Flows s (s.recordFault a x)
  | raise (s : State) (c : Cause) (h : c ≠ .fault) : Flows s (s.raise c)
  | trans {s t u : State} (h1 : Flows s t) (h2 : Flows t u) : Flows s u

/-- The fields that flows are about. -/
abbrev elsewhere : Fld → Bool := fun f => f != .ram && f != .badParity && f != .faultLatch && f != .causes

theorem Flows.refl (s : State) : Flows s s := .same rfl rfl rfl rfl

/-- What leaves those fields alone flows. -/
theorem Flows.of_erase {s t : State} (h : erase elsewhere t = erase elsewhere s) : Flows s t :=
  .same (erase_keeps_ram h rfl) (erase_keeps_badParity h rfl) (erase_keeps_faultLatch h rfl) (erase_keeps_causes h rfl)

/-- A flow, and then a change of other fields. -/
theorem Flows.after {s t u : State} (h : Flows s t) (h1 : u.ram = t.ram) (h2 : u.badParity = t.badParity)
    (h3 : u.faultLatch = t.faultLatch) (h4 : u.causes = t.causes) : Flows s u := h.trans (.same h1 h2 h3 h4)

/-- A change of other fields, and then a flow. -/
theorem Flows.before {s t u : State} (h : Flows t u) (h1 : t.ram = s.ram) (h2 : t.badParity = s.badParity)
    (h3 : t.faultLatch = s.faultLatch) (h4 : t.causes = s.causes) : Flows s u := (Flows.same h1 h2 h3 h4).trans h

theorem Flows.foldl {α : Type} {f : State → α → State} (hf : ∀ s a, Flows s (f s a)) :
    ∀ (l : List α) (s : State), Flows s (l.foldl f s)
  | [], s => .refl s
  | a :: l, s => (hf s a).trans (Flows.foldl hf l (f s a))

/-! What follows from a flow -/

theorem memoryLaw_putWord {s : State} {a : Nat} {w : Word} (h : s.memoryLaw) : (s.putWord a w).memoryLaw := by
  refine ⟨wf_putWord h.1, ?_, ?_⟩
  · unfold State.putWord; dsimp only; split
    · exact h.2.1.filter _
    · exact h.2.1
  · unfold State.putWord; dsimp only; split
    · exact fun b hb => h.2.2 b (List.mem_of_mem_filter hb)
    · exact h.2.2

/-- A flow keeps the memory canonical. -/
theorem Flows.memory {s t : State} (h : Flows s t) (hs : s.memoryLaw) : t.memoryLaw := by
  induction h with
  | same h1 h2 _ _ => unfold State.memoryLaw; rw [h1, h2]; exact hs
  | put => exact memoryLaw_putWord hs
  | record => exact hs
  | raise => exact hs
  | trans _ _ ih1 ih2 => exact ih2 (ih1 hs)

/-- A flow keeps the address and the kind that the latch holds. -/
theorem Flows.latch {s t : State} (h : Flows s t) {f : HeldFault} (hs : s.faultLatch = some f) :
    ∃ g, t.faultLatch = some g ∧ g.addr = f.addr ∧ g.kind = f.kind := by
  induction h generalizing f with
  | same _ _ h3 _ => exact ⟨f, h3.trans hs, rfl, rfl⟩
  | put => exact ⟨f, hs, rfl, rfl⟩
  | record s a x =>
    unfold State.recordFault; dsimp only; split
    · exact ⟨f, hs, rfl, rfl⟩
    · rw [hs]; exact ⟨_, rfl, rfl, rfl⟩
  | raise => exact ⟨f, hs, rfl, rfl⟩
  | trans _ _ ih1 ih2 =>
    obtain ⟨g, h1, h2, h3⟩ := ih1 hs
    obtain ⟨g', h1', h2', h3'⟩ := ih2 h1
    exact ⟨g', h1', h2'.trans h2, h3'.trans h3⟩

theorem causeSet_or (c d : Cause) (x : BitVec 7) :
    (x ||| causeBit d).getLsbD (causeIndex c) = (x.getLsbD (causeIndex c) || decide (c = d)) := by
  rw [BitVec.getLsbD_or]; congr 1
  cases c <;> cases d <;> decide

/-- Raising a cause sets it and leaves the others. -/
theorem causeSet_raise (s : State) (c d : Cause) : (s.raise d).causeSet c = (s.causeSet c || decide (c = d)) :=
  causeSet_or c d s.causes

theorem latchLaw_recordFault {s : State} {a : Nat} {x : FaultKind} (h : s.latchLaw) : (s.recordFault a x).latchLaw := by
  unfold State.latchLaw State.causeSet State.recordFault at *
  dsimp only
  by_cases hp : s.part = .clearing
  · simpa only [hp, true_or, if_true] using h
  · rw [if_neg hp]
    cases hl : s.faultLatch with
    | none => rw [if_neg (by simp [hp])]; rw [causeSet_or]; simp
    | some f => rw [if_pos (by simp)]; rw [h, hl]; rfl

/-- A flow keeps FAULT set exactly while the latch holds a fault. -/
theorem Flows.fault {s t : State} (h : Flows s t) (hs : s.latchLaw) : t.latchLaw := by
  induction h with
  | same _ _ h3 h4 => unfold State.latchLaw State.causeSet at *; rw [h3, h4]; exact hs
  | put => exact hs
  | record => exact latchLaw_recordFault hs
  | raise s c h =>
    have := causeSet_raise s .fault c
    unfold State.latchLaw at *
    rw [this, hs]
    simp [Ne.symm h]
  | trans _ _ ih1 ih2 => exact ih2 (ih1 hs)

/-! The operations flow -/

variable {s : State}

theorem flows_putWords (ws : List Word) (a : Nat) (s : State) : Flows s (s.putWords a ws) := by
  induction ws generalizing a s with
  | nil => exact .refl s
  | cons w ws ih => exact (Flows.put s a w).trans (ih _ _)
theorem flows_readChecked (a : Nat) : Flows s (s.readChecked a) := by
  unfold State.readChecked; split
  · exact .record _ _ _
  · exact .refl _
theorem flows_readOne (a : Nat) : Flows s (s.readOne a) := (flows_readChecked a).after rfl rfl rfl rfl
theorem flows_readOn (next : List ReadWord → Option Nat) (n : Nat) (s : State) : Flows s (s.readOn next n) := by
  induction n generalizing s with
  | zero => exact .refl s
  | succ n ih =>
    simp only [State.readOn]; split
    · exact .refl s
    · exact (flows_readOne _).trans (ih _)
theorem flows_writeLinkSummary : Flows s s.writeLinkSummary := .put _ _ _
theorem flows_writeFloorHeader : Flows s s.writeFloorHeader := (flows_putWords _ _ _).trans (.put _ _ _)
theorem flows_writeClockHeader : Flows s s.writeClockHeader := (Flows.put _ _ _).trans (.put _ _ _)
theorem flows_countLink (l : LinkId) (i : Fin 11) : Flows s (s.countLink l i) := by
  unfold State.countLink; dsimp only; split
  · exact (Flows.of_erase (erase_setLink (by decide))).trans (.put _ _ _)
  · exact .refl _
theorem flows_countDiscard (l : LinkId) (i : Fin 11) : Flows s (s.countDiscard l i) := by
  unfold State.countDiscard; dsimp only; split
  · exact flows_countLink l i
  · exact (flows_countLink l i).trans ((Flows.of_erase (erase_setLink (by decide))).trans flows_writeLinkSummary)
theorem flows_publishChange (i : Seat) : Flows s (s.publishChange i) := .of_erase (erase_publishChange (by decide))
theorem flows_publishVisible (b : State) (is : List Seat) : Flows s (publishVisible b s is) :=
  .of_erase (erase_publishVisible (by decide))
theorem flows_setSeat (i : Seat) (x : SeatState) : Flows s (s.setSeat i x) := .same rfl rfl rfl rfl
theorem flows_setLink (l : LinkId) (x : Link) : Flows s (s.setLink l x) := .same rfl rfl rfl rfl
theorem flows_appendChange (i : Seat) : Flows s (s.appendChange i) := by
  have e : ∀ (t : State) (a : List Seat) (b : Nat) (c : Word), Flows t { t with changeList := a, writePos := b, fillCount := c } :=
    fun _ _ _ _ => .same rfl rfl rfl rfl
  unfold State.appendChange; dsimp only
  refine Flows.trans ?_ (.put _ _ _)
  refine Flows.trans ?_ (e _ _ _ _)
  refine Flows.trans ?_ (flows_setSeat _ _)
  refine Flows.trans ?_ (.put _ _ _)
  split
  · exact .raise _ .changes (by decide)
  · exact .refl _
theorem flows_offer (i : Seat) : Flows s (s.offer i) := by
  unfold State.offer; dsimp only; split
  · exact .of_erase (erase_setBoard (by decide))
  split
  · exact .refl _
  split
  · exact flows_appendChange i
  · exact (Flows.put _ _ _).before rfl rfl rfl rfl
theorem flows_owedStep {t : State} (ht : s.owedStep = some t) : Flows s t := by
  unfold State.owedStep at ht; split at ht
  · obtain ⟨i, -, rfl⟩ := Option.map_eq_some_iff.1 ht
    refine Flows.trans (Flows.before (Flows.put _ _ _) ?_ ?_ ?_ ?_) (flows_appendChange i) <;> rfl
  · cases ht
theorem flows_appendOwed (n : Nat) (s : State) : Flows s (State.appendOwed n s) := by
  induction n generalizing s with
  | zero => exact .refl s
  | succ n ih =>
    simp only [State.appendOwed]; split
    · exact .refl s
    · exact (flows_owedStep (by assumption)).trans (ih _)
theorem flows_releaseOne : Flows s s.releaseOne := by
  unfold State.releaseOne; split
  · exact .refl _
  dsimp only; split
  · exact (flows_offer _).before rfl rfl rfl rfl
  · exact .same rfl rfl rfl rfl
theorem flows_release (n : Nat) (s : State) : Flows s (State.release n s) := by
  induction n generalizing s with
  | zero => exact .refl s
  | succ n ih => exact flows_releaseOne.trans (ih _)
theorem flows_notifyChanges : Flows s s.notifyChanges := by
  unfold State.notifyChanges; split
  · exact .refl _
  · exact .raise _ _ (by decide)
theorem flows_acceptTaken (v : Word) : Flows s (s.acceptTaken v) := by
  unfold State.acceptTaken; dsimp only
  generalize (512 : Nat) = n
  refine Flows.trans ?_ (Flows.trans (flows_appendOwed _ _) flows_notifyChanges)
  refine Flows.trans ?_ (Flows.put _ _ _)
  refine Flows.after (t := State.release _ _) (Flows.trans ?_ (flows_release _ _)) rfl rfl rfl rfl
  split
  · exact .record _ _ _
  · exact .refl _
theorem flows_boardWord (i : Seat) : Flows s (s.boardWord i) := by
  have e : ∀ (t : State) (a : List BoardEntry), Flows t { t with boardWrites := a } := fun _ _ => .same rfl rfl rfl rfl
  have e2 : ∀ (x : BoardSeat) (a : Nat) (w : Word), Flows s ((s.setBoard i x).putWord a w) := fun _ _ _ =>
    (flows_setSeat _ _).trans (.put _ _ _)
  unfold State.boardWord; split
  · exact .refl _
  dsimp only
  split
  · exact (e2 _ _ _).trans (e _ _)
  split
  · exact ((e2 _ _ _).trans (e _ _)).trans (flows_offer _)
  · exact (e2 _ _ _).trans (e _ _)
theorem flows_boardWords (i : Seat) (n : Nat) (s : State) : Flows s (State.boardWords i n s) := by
  induction n generalizing s with
  | zero => exact .refl s
  | succ n ih => exact (flows_boardWord i).trans (ih _)
theorem flows_finishBoardWrite (i : Seat) : Flows s (s.finishBoardWrite i) := by
  unfold State.finishBoardWrite; split
  · exact .refl _
  · exact flows_boardWords _ _ _
theorem flows_settleChangeList (c : Nat) : Flows s (s.settleChangeList c) := by
  have e : ∀ (t : State) (a b : Nat) (d : Word), Flows t { t with capacity := a, writePos := b, fillCount := d } :=
    fun _ _ _ _ => .same rfl rfl rfl rfl
  have e1 : ∀ (t : State) (n : Nat), Flows t (t.dropOutOfRange n) := fun _ _ => .same rfl rfl rfl rfl
  have e2 : ∀ (t : State) (n : Nat), Flows t (t.dropOverflow n) := fun _ _ => .same rfl rfl rfl rfl
  unfold State.settleChangeList; dsimp only
  generalize (512 : Nat) = n
  refine Flows.trans ?_ flows_notifyChanges
  refine Flows.trans ?_ (Flows.put _ _ _)
  refine Flows.trans ?_ (Flows.put _ _ _)
  refine Flows.trans ?_ (Flows.put _ _ _)
  refine Flows.trans ?_ (flows_appendOwed _ _)
  refine Flows.trans ?_ (e _ _ _ _)
  exact ((e1 _ _).trans (e2 _ _)).trans (flows_putWords _ _ _)

/-! Links -/

theorem flows_linkHeard (l : LinkId) : Flows s (s.linkHeard l) := by
  unfold State.linkHeard; dsimp only; split
  · exact Flows.trans (Flows.trans (.of_erase (erase_setLink (by decide))) (.raise _ _ (by decide))) (.put _ _ _)
  · exact .of_erase (erase_setLink (by decide))
  · exact .refl _
theorem flows_goodFrame (l : LinkId) (r : Run) : Flows s (s.goodFrame l r) := by
  unfold State.goodFrame; dsimp only
  refine Flows.trans ?_ (flows_linkHeard l)
  split
  · exact (flows_countLink _ _).trans (.of_erase (erase_setLink (by decide)))
  · exact flows_countLink _ _
theorem flows_endRun (l : LinkId) : Flows s (s.endRun l) := by
  unfold State.endRun; dsimp only; split
  · exact Flows.trans (.of_erase (erase_setLink (by decide))) (flows_countDiscard _ _)
  · exact Flows.trans (.of_erase (erase_setLink (by decide))) (flows_goodFrame _ _)
theorem flows_gapOn (l : LinkId) : Flows s (s.gapOn l) := by
  unfold State.gapOn; split
  · exact .of_erase (erase_setLink (by decide))
  · exact .refl _
  · exact flows_endRun l
  · exact flows_endRun l
theorem flows_linkLost (l : LinkId) : Flows s (s.linkLost l) :=
  Flows.trans (Flows.trans (.of_erase (erase_setLink (by decide))) (.raise _ _ (by decide))) (.put _ _ _)
theorem flows_completeFrame (l : LinkId) : Flows s (s.completeFrame l) := .of_erase (erase_completeFrame (by decide))
theorem flows_quietLines : Flows s s.quietLines := by
  unfold State.quietLines; split
  · exact (Flows.put _ _ _).before rfl rfl rfl rfl
  · exact .refl _
theorem flows_endSpacing (l : LinkId) : Flows s (s.endSpacing l) := by
  unfold State.endSpacing; split
  · exact (flows_setLink _ _).trans flows_quietLines
  · exact .refl _
theorem flows_startLinks : Flows s s.startLinks := by
  have e : ∀ (t : State) (v : Vector Link 8), Flows t { t with links := v } := fun _ _ => .same rfl rfl rfl rfl
  unfold State.startLinks
  refine Flows.trans ?_ (Flows.of_erase (erase_placeSending (k := elsewhere) (by decide)))
  refine Flows.trans ?_ (.put _ _ _)
  exact (e _ _).trans (.foldl (fun _ _ => flows_putWords _ _ _) _ _)
theorem flows_clearMaskedCounts (m : Byte) : Flows s (s.clearMaskedCounts m) := by
  unfold State.clearMaskedCounts; dsimp only; split
  · exact .refl _
  · refine Flows.trans (.foldl (fun t l => ?_) _ _) (.put _ _ _)
    split
    · exact Flows.trans (.of_erase (erase_setLink (by decide))) (flows_putWords _ _ _)
    · exact .refl _

/-! Seats and floor -/

theorem flows_floorHeaderIfChanged (t : State) : Flows s (floorHeaderIfChanged t s) := by
  unfold floorHeaderIfChanged; split
  · exact .refl _
  · exact flows_writeFloorHeader
theorem flows_applyRecord (i : Seat) (r : SeatRecord) : Flows s (s.applyRecord i r) := by
  unfold State.applyRecord; dsimp only
  refine Flows.trans (Flows.trans ?_ (flows_floorHeaderIfChanged s)) (flows_publishChange i)
  apply Flows.of_erase
  split
  · refine (erase_issue (by decide)).trans ((erase_setIntent (by decide)).trans
      ((erase_recordGeneration (by decide)).trans ((erase_setCarrier (by decide)).trans
      ((erase_setCtx (by decide)).trans ((erase_freeCarrier (by decide)).trans (erase_reinitialise (by decide)))))))
  · refine (erase_setChannel (by decide)).trans ((erase_recordGeneration (by decide)).trans
      ((erase_setCtx (by decide)).trans ((erase_freeCarrier (by decide)).trans (erase_reinitialise (by decide)))))
theorem flows_judgeReport (l : LinkId) (r : Report) : Flows s (s.judgeReport l r) := by
  unfold State.judgeReport; split
  · exact flows_countDiscard _ _
  split
  · exact Flows.trans (.of_erase (erase_acceptReport (by decide))) (flows_publishVisible _ _)
  · exact (flows_countDiscard _ _).trans (.of_erase (erase_setCtx (by decide)))
theorem flows_takeReport (l : LinkId) : Flows s (s.takeReport l) := by
  unfold State.takeReport; split
  · exact .refl _
  · exact Flows.trans (.of_erase (erase_setLink (by decide))) (flows_judgeReport _ _)

/-! Pages -/

theorem flows_writePageState (p : Page) (x : PageState) : Flows s (s.writePageState p x) :=
  Flows.trans (.of_erase (erase_setPageState (by decide))) (.put _ _ _)
theorem flows_takeHead : Flows s s.takeHead := by
  unfold State.takeHead; split
  · exact .refl _
  dsimp only
  refine Flows.after (t := State.readChecked _ _) (Flows.trans ?_ (flows_readChecked _)) rfl rfl rfl rfl
  refine Flows.trans ?_ (flows_writePageState _ _)
  exact ((Flows.put _ _ _).trans (.put _ _ _)).before rfl rfl rfl rfl
theorem flows_takeIfFree : Flows s s.takeIfFree := by
  unfold State.takeIfFree; split
  · exact flows_takeHead
  · exact .refl _
theorem flows_beginSlot (w : PageWork) : Flows s (s.beginSlot w) := by
  unfold State.beginSlot; split
  · exact .refl _
  · exact (Flows.put _ _ _).after rfl rfl rfl rfl
theorem flows_finishOrder (w : PageWork) (e : OrderEnd) : Flows s (s.finishOrder w e) :=
  (flows_putWords _ _ _).after rfl rfl rfl rfl
theorem flows_boundaryCut {w : PageWork} {b : Bulk} {t : State} (ht : s.boundaryCut w b = some t) : Flows s t := by
  unfold State.boundaryCut at ht
  split at ht
  · cases ht; exact flows_finishOrder _ _
  split at ht
  · cases ht; exact flows_finishOrder _ _
  · cases ht
theorem flows_suspend (w : PageWork) (b : Bulk) : Flows s (s.suspend w b) :=
  flows_takeHead.before (s := s.putWord _ _) rfl rfl rfl rfl |> (Flows.put _ _ _).trans
theorem flows_resume : Flows s s.resume := by
  unfold State.resume; split
  · exact .refl _
  rename_i v _
  have e1 : Flows s { s.writeSummary v.page .complete with worked := some v, suspended := none } :=
    (Flows.put _ _ _).after rfl rfl rfl rfl
  dsimp only; split
  · exact e1
  · rename_i b _
    cases hc : State.boundaryCut { s.writeSummary v.page .complete with worked := some v, suspended := none } v b with
    | none => exact e1
    | some t => exact e1.trans (flows_boundaryCut hc)
theorem flows_endPage (w : PageWork) (x : Summary) : Flows s (s.endPage w x) := by
  unfold State.endPage; dsimp only
  refine Flows.trans ?_ (Flows.of_erase (erase_quietOrders (by decide)))
  have e0 : ∀ t : State, Flows t { t with worked := none, lift := none, reads := [] } := fun _ => .same rfl rfl rfl rfl
  have e : Flows s { State.raise (((s.skipSlots w).writeProgress w.page w.slot).writeSummary w.page x |>.writePageState w.page .done)
      (pageDoneCause w.page) with worked := none, lift := none, reads := [] } := by
    refine Flows.trans ?_ (e0 _)
    refine Flows.trans ?_ (Flows.raise _ (pageDoneCause w.page) (by cases w.page <;> decide))
    refine Flows.trans ?_ (flows_writePageState _ _)
    refine Flows.trans ?_ (Flows.put _ _ _)
    refine Flows.trans ?_ (Flows.put _ _ _)
    exact .foldl (fun _ _ => flows_putWords _ _ _) _ _
  split
  · exact e.trans flows_resume
  · exact e.trans flows_takeIfFree
theorem flows_judgePageState (p : Page) (v : Word) : Flows s (s.judgePageState p v) := by
  unfold State.judgePageState; split
  · exact (flows_writePageState _ _).after rfl rfl rfl rfl
  · exact (flows_writePageState _ _).after rfl rfl rfl rfl
  · exact flows_writePageState _ _
  · exact flows_writePageState _ _
  · exact .record _ _ _
theorem flows_startOrders (a b : PageState) : Flows s (s.startOrders a b) :=
  ((flows_writePageState _ _).trans (flows_writePageState _ _)).after rfl rfl rfl rfl

/-! Orders -/

theorem flows_enterSlot (w : PageWork) : Flows s (s.enterSlot w) := (flows_beginSlot w).trans (flows_readOn _ _ _)
theorem flows_workEntered {work : PageWork → Slot → State → State × Option OrderEnd} (w : PageWork)
    (hw : ∀ w o t, Flows t (work w o t).1) : Flows s (workEntered work w s) := by
  unfold workEntered; dsimp only
  split
  · exact flows_finishOrder _ _
  split
  · exact flows_finishOrder _ _
  split <;> rename_i heq
  · have := hw w (slotOf (valuesOf (s.reads.take 3))) s
    rw [heq] at this; exact this.trans (flows_finishOrder _ _)
  · have := hw w (slotOf (valuesOf (s.reads.take 3))) s
    rw [heq] at this; exact this
theorem flows_workSlot {takes : Word → Bool} {work : PageWork → Slot → State → State × Option OrderEnd}
    (hw : ∀ w o t, Flows t (work w o t).1) : Flows s (workSlot takes work s) := by
  unfold workSlot; split
  · exact .refl _
  split
  · exact (flows_enterSlot _).trans (flows_workEntered _ hw)
  · exact .refl _
theorem flows_workOrder {kind : Word} {work : Slot → State → State × OrderEnd} (hw : ∀ o t, Flows t (work o t).1) :
    Flows s (workOrder kind work s) := flows_workSlot fun _ o t => hw o t
theorem flows_loadSeatWork (o : Slot) : Flows s (loadSeatWork o s).1 := by
  unfold loadSeatWork; split
  · exact .refl _
  split
  · exact .refl _
  dsimp only; split
  · exact .refl _
  split
  · exact .refl _
  split
  · exact .refl _
  · exact flows_applyRecord _ _
theorem flows_judgeOneOfRange (i : Seat) (b : Bulk) : Flows s (judgeOneOfRange i (s, b)).1 := by
  unfold judgeOneOfRange; dsimp only; split
  · exact .refl _
  split
  · exact .refl _
  · exact flows_applyRecord _ _
theorem flows_loadOneOfRange (i : Seat) (b : Bulk) : Flows s (loadOneOfRange i (s, b)).1 := by
  unfold loadOneOfRange; dsimp only; split
  · exact .same rfl rfl rfl rfl
  · exact ((flows_readOn _ _ _).trans (flows_judgeOneOfRange (s := s.readRecord i) i b)).after rfl rfl rfl rfl
theorem flows_bulkSeat (p : State × Bulk) (n : Nat) : Flows p.1 (bulkSeat p n).1 := by
  obtain ⟨s, b⟩ := p
  unfold bulkSeat; split
  · exact .refl _
  split
  · exact flows_loadOneOfRange _ _
  · exact .of_erase (erase_ackOneOfAll (by decide))
theorem flows_slice (b : Bulk) : Flows s (s.slice b).1 := by
  have : ∀ (l : List Nat) (p : State × Bulk), Flows p.1 (l.foldl bulkSeat p).1 := fun l => by
    induction l with
    | nil => exact fun p => .refl _
    | cons n l ih => exact fun p => (flows_bulkSeat p n).trans (ih _)
  exact this (List.range' b.cursor (b.sliceEnd - b.cursor)) (s, b)
theorem flows_workSlice (w : PageWork) (b : Bulk) : Flows s (s.workSlice w b) := by
  unfold State.workSlice; dsimp only; split
  · exact (flows_slice b).trans (flows_finishOrder _ _)
  · exact (flows_slice b).after rfl rfl rfl rfl
theorem flows_bulkOn (w : PageWork) (b : Bulk) : Flows s (s.bulkOn w b) := by
  unfold State.bulkOn; split
  · split
    · exact flows_boundaryCut (by assumption)
    split
    · exact flows_suspend _ _
    · exact (flows_workSlice (s := { s with reads := [] }) w b.opened).before rfl rfl rfl rfl
  · exact flows_workSlice _ _
theorem flows_grantFloorWork (o : Slot) : Flows s (grantFloorWork o s).1 := by
  unfold grantFloorWork; split
  · exact .refl _
  split
  · exact .refl _
  split
  · exact .refl _
  split
  · exact Flows.trans (Flows.trans (.of_erase (erase_giveFloor (by decide))) flows_writeFloorHeader) (flows_publishVisible _ _)
  split
  · exact Flows.trans (Flows.trans (.of_erase ((erase_giveFloor (by decide)).trans (erase_takeFloor (by decide))))
      flows_writeFloorHeader) (flows_publishVisible _ _)
  · exact .refl _
theorem flows_revokeFloorWork (o : Slot) : Flows s (revokeFloorWork o s).1 := by
  unfold revokeFloorWork; split
  · exact .refl _
  split
  · exact .refl _
  split
  · exact .refl _
  · exact Flows.trans (Flows.trans (.of_erase (erase_takeFloor (by decide))) flows_writeFloorHeader) (flows_publishVisible _ _)
theorem flows_clearFloorWork (o : Slot) : Flows s (clearFloorWork o s).1 :=
  Flows.trans (Flows.trans (.of_erase (erase_foldl (fun _ _ => erase_takeFloor (by decide)) _ _)) (flows_floorHeaderIfChanged s))
    (flows_publishVisible _ _)
theorem flows_setFloorRulesWork (o : Slot) : Flows s (setFloorRulesWork o s).1 := by
  unfold setFloorRulesWork; dsimp only; split
  · exact .refl _
  · exact flows_writeFloorHeader.before rfl rfl rfl rfl

/-! Evaluation -/

theorem flows_evaluate (i : Seat) : Flows s (s.evaluate i) := .of_erase (erase_evaluate (by decide))
theorem flows_settlePass : Flows s s.settlePass := .of_erase (erase_settlePass (by decide))
theorem flows_passOn : Flows s s.passOn := .of_erase (erase_passOn (by decide))
theorem flows_startPass : Flows s s.startPass := by
  have e : ∀ (t : State) (a : Option Nat) (b : Word) (c : Bool) (d : Nat),
      Flows t { t with pass := a, passCount := b, refreshPass := c, countdown := d } := fun _ _ _ _ _ => .same rfl rfl rfl rfl
  unfold State.startPass; dsimp only
  exact (((e _ _ _ _ _).trans (.put _ _ _)).trans flows_writeClockHeader).trans flows_settlePass
theorem flows_lateExpiry : Flows s s.lateExpiry := by
  have e : ∀ (t : State) (a : Nat), Flows t { t with lateCount := a } := fun _ _ => .same rfl rfl rfl rfl
  exact ((e _ _).trans (.put _ _ _)).trans (.raise _ .late (by decide))
theorem flows_onExpiry : Flows s s.onExpiry := by
  unfold State.onExpiry; dsimp only
  split
  · exact flows_settlePass.trans flows_startPass
  · exact flows_settlePass.trans flows_lateExpiry
theorem flows_startEvaluation : Flows s s.startEvaluation := by
  have e : ∀ (t : State) (a : Nat) (b : Option Nat) (c : Bool) (d : Option Clock),
      Flows t { t with countdown := a, pass := b, refreshPass := c, scanTimer := d } := fun _ _ _ _ _ => .same rfl rfl rfl rfl
  unfold State.startEvaluation; dsimp only
  exact ((flows_writeClockHeader.trans (.put _ _ _)).trans (.put _ _ _)).trans (e _ _ _ _ _)

/-! The host's accesses, start and stop -/

theorem flows_serveRead (a : Nat) : Flows s (s.serveRead a) := by
  have e : ∀ (t : State) (w : Word), Flows t { t with readData := w } := fun _ _ => .same rfl rfl rfl rfl
  unfold State.serveRead
  refine Flows.trans ?_ (e _ _)
  split
  · exact .record _ _ _
  · exact .refl _
theorem flows_guardedWrite (a : Nat) (v : Word) : Flows s (s.guardedWrite a v) := by
  unfold State.guardedWrite; split
  · exact .put _ _ _
  · exact .record _ _ _
  · exact flows_judgePageState _ _
  · exact (Flows.put _ _ _).trans (flows_acceptTaken _)
theorem flows_serveWrite (a : Nat) (v : Word) : Flows s (s.serveWrite a v) := by
  unfold State.serveWrite; split
  · exact flows_guardedWrite _ _
  · exact .put _ _ _
theorem flows_serveHeld (x : HostAccess) : Flows s (s.serveHeld x) := by
  cases x
  · exact flows_serveRead _
  · exact flows_serveWrite _ _
theorem flows_hostWrite (a) (v : Word) : Flows s (s.hostWrite a v) := by
  unfold State.hostWrite; split
  · exact .same rfl rfl rfl rfl
  · exact flows_serveWrite _ _
theorem flows_enterStopping : Flows s s.enterStopping := by
  unfold State.enterStopping; dsimp only
  refine Flows.trans ?_ flows_quietLines
  refine Flows.trans ?_ (flows_publishVisible _ _)
  exact .same rfl rfl rfl rfl
theorem flows_foldl_retire (l : List Seat) : Flows s (l.foldl State.retire s) :=
  .foldl (fun _ _ => .of_erase (erase_retire (by decide))) _ _
theorem flows_enterRunning (d a b) : Flows s (s.enterRunning d a b) := by
  have e : ∀ (t : State) (p), Flows t { t with part := p } := fun _ _ => .same rfl rfl rfl rfl
  unfold State.enterRunning; dsimp only
  refine Flows.trans ?_ (flows_settleChangeList _)
  refine Flows.trans ?_ (flows_startOrders _ _)
  refine Flows.trans ?_ flows_writeFloorHeader
  refine Flows.trans ?_ flows_startEvaluation
  exact (e _ _).trans flows_startLinks
theorem flows_succeedStart (rs) : Flows s (s.succeedStart rs) := by
  have e : ∀ (t : State) a b c, Flows t { t with startResult := a, layout := b, reads := c } := fun _ _ _ _ => .same rfl rfl rfl rfl
  have e1 : ∀ (t : State) a b, Flows t (t.replaceStores a b) := fun _ _ _ => .same rfl rfl rfl rfl
  have e2 : ∀ (t : State) a, Flows t (t.startFloorRules a) := fun _ _ => .same rfl rfl rfl rfl
  unfold State.succeedStart; dsimp only
  refine Flows.trans ?_ (.raise _ .started (by decide))
  refine Flows.trans ?_ (Flows.of_erase (erase_foldl (fun _ _ => erase_publishChange (by decide)) _ _))
  refine Flows.trans ?_ (flows_enterRunning _ _ _)
  refine Flows.trans ?_ (e2 _ _)
  refine Flows.trans ?_ (flows_foldl_retire _)
  exact (e _ _ _ _).trans (e1 _ _ _)
theorem flows_endChecking : Flows s s.endChecking := by
  have e : ∀ (t : State) a b c, Flows t { t with startResult := a, reads := b, part := c } := fun _ _ _ _ => .same rfl rfl rfl rfl
  have e1 : ∀ (t : State) rs, Flows t (t.takeSetup rs) := fun t rs => by
    unfold State.takeSetup; split
    · exact .refl _
    · exact .same rfl rfl rfl rfl
  unfold State.endChecking; dsimp only
  generalize startWords = n
  split
  · exact ((flows_readOn _ _ _).trans (e1 _ _)).trans (flows_succeedStart _)
  · unfold State.failStart
    exact (((flows_readOn _ _ _).trans (e1 _ _)).trans (e _ _ _ _)).trans (.raise _ .started (by decide))


end Sys2Proof.Machine
end

