-- ==== Sys2Proof/Laws/Values.lean ====
section
/-! SUPPORT. The tables and the values that statements spell out, and the model's own functions for them. -/

namespace Sys2Proof.Machine

/-! Code tables -/

@[simp] theorem word_resultCode (c : ResultCode) : word c.code = resultWord c := by cases c <;> rfl
@[simp] theorem word_summaryCode (x : Summary) : word x.code = summaryWord x := by cases x <;> rfl
@[simp] theorem partCode_eq (p : PartState) : p.code = partNumber p := by cases p <;> rfl
@[simp] theorem startCode_eq (r : StartResult) : r.code = startNumber r := by cases r <;> rfl
@[simp] theorem faultCode_eq (k : FaultKind) : k.code = faultNumber k := by cases k <;> rfl
@[simp] theorem pageCode_eq (x : PageState) : x.code = pageNumber x := by cases x <;> rfl
@[simp] theorem policyCode_eq (p : FloorPolicy) : p.code = policyNumber p := by cases p <;> rfl
@[simp] theorem statusCode_eq (x : EstimateStatus) : x.code = statusNumber x := by cases x <;> rfl
@[simp] theorem monitorCode_eq (m : MonitorState) : m.code = boardCode m := by cases m <;> rfl
theorem causeNumber_eq (c : Cause) : causeNumber c = 8 + causeIndex c := by cases c <;> rfl

/-! The picture (R68) -/

/-- Two lists of eight values read off two vectors are equal exactly when the values are. -/
theorem map_toList_eq {α β : Type} (f : α → β) (x y : Vector α 8) :
    x.toList.map f = y.toList.map f ↔ ∀ k : Fin 8, f y[k] = f x[k] := by
  constructor
  · intro h k
    have := congrArg (·[k.val]?) h
    simpa using this.symm
  · intro h
    apply List.ext_getElem (by simp)
    intro k h1 h2
    have hk : k < 8 := by simpa using h1
    simpa using (h ⟨k, hk⟩).symm

/-- The picture of a seat is the same exactly when the values that R68 compares are. -/
theorem picture_eq_iff (s t : State) (i : Seat) : s.picture i = t.picture i ↔ SamePicture s t i := by
  constructor
  · intro h
    simp only [State.picture, Picture.mk.injEq, monitorCode_eq] at h
    obtain ⟨h1, h2, h3, h4, h5, h6, h7, h8, h9⟩ := h
    exact ⟨(map_toList_eq _ _ _).1 h1, (map_toList_eq _ _ _).1 h2, h3.symm, h4.symm, h5.symm,
      by simpa using (congrArg (· = true) h6.symm), h7.symm, h8.symm, h9.symm⟩
  · intro h
    simp only [State.picture, Picture.mk.injEq, monitorCode_eq]
    refine ⟨(map_toList_eq _ _ _).2 h.codes, (map_toList_eq _ _ _).2 h.reps, h.active.symm, h.locked.symm, h.silence.symm, ?_,
      h.intent.symm, h.channel.symm, h.status.symm⟩
    have := h.onFloor
    rw [Bool.eq_iff_iff]
    simpa using this.symm

/-! Curves (R97, R102) -/

/-- A list in which neighbours are related by a transitive relation has every pair related. -/
theorem ascends_iff (l : List Nat) : ascends l = true ↔ l.Pairwise (· < ·) := by
  induction l with
  | nil => simp [ascends]
  | cons x l ih =>
    cases l with
    | nil => simp [ascends]
    | cons y l =>
      simp only [ascends, Bool.and_eq_true, decide_eq_true_eq, ih, List.pairwise_cons, List.mem_cons]
      constructor
      · rintro ⟨h, h1, h2⟩
        refine ⟨?_, h1, h2⟩
        rintro z (rfl | hz)
        · exact h
        · exact Nat.lt_trans h (h1 z hz)
      · rintro ⟨h, h1, h2⟩
        exact ⟨h y (.inl rfl), h1, h2⟩

theorem neverDescends_iff (l : List Nat) : neverDescends l = true ↔ l.Pairwise (· ≤ ·) := by
  induction l with
  | nil => simp [neverDescends]
  | cons x l ih =>
    cases l with
    | nil => simp [neverDescends]
    | cons y l =>
      simp only [neverDescends, Bool.and_eq_true, decide_eq_true_eq, ih, List.pairwise_cons, List.mem_cons]
      constructor
      · rintro ⟨h, h1, h2⟩
        refine ⟨?_, h1, h2⟩
        rintro z (rfl | hz)
        · exact h
        · exact Nat.le_trans h (h1 z hz)
      · rintro ⟨h, h1, h2⟩
        exact ⟨h y (.inl rfl), h1, h2⟩

/-- What holds of every pair of a vector's list holds of every two places of the vector. -/
theorem pairwise_toList {n : Nat} (R : Nat → Nat → Prop) (v : Vector Nat n) :
    v.toList.Pairwise R ↔ ∀ j k : Fin n, j < k → R v[j] v[k] := by
  rw [List.pairwise_iff_getElem]
  constructor
  · intro h j k hjk
    simpa using h j.val k.val (by simp) (by simp) hjk
  · intro h j k hj hk hjk
    have hj' : j < n := by simpa using hj
    have hk' : k < n := by simpa using hk
    simpa using h ⟨j, hj'⟩ ⟨k, hk'⟩ hjk

theorem all_toList {n : Nat} (m : Nat) (v : Vector Nat n) : v.toList.all (· ≤ m) = true ↔ ∀ k : Fin n, v[k] ≤ m := by
  simp only [List.all_eq_true, decide_eq_true_eq]
  constructor
  · intro h k
    exact h _ (by simp)
  · intro h x hx
    obtain ⟨k, hk, rfl⟩ := List.mem_iff_getElem.1 hx
    have hk' : k < n := by simpa using hk
    simpa using h ⟨k, hk'⟩

/-- The faulty mark is clear exactly on a valid curve (R97). -/
theorem faulty_eq_false_iff (c : Curve) : c.faulty = false ↔ CurveValid c := by
  rw [Curve.faulty, Bool.not_eq_false']
  simp only [Bool.and_eq_true, ascends_iff, neverDescends_iff, pairwise_toList, all_toList]
  exact ⟨fun ⟨⟨⟨h1, h2⟩, h3⟩, h4⟩ => ⟨h1, h2, h3, h4⟩, fun ⟨h1, h2, h3, h4⟩ => ⟨⟨⟨h1, h2⟩, h3⟩, h4⟩⟩

theorem faulty_iff (c : Curve) : c.faulty = true ↔ ¬ CurveValid c := by
  rw [← faulty_eq_false_iff, Bool.not_eq_false]

/-- The eight values of a vector as a list. -/
theorem toList_eight {α : Type} (v : Vector α 8) : v.toList = [v[0], v[1], v[2], v[3], v[4], v[5], v[6], v[7]] := by
  apply List.ext_getElem (by simp)
  intro k h1 h2
  have hk : k < 8 := by simpa using h1
  simp only [Vector.getElem_toList]
  match k, hk with
  | 0, _ | 1, _ | 2, _ | 3, _ | 4, _ | 5, _ | 6, _ | 7, _ => rfl

/-- The charge of a valid curve at a rounded voltage (R102). -/
theorem chargeAt_taken {c : Curve} (h : CurveValid c) (v : Nat) : ChargeTaken c v (chargeAt c v) := by
  have r0 : c.volts[0] < c.volts[1] := h.rising 0 1 (by decide)
  have r1 : c.volts[1] < c.volts[2] := h.rising 1 2 (by decide)
  have r2 : c.volts[2] < c.volts[3] := h.rising 2 3 (by decide)
  have r3 : c.volts[3] < c.volts[4] := h.rising 3 4 (by decide)
  have r4 : c.volts[4] < c.volts[5] := h.rising 4 5 (by decide)
  have r5 : c.volts[5] < c.volts[6] := h.rising 5 6 (by decide)
  have r6 : c.volts[6] < c.volts[7] := h.rising 6 7 (by decide)
  have e : chargeAt c v = if v ≤ c.volts[0] then c.charges[0] else interpolate v [(c.volts[0], c.charges[0]),
      (c.volts[1], c.charges[1]), (c.volts[2], c.charges[2]), (c.volts[3], c.charges[3]), (c.volts[4], c.charges[4]),
      (c.volts[5], c.charges[5]), (c.volts[6], c.charges[6]), (c.volts[7], c.charges[7])] := by
    rw [chargeAt, toList_eight, toList_eight]
    rfl
  rw [e]
  simp only [interpolate]
  constructor
  · intro hv
    rw [if_pos hv]
  · intro hv
    repeat rw [if_neg (by omega)]
  · rintro ⟨j, hj⟩ ⟨k, hk⟩ rfl h1 h2
    match j, hj with
    | 0, _ =>
      simp only [Fin.getElem_fin, Nat.reduceAdd] at h1 h2 ⊢
      split
      · rw [show v - c.volts[0] = 0 by omega]
        simp
      · rfl
    | 1, _ | 2, _ | 3, _ | 4, _ | 5, _ | 6, _ =>
      simp only [Fin.getElem_fin, Nat.reduceAdd] at h1 h2 ⊢
      repeat rw [if_neg (by omega)]
      rw [if_pos (by omega)]

/-! The estimate status (R111) -/

/-- The status derived into an estimator is R111's. -/
theorem derived_status (e : Estimator) (c : Curve) : StatusDerived (derived e c.faulty) c := by
  constructor
  · intro h
    simp only [derived, statusOf] at h ⊢
    rw [if_pos h]
  · intro h1 h2 h3
    simp only [derived, statusOf] at h1 h2 ⊢
    simp [h1, h2, (faulty_iff c).2 h3]
  · intro h1 h2 h3
    simp only [derived, statusOf] at h1 h2 ⊢
    simp only [h1, h2, (faulty_eq_false_iff c).2 h3]
    cases e.result <;> rfl

/-! The link summary word (R31, R180) -/

/-- The bits of a mask are its flags. -/
theorem maskOf_testBit (bs : List Bool) (k : Nat) : (maskOf bs).testBit k = (bs[k]?).getD false := by
  induction bs generalizing k with
  | nil => simp [maskOf]
  | cons b bs ih =>
    cases k with
    | zero => cases b <;> simp [maskOf, bit, Nat.testBit_zero]
    | succ k =>
      rw [Nat.testBit_succ]
      have : (maskOf (b :: bs)) / 2 = maskOf bs := by cases b <;> (simp only [maskOf, bit]; simp) <;> omega
      rw [this, ih]
      simp

theorem maskOf_append (xs ys : List Bool) : maskOf (xs ++ ys) = maskOf xs + 2 ^ xs.length * maskOf ys := by
  induction xs with
  | nil => simp [maskOf]
  | cons x xs ih =>
    simp only [List.cons_append, maskOf, ih, List.length_cons, Nat.pow_succ]
    rw [Nat.mul_add, Nat.mul_comm (2 ^ xs.length) 2, Nat.mul_assoc]
    omega

/-- Header word 36 shows the links where it holds the link summary. -/
theorem summaryShown_of {t : State} (h : t.readWord 36 = t.linkSummary) : SummaryShown t := by
  have e : t.readWord 36 = BitVec.ofNat 16 (maskOf ((allLinks.map fun l => (t.link l).state == .up)
      ++ allLinks.map fun l => (t.link l).errorsSeen)) := by
    rw [h, maskOf_append, List.length_map, show allLinks.length = 8 from rfl]
    rfl
  have b : ∀ k < 16, (t.readWord 36).getLsbD k = (((allLinks.map fun l => (t.link l).state == .up)
      ++ allLinks.map fun l => (t.link l).errorsSeen)[k]?).getD false := by
    intro k hk
    rw [e, BitVec.getLsbD_ofNat, maskOf_testBit]
    simp [hk]
  intro l
  rw [b l.val (by omega), b (8 + l.val) (by omega), List.getElem?_append_left (by simp [allLinks]),
    List.getElem?_append_right (by simp [allLinks])]
  constructor
  · simp [allLinks]
  · simp [allLinks]

end Sys2Proof.Machine
end

