-- ==== Sys2Proof/Laws/Reading.lean ====
section
/-! SUPPORT. What a reading of the part returns, and what entering and finishing a slot leave, said once. -/

namespace Sys2Proof.Machine

variable {s t : State}

/-! Readings -/

theorem readChecked_good {a : Nat} (h : s.wordBad a = false) : s.readChecked a = s := by simp [State.readChecked, h]

theorem readOne_good {a : Nat} (h : s.wordBad a = false) : s.readOne a = { s with reads := s.reads ++ [s.look a] } := by
  simp [State.readOne, readChecked_good h]

theorem look_reads (rs : List ReadWord) (a : Nat) : ({ s with reads := rs } : State).look a = s.look a := rfl

/-- The words at `addr a`, …, `addr (a + n - 1)` as they stand. -/
def State.looks (s : State) (addr : Nat → Nat) (a n : Nat) : List ReadWord := (List.range' a n).map fun k => s.look (addr k)

@[simp] theorem length_looks (addr : Nat → Nat) (a n : Nat) : (s.looks addr a n).length = n := by simp [State.looks]

theorem looks_succ (addr : Nat → Nat) (a n : Nat) : s.looks addr a (n + 1) = s.looks addr a n ++ [s.look (addr (a + n))] := by
  simp [State.looks, List.range'_concat]

theorem looks_cons (addr : Nat → Nat) (a n : Nat) : s.looks addr a (n + 1) = s.look (addr a) :: s.looks addr (a + 1) n := by
  simp [State.looks, List.range'_succ]

/-- A reading that goes on through n good words has read them as they stand, and has changed nothing else. -/
theorem readOn_good {next : List ReadWord → Option Nat} (addr : Nat → Nat) (m : Nat) :
    ∀ (n : Nat) (rs : List ReadWord),
      (∀ j < n, next (rs ++ s.looks addr rs.length j) = some (addr (rs.length + j))) →
      (∀ j < n, s.wordBad (addr (rs.length + j)) = false) →
      State.readOn next (n + m) { s with reads := rs } = State.readOn next m { s with reads := rs ++ s.looks addr rs.length n }
  | 0, rs, _, _ => by simp [State.looks]
  | n + 1, rs, hn, hb => by
    have h0 : next rs = some (addr rs.length) := by simpa [State.looks] using hn 0 (by omega)
    have hb0 : s.wordBad (addr rs.length) = false := by simpa using hb 0 (by omega)
    have e : State.readOn next (n + 1 + m) { s with reads := rs }
        = State.readOn next (n + m) { s with reads := rs ++ [s.look (addr rs.length)] } := by
      rw [show n + 1 + m = (n + m) + 1 by omega]
      simp only [State.readOn, h0]
      rw [readOne_good (by exact hb0)]; rfl
    rw [e, readOn_good addr m n (rs ++ [s.look (addr rs.length)])]
    · simp [looks_cons]
    · intro j hj
      have := hn (j + 1) (by omega)
      rw [looks_cons] at this
      simpa [Nat.add_assoc, Nat.add_comm, Nat.add_left_comm] using this
    · intro j hj
      have := hb (j + 1) (by omega)
      simpa [Nat.add_assoc, Nat.add_comm, Nat.add_left_comm] using this

/-- A reading that is over reads nothing. -/
theorem readOn_over {next : List ReadWord → Option Nat} (h : next s.reads = none) (n : Nat) : State.readOn next n s = s := by
  cases n with
  | zero => rfl
  | succ n => simp [State.readOn, h]

/-- A reading changes what it has read, the latch and the causes, and nothing else. -/
theorem readOn_frame {next : List ReadWord → Option Nat} (n : Nat) (s : State) :
    State.readOn next n s = { s with
      reads := (State.readOn next n s).reads, faultLatch := (State.readOn next n s).faultLatch,
      causes := (State.readOn next n s).causes } := by
  induction n generalizing s with
  | zero => rfl
  | succ n ih =>
    simp only [State.readOn]; split
    · rfl
    · rename_i a _
      have e : s.readOne a = { s with reads := (s.readOne a).reads, faultLatch := (s.readOne a).faultLatch,
                                      causes := (s.readOne a).causes } := by
        unfold State.readOne State.readChecked; split <;> rfl
      rw [ih (s.readOne a)]
      generalize (State.readOn next n (s.readOne a)).reads = x
      generalize (State.readOn next n (s.readOne a)).faultLatch = y
      generalize (State.readOn next n (s.readOne a)).causes = z
      rw [e]

/-! Words of a page -/

/-- The page words of a sound layout lie in the RAM. -/
theorem pageBase_le (h : s.layoutSound) (p : Page) : s.layout.pageBase p + 196 ≤ 16384 := by
  have := h.1 (s.layout.pageArea, 392) (by simp [State.regions])
  simp only [ramWords] at this
  cases p <;> simp [Layout.pageBase] <;> omega

theorem progressAddr_eq (l : Layout) (p : Page) : l.progressAddr p = l.pageBase p + 3 := rfl
theorem slotAddr_eq (l : Layout) (p : Page) (i : Nat) : l.slotAddr p i = l.pageBase p + 4 + 6 * i := rfl

/-! Entering a slot -/

/-- A slot that begins has its index in the progress word; no other word is written and nothing is read. -/
theorem beginSlot_spec {w : PageWork} (hw : s.worked = some w) (hm : s.memoryLaw) (hp : s.layout.pageBase w.page + 196 ≤ 16384) :
    let t := s.beginSlot w
    t = { s with ram := t.ram, badParity := t.badParity, worked := some { w with begun := true }, reads := t.reads }
      ∧ t.reads = (if w.begun then s.reads else [])
      ∧ (w.begun = false → t.readWord (s.layout.progressAddr w.page) = word w.slot)
      ∧ wordsKept s t (fun a => a = s.layout.progressAddr w.page ∧ w.begun = false) ∧ t.memoryLaw := by
  unfold State.beginSlot
  cases hb : w.begun
  · simp only [Bool.false_eq_true, if_false]
    refine ⟨rfl, trivial, fun _ => ?_, fun a ha => ⟨?_, ?_⟩, memoryLaw_putWord hm⟩
    · refine (readWord_congr (s := s.writeProgress w.page w.slot) rfl _).trans ?_
      rw [State.writeProgress, readWord_putWord hm.1, if_pos]
      exact ⟨rfl, show s.layout.pageBase w.page + 3 < 16384 by omega⟩
    · refine (readWord_congr (s := s.writeProgress w.page w.slot) rfl _).trans ?_
      rw [State.writeProgress, readWord_putWord hm.1, if_neg]
      intro h; exact ha ⟨h.1, trivial⟩
    · refine (wordBad_congr (s := s.writeProgress w.page w.slot) rfl _).trans ?_
      rw [State.writeProgress, wordBad_putWord, if_neg]
      intro h; exact ha ⟨h.1, trivial⟩
  · simp only [if_true]
    have : ({ w with begun := true } : PageWork) = w := by cases w; simp_all
    refine ⟨by rw [this, ← hw], trivial, fun h => by simp at h, fun a _ => ⟨rfl, rfl⟩, hm⟩

/-- What entering the slot in hand leaves: the slot has begun, its three words have been read good and spell `o`, and
nothing else has changed but the progress word. -/
structure Entered (s t : State) (w : PageWork) (o : Slot) : Prop where
  frame : t = { s with ram := t.ram, badParity := t.badParity, worked := some { w with begun := true }, reads := t.reads }
  progress : w.begun = false → t.readWord (s.layout.progressAddr w.page) = word w.slot
  kept : wordsKept s t (fun a => a = s.layout.progressAddr w.page ∧ w.begun = false)
  memory : t.memoryLaw
  slot : slotOf (valuesOf (t.reads.take 3)) = o
  good : firstBadRead (t.reads.take 3) = none

theorem firstBadRead_eq_none {rs : List ReadWord} : firstBadRead rs = none ↔ ∀ r ∈ rs, r.bad = false := by
  simp [firstBadRead, List.find?_eq_none]

/-- Words read so far that are as the slot's words are read: those of the reading in progress, then the words as they
stand. -/
theorem slotRead_eq {w : PageWork} {k : Nat} : s.slotRead w k = ((if w.begun then s.reads else [])[k]?).getD (s.look (s.layout.slotAddr w.page w.slot + k)) := by
  unfold State.slotRead; split <;> rename_i h <;> simp [h]

/-- Entering a slot reads its three words, where they have not been read, and then goes on with what its order reads. -/
theorem enterSlot_slot {w : PageWork} {o : Slot} (h : s.OrderInHand w o) (hm : s.memoryLaw) (hl : s.layoutSound) :
    ∃ (L : List ReadWord) (m : Nat),
      s.enterSlot w = State.readOn (State.nextOrderRead (s.beginSlot w) { w with begun := true }) m { s.beginSlot w with reads := L }
        ∧ Entered s { s.beginSlot w with reads := L } w o ∧ 3 ≤ L.length ∧ 136 ≤ m
        ∧ ((if w.begun then s.reads else []).length ≤ 3 → L.length = 3)
        ∧ (3 ≤ (if w.begun then s.reads else []).length → L = if w.begun then s.reads else []) := by
  have hp := pageBase_le hl w.page
  obtain ⟨e1, e2, e3, e4, e5⟩ := beginSlot_spec h.worked hm hp
  have hslot : w.slot < 32 := by
    have := h.ready; simp [State.slotReady] at this; have := h.count; omega
  generalize hu : s.beginSlot w = u at *
  generalize hR : (if w.begun then s.reads else []) = R at *
  have hlook : ∀ k, k < 3 → u.look (s.layout.slotAddr w.page w.slot + k) = s.look (s.layout.slotAddr w.page w.slot + k) := by
    intro k hk
    have := e4 (s.layout.slotAddr w.page w.slot + k) (by simp only [slotAddr_eq, progressAddr_eq]; omega)
    simp [State.look, this]
  have hread : ∀ k, k < 3 → s.slotRead w k = (R[k]?).getD (u.look (s.layout.slotAddr w.page w.slot + k)) := by
    intro k hk; rw [slotRead_eq, hR, hlook k hk]
  have hlay : u.layout = s.layout := by rw [e1]
  let addr : Nat → Nat := fun k => s.layout.slotAddr w.page w.slot + k
  have hL : ∀ j, ∀ k, k < 3 → k < R.length + j → (R ++ u.looks addr R.length j)[k]? = some (s.slotRead w k) := by
    intro j k hk hkj
    rw [hread k hk]
    by_cases hk2 : k < R.length
    · rw [List.getElem?_append_left hk2, List.getElem?_eq_getElem hk2]; rfl
    · rw [List.getElem?_append_right (by omega), List.getElem?_eq_none (l := R) (by omega)]
      simp only [State.looks, List.getElem?_map, Option.getD_none]
      rw [List.getElem?_range' (by omega)]
      simp only [Option.map_some, addr]; congr 2; omega
  have hbadL : ∀ j, R.length + j ≤ 3 → firstBadRead (R ++ u.looks addr R.length j) = none := by
    intro j hj
    rw [firstBadRead_eq_none]
    intro r hr
    obtain ⟨k, hk, rfl⟩ := List.mem_iff_getElem.1 hr
    have hk' : k < R.length + j := by simpa using hk
    have := hL j k (by omega) hk'
    rw [List.getElem?_eq_getElem hk] at this
    rw [Option.some.inj this]; exact h.good k (by omega)
  have htake : ∀ j, 3 ≤ R.length + j → (R ++ u.looks addr R.length j).take 3 = [s.slotRead w 0, s.slotRead w 1, s.slotRead w 2] := by
    intro j hj
    apply List.ext_getElem?
    intro k
    by_cases hk : k < 3
    · rw [List.getElem?_take_of_lt hk, hL j k hk (by omega)]
      match k, hk with
      | 0, _ => rfl
      | 1, _ => rfl
      | 2, _ => rfl
    · rw [List.getElem?_eq_none (by simp; omega), List.getElem?_eq_none (by simp; omega)]
  have hent : ∀ j, 3 ≤ R.length + j → Entered s { u with reads := R ++ u.looks addr R.length j } w o := by
    intro j hj
    refine ⟨?_, e3, e4, e5, ?_, ?_⟩
    · rw [e1]
    · show slotOf (valuesOf ((R ++ u.looks addr R.length j).take 3)) = o
      rw [htake j hj]
      show Slot.mk (s.slotRead w 0).value (s.slotRead w 1).value (s.slotRead w 2).value = o
      rw [h.kind, h.seat, h.arg]
    · show firstBadRead ((R ++ u.looks addr R.length j).take 3) = none
      rw [htake j hj, firstBadRead_eq_none]
      simp only [List.mem_cons, List.not_mem_nil, or_false]
      rintro r (rfl | rfl | rfl)
      · exact h.good 0 (by omega)
      · exact h.good 1 (by omega)
      · exact h.good 2 (by omega)
  have hu2 : u = { u with reads := R } := by rw [← e2]
  by_cases hR3 : R.length ≤ 3
  · refine ⟨R ++ u.looks addr R.length (3 - R.length), 136 + R.length, ?_, hent _ (by omega), by simp; omega, by omega,
      fun _ => by simp; omega, fun h3 => ?_⟩
    · unfold State.enterSlot; rw [hu]; dsimp only
      have e := readOn_good (s := u) (next := State.nextOrderRead u { w with begun := true }) addr (136 + R.length) (3 - R.length) R ?_ ?_
      · rw [show 3 - R.length + (136 + R.length) = 3 + tableWords by simp [tableWords]; omega] at e
        rw [← e, ← hu2]
      · intro j hj
        unfold State.nextOrderRead
        rw [if_neg (by rw [hbadL j (by omega)]; simp), if_pos (by simp; omega)]
        simp only [List.length_append, length_looks, addr, hlay]
      · intro j hj
        have := h.good (R.length + j) (by omega)
        rw [hread _ (by omega), List.getElem?_eq_none (by omega)] at this
        simpa [State.look, addr] using this
    · rw [show 3 - R.length = 0 by omega]; simp [State.looks]
  · refine ⟨R, 3 + tableWords, ?_, ?_, by omega, by simp [tableWords], fun h3 => absurd h3 hR3, fun _ => rfl⟩
    · unfold State.enterSlot; rw [hu, ← hu2]
    · have := hent 0 (by omega); simpa [State.looks] using this

/-- An order whose kind reads no more than the slot's three words is entered with them alone. -/
theorem enterSlot_simple {w : PageWork} {o : Slot} (h : s.OrderInHand w o) (hm : s.memoryLaw) (hl : s.layoutSound)
    (h1 : o.kind ≠ kindLoadSeat) (h2 : o.kind ≠ kindReloadClasses) : Entered s (s.enterSlot w) w o := by
  obtain ⟨L, m, e, he, hL, -⟩ := enterSlot_slot h hm hl
  rw [e, readOn_over]
  · exact he
  · show State.nextOrderRead _ _ L = none
    have hs : slotOf (valuesOf L) = o := by
      have := he.slot
      rw [← this]
      match L, hL with
      | a :: b :: c :: rest, _ => rfl
    unfold State.nextOrderRead
    split
    · rfl
    rw [if_neg (by omega)]; dsimp only; rw [hs]
    split
    · rfl
    rw [if_neg (by simpa using h1), if_neg (by simpa using h2)]

/-! Finishing a slot -/

theorem memoryLaw_putWords (ws : List Word) {s : State} {a : Nat} (h : s.memoryLaw) : (s.putWords a ws).memoryLaw := by
  induction ws generalizing s a with
  | nil => exact h
  | cons w ws ih => exact ih (memoryLaw_putWord h)

/-- Word writes change the RAM and the parity alone. -/
theorem putWords_frame (ws : List Word) (s : State) (a : Nat) :
    s.putWords a ws = { s with ram := (s.putWords a ws).ram, badParity := (s.putWords a ws).badParity } := by
  induction ws generalizing s a with
  | nil => rfl
  | cons w ws ih =>
    rw [State.putWords, ih (s.putWord a w)]
    generalize ((s.putWord a w).putWords (a + 1) ws).ram = x
    generalize ((s.putWord a w).putWords (a + 1) ws).badParity = y
    rfl
/-- What finishing a slot leaves of the rest of the state. -/
theorem finishOrder_frame (u : State) (w : PageWork) (e : OrderEnd) :
    u.finishOrder w e = { u with
      ram := (u.finishOrder w e).ram, badParity := (u.finishOrder w e).badParity, lift := e.lift, reads := []
      worked := some { w with
          slot := w.slot + 1, begun := false, refusals := w.refusals || !e.code.success, bound := e.bound, bulk := none,
          ending := e.ending } } := by
  have h1 : (u.finishOrder w e).ram = (u.writeResult w.page w.slot e.code e.a e.b).ram := rfl
  have h2 : (u.finishOrder w e).badParity = (u.writeResult w.page w.slot e.code e.a e.b).badParity := rfl
  rw [h1, h2]
  unfold State.finishOrder
  have h := putWords_frame [word e.code.code, e.a, e.b] u (u.layout.slotAddr w.page w.slot + 3)
  unfold State.writeResult
  generalize u.putWords (u.layout.slotAddr w.page w.slot + 3) [word e.code.code, e.a, e.b] = t at *
  generalize t.ram = x at *
  generalize t.badParity = y at *
  subst h
  rfl

/-- Finishing a slot writes its three answer words and moves the unit on; nothing else changes but the lift and the
reading. -/
theorem finishOrder_spec {u : State} {w : PageWork} {e : OrderEnd} (hm : u.memoryLaw)
    (hp : u.layout.pageBase w.page + 196 ≤ 16384) (hs : w.slot < 32) :
    let t := u.finishOrder w e
    t = { u with ram := t.ram, badParity := t.badParity, lift := e.lift, reads := [], worked := some { w with
          slot := w.slot + 1, begun := false, refusals := w.refusals || !e.code.success, bound := e.bound, bulk := none,
          ending := e.ending } }
      ∧ t.readWord (u.layout.slotAddr w.page w.slot + 3) = word e.code.code
      ∧ t.readWord (u.layout.slotAddr w.page w.slot + 4) = e.a ∧ t.readWord (u.layout.slotAddr w.page w.slot + 5) = e.b
      ∧ wordsKept u t (fun a => ∃ k, 3 ≤ k ∧ k < 6 ∧ a = u.layout.slotAddr w.page w.slot + k) ∧ t.memoryLaw := by
  have hr : ∀ x, (u.finishOrder w e).readWord x = (u.putWords (u.layout.slotAddr w.page w.slot + 3) [word e.code.code, e.a, e.b]).readWord x :=
    fun x => rfl
  have hb : ∀ x, (u.finishOrder w e).wordBad x = (u.putWords (u.layout.slotAddr w.page w.slot + 3) [word e.code.code, e.a, e.b]).wordBad x :=
    fun x => rfl
  have hlen : u.layout.slotAddr w.page w.slot + 3 + [word e.code.code, e.a, e.b].length ≤ ramWords := by
    show u.layout.pageBase w.page + 4 + 6 * w.slot + 3 + 3 ≤ 16384; omega
  have hget : ∀ k (hk : k < 3), (u.putWords (u.layout.slotAddr w.page w.slot + 3) [word e.code.code, e.a, e.b]).readWord
      (u.layout.slotAddr w.page w.slot + 3 + k) = [word e.code.code, e.a, e.b][k] := by
    intro k hk
    rw [readWord_putWords _ hm.1 hlen, dif_pos ⟨by omega, by simp; omega⟩]
    congr 1; omega
  refine ⟨finishOrder_frame u w e, (hr _).trans (hget 0 (by omega)), (hr _).trans (hget 1 (by omega)), (hr _).trans (hget 2 (by omega)),
    fun a ha => ?_, memoryLaw_putWords _ hm⟩
  have hx : a < u.layout.slotAddr w.page w.slot + 3 ∨ u.layout.slotAddr w.page w.slot + 3 + [word e.code.code, e.a, e.b].length ≤ a := by
    show a < u.layout.slotAddr w.page w.slot + 3 ∨ u.layout.slotAddr w.page w.slot + 3 + 3 ≤ a
    by_contra hc
    exact ha ⟨a - u.layout.slotAddr w.page w.slot, by omega, by omega, by omega⟩
  exact ⟨(hr _).trans (readWord_putWords_other _ hm.1 hx), (hb _).trans (wordBad_putWords_other _ hx)⟩

/-- The order in hand is worked on the state that entering its slot leaves, and answers there. -/
theorem workSlot_inHand {takes : Word → Bool} {work : PageWork → Slot → State → State × Option OrderEnd} {w : PageWork} {o : Slot}
    (h : s.OrderInHand w o) (hk : takes o.kind = true) (he : Entered s (s.enterSlot w) w o) :
    workSlot takes work s = match work { w with begun := true } o (s.enterSlot w) with
      | (u, some e) => u.finishOrder { w with begun := true } e
      | (u, none) => u := by
  have hf : s.slotFor w takes = true := by simp [State.slotFor, h.kind, hk]
  simp only [workSlot, h.worked, h.ready, hf, Bool.and_self, if_true]
  unfold workEntered; dsimp only
  rw [he.good, he.slot]; dsimp only
  have hp : pairingHolds { w with begun := true } o = true := h.pairing
  rw [hp]; simp only [Bool.not_true, Bool.and_false, Bool.false_eq_true, if_false] <;> rfl

/-- A single order in hand of a kind that reads no more than its slot. -/
theorem workOrder_inHand {kind : Word} {work : Slot → State → State × OrderEnd} {w : PageWork} {o : Slot}
    (h : s.OrderInHand w o) (hk : o.kind = kind) (he : Entered s (s.enterSlot w) w o) :
    workOrder kind work s = (work o (s.enterSlot w)).1.finishOrder { w with begun := true } (work o (s.enterSlot w)).2 := by
  unfold workOrder
  rw [workSlot_inHand h (by simp [hk]) he]

theorem OrderInHand.slot_lt {w : PageWork} {o : Slot} (h : s.OrderInHand w o) : w.slot < w.count ∧ w.slot < 32 := by
  have h1 := h.ready; simp [State.slotReady] at h1; have := h.count; omega

/-- An order that has changed neither the progress word nor the layout is done when its slot is finished. -/
theorem orderDone_finish {t u : State} {w : PageWork} {o : Slot} {code : ResultCode} {a b : Word} (h : s.OrderInHand w o)
    (hl : s.layoutSound) (he : Entered s t w o) (hu : u.layout = s.layout) (hm : u.memoryLaw)
    (hp : u.readWord (s.layout.progressAddr w.page) = t.readWord (s.layout.progressAddr w.page)) :
    OrderDone s (u.finishOrder { w with begun := true } { code := code, a := a, b := b }) w code a b := by
  have hb := pageBase_le hl w.page
  obtain ⟨e1, e2, e3, e4, e5, -⟩ := finishOrder_spec (u := u) (w := { w with begun := true }) (e := { code := code, a := a, b := b })
    hm (by rw [hu]; exact hb) (OrderInHand.slot_lt h).2
  rw [hu] at e2 e3 e4 e5
  refine ⟨fun h0 => ?_, e2.trans (word_resultCode code), e3, e4, rfl, rfl, rfl⟩
  rw [(e5 _ ?_).1, hp, he.progress h0]
  simp only [slotAddr_eq, progressAddr_eq]
  rintro ⟨k, h1, h2, h3⟩; omega

/-- The words that a finished slot leaves alone. -/
theorem wordsKept_finish {t u : State} {w : PageWork} {o : Slot} {e : OrderEnd} {p : Nat → Prop} (h : s.OrderInHand w o)
    (hl : s.layoutSound) (he : Entered s t w o) (hu : u.layout = s.layout) (hm : u.memoryLaw) (hp : wordsKept t u p) :
    wordsKept s (u.finishOrder { w with begun := true } e) (fun a => slotWords s w a ∨ p a) := by
  have hb := pageBase_le hl w.page
  obtain ⟨-, -, -, -, e5, -⟩ := finishOrder_spec (u := u) (w := { w with begun := true }) (e := e)
    hm (by rw [hu]; exact hb) (OrderInHand.slot_lt h).2
  rw [hu] at e5
  intro a ha
  simp only [slotWords, not_or] at ha
  have h1 := e5 a ha.1.2
  have h2 := hp a ha.2
  have h3 := he.kept a (fun hh => ha.1.1 hh.1)
  exact ⟨h1.1.trans (h2.1.trans h3.1), h1.2.trans (h2.2.trans h3.2)⟩

/-- An order that changes nothing answers alone. -/
theorem answeredOnly_finish {t : State} {w : PageWork} {o : Slot} {code : ResultCode} {a b : Word} (h : s.OrderInHand w o)
    (hl : s.layoutSound) (he : Entered s t w o) :
    answeredOnly s (t.finishOrder { w with begun := true } { code := code, a := a, b := b }) w code a b := by
  have hu : t.layout = s.layout := by rw [he.frame]
  refine ⟨orderDone_finish h hl he hu he.memory rfl, ?_, ?_⟩
  · have := wordsKept_finish (e := { code := code, a := a, b := b }) (p := fun _ => False) h hl he hu he.memory (fun a _ => ⟨rfl, rfl⟩)
    exact fun a ha => this a (by simpa using ha)
  · have := (finishOrder_spec (u := t) (w := { w with begun := true }) (e := { code := code, a := a, b := b }) he.memory
      (by rw [hu]; exact pageBase_le hl w.page) (OrderInHand.slot_lt h).2).1
    rw [this]
    generalize (t.finishOrder { w with begun := true } { code := code, a := a, b := b }).ram = x
    generalize (t.finishOrder { w with begun := true } { code := code, a := a, b := b }).badParity = y
    rw [he.frame]

end Sys2Proof.Machine
end

