-- ==== Sys2Proof/Laws/Requests.lean ====
section
/-! SUPPORT. What the part's own access in RUNNING and STOPPING can be, said once: what the order in hand asks for, the one
access that serves it, and the order of the two who ask (R165). -/

namespace Sys2Proof.Machine

variable {s : State} {w : PageWork}

/-! What the order in hand asks for -/

theorem firstBadRead_isSome (rs : List ReadWord) : (firstBadRead rs).isSome = false ↔ ∀ r ∈ rs, r.bad = false := by
  simp [firstBadRead]

/-- The order waits for its index to be written exactly where its slot may begin. -/
theorem orderAsks_none_iff : s.OrderAsks w none ↔ w.bulk = none ∧ w.begun = false ∧ s.slotReady w = true := by
  constructor
  · rintro ⟨h1, h2, h3, h4, h5, h6⟩
    refine ⟨h1, h2, ?_⟩
    simp only [State.slotReady, h1, h2, h3, h4, Option.isNone_none, beq_self_eq_true, Bool.true_or, Bool.true_and, Bool.false_or,
      Bool.and_eq_true, decide_eq_true_eq, Bool.not_eq_true', Bool.and_eq_false_imp, beq_iff_eq, decide_eq_false_iff_not]
    exact ⟨h5, fun h => by have := h6 h; omega⟩
  · rintro ⟨h1, h2, h3⟩
    simp only [State.slotReady, h2, Bool.and_eq_true, Bool.or_eq_true, beq_iff_eq, decide_eq_true_eq, Option.isNone_iff_eq_none,
      Bool.false_or, Bool.not_eq_true', Bool.and_eq_false_imp, decide_eq_false_iff_not] at h3
    exact .index h1 h2 h3.1.1.1.2 h3.2.1 h3.1.2 fun h => by have := h3.2.2 h; omega

/-- The next word that a begun slot asks for is the one that its reading gives. -/
theorem orderAsks_single_iff {a : Nat} (hb : w.bulk = none) :
    s.OrderAsks w (some a) ↔ w.begun = true ∧ s.slotReady w = true ∧ s.nextOrderRead w s.reads = some a := by
  have ready : w.begun = true → ((s.slotReady w = true) ↔
      (s.part = .running ∨ s.part = .stopping) ∧ w.ending = none ∧ w.slot < w.count) := by
    intro h
    simp [State.slotReady, h, hb, and_assoc]
  constructor
  · intro h
    cases h with
    | operand _ h2 h3 h4 h5 h6 h7 =>
      refine ⟨h2, (ready h2).2 ⟨h4, h3, h5⟩, ?_⟩
      simp [State.nextOrderRead, (firstBadRead_isSome _).2 h6, h7]
    | record o i _ h2 h3 h4 h5 h6 h7 h8 h9 h10 h11 h12 h13 h14 =>
      subst h7
      refine ⟨h2, (ready h2).2 ⟨h4, h3, h5⟩, ?_⟩
      have hseat : s.seatOf (slotOf (valuesOf s.reads)).seat = some i := by
        have hm : i.val % 65536 = i.val := Nat.mod_eq_of_lt (by omega)
        rw [h10]; simp [State.seatOf, seatWord, word, hm, h11]
      have hpair : pairingHolds w (slotOf (valuesOf s.reads)) = true := by
        rcases h9 with h | h <;> simp [pairingHolds, h, liftableKind, h8]
      have hbusy : s.rangeBusy i = false := by
        unfold State.rangeBusy
        split
        · rfl
        · split
          · rfl
          · next b hb' =>
            have := h12 _ b ‹_› hb'
            simp only [Bool.and_eq_false_iff, beq_eq_false_iff_ne, decide_eq_false_iff_not]
            by_cases hk : b.kind = .loadRange
            · have := this hk; by_cases hc : b.cursor ≤ i.val
              · exact .inr fun h => this ⟨hc, h⟩
              · exact .inl (.inr hc)
            · exact .inl (.inl hk)
      simp [State.nextOrderRead, (firstBadRead_isSome _).2 h6, show ¬ s.reads.length < 3 by omega, hpair, h8, hseat, hbusy,
        show ¬ 6 ≤ s.reads.length by omega, Layout.recordAddr]
    | table _ h2 h3 h4 h5 h6 h7 h8 h9 h10 =>
      refine ⟨h2, (ready h2).2 ⟨h4, h3, h5⟩, ?_⟩
      have hk : (kindReloadClasses == kindLoadSeat) = false := by decide
      simp [State.nextOrderRead, (firstBadRead_isSome _).2 h6, show ¬ s.reads.length < 3 by omega, pairingHolds, h8, h7, hk, tableWords,
        h10]
    | range b _ h1 => rw [hb] at h1; cases h1
  · rintro ⟨h2, h3, h4⟩
    obtain ⟨h5, h6, h7⟩ := (ready h2).1 h3
    unfold State.nextOrderRead at h4
    split at h4
    · cases h4
    next hbad =>
    have hgood := (firstBadRead_isSome _).1 (by simpa using hbad)
    split at h4
    · next hl => cases h4; exact .operand hb h2 h6 h5 h7 hgood hl
    next hl =>
    dsimp only at h4
    split at h4
    · cases h4
    next hpair =>
    simp only [Bool.not_eq_true', Bool.not_eq_false] at hpair
    split at h4
    · next hk =>
      have hk : (slotOf (valuesOf s.reads)).kind = kindLoadSeat := by simpa using hk
      split at h4
      · cases h4
      next i hi =>
      split at h4
      · cases h4
      next hc =>
      cases h4
      simp only [Bool.or_eq_true, decide_eq_true_eq, not_or, Bool.not_eq_true] at hc
      obtain ⟨hi1, hi2⟩ : i.val < s.layout.seatCount ∧ (slotOf (valuesOf s.reads)).seat = seatWord i := by
        revert hi
        simp only [State.seatOf]
        intro hi
        split at hi
        · split at hi
          · cases hi
            refine ⟨by assumption, ?_⟩
            simp [seatWord, word]
          · cases hi
        · cases hi
      refine .record _ i hb h2 h6 h5 h7 hgood rfl hk ?_ hi2 hi1 ?_ (by omega) (by omega)
      · unfold pairingHolds at hpair
        split at hpair
        · exact .inl ‹_›
        · next x hx => simp only [Bool.and_eq_true, beq_iff_eq] at hpair; exact .inr (by rw [hx, hpair.2])
      · intro v b hv hvb hk' hcon
        have := hc.1
        simp [State.rangeBusy, hv, hvb, hk', hcon.1, hcon.2] at this
    · next hk =>
      split at h4
      · next hk' =>
        have hk' : (slotOf (valuesOf s.reads)).kind = kindReloadClasses := by simpa using hk'
        split at h4
        · next hl' =>
          cases h4
          refine .table hb h2 h6 h5 h7 hgood hk' ?_ (by omega) (by simpa [tableWords] using hl')
          unfold pairingHolds at hpair
          split at hpair
          · assumption
          · simp only [hk', Bool.and_eq_true] at hpair
            exact absurd hpair.1 (by decide)
        · cases h4
      · cases h4

/-- The next word that a bulk order asks for is the one that its slice gives. -/
theorem orderAsks_bulk_iff {a : Nat} {b : Bulk} (hb : w.bulk = some b) :
    s.OrderAsks w (some a) ↔ (s.part = .running ∨ s.part = .stopping) ∧ s.nextRangeRead b = some a := by
  constructor
  · intro h
    cases h with
    | range b' i h1 h2 h3 h4 h5 h6 h7 h8 =>
      rw [hb] at h1; cases h1
      refine ⟨h4, ?_⟩
      have hs : seatOfNat b.cursor = some i := by rw [h5]; simp [seatOfNat]
      have hl : s.lockedUnlifted i = false := by
        unfold State.lockedUnlifted
        rcases h6 with h | h <;> simp [h]
      simp [State.nextRangeRead, h2, h3, hs, hl, recordRead, (firstBadRead_isSome _).2 h7, Layout.recordAddr, show ¬ 3 ≤ s.reads.length by omega]
    | operand h1 => rw [hb] at h1; cases h1
    | record _ _ h1 => rw [hb] at h1; cases h1
    | table h1 => rw [hb] at h1; cases h1
  · rintro ⟨h1, h2⟩
    unfold State.nextRangeRead at h2
    split at h2
    · cases h2
    next hk =>
    simp only [not_or, Decidable.not_not, Bool.not_eq_true] at hk
    split at h2
    · cases h2
    next i hi =>
    split at h2
    · cases h2
    next hc =>
    cases h2
    simp only [Bool.or_eq_true, not_or, Bool.not_eq_true, recordRead, decide_eq_true_eq] at hc
    have hv : b.cursor = i.val := by
      unfold seatOfNat at hi
      split at hi
      · cases hi; rfl
      · cases hi
    have e := State.OrderAsks.range (s := s) (w := w) b i hb hk.1 hk.2 h1 hv ?_ ((firstBadRead_isSome _).1 hc.2.1) (by omega)
    · have ha : s.layout.recordAddr i + s.reads.length = s.layout.seatTable + 3 * i.val + s.reads.length := by
        simp [Layout.recordAddr]
      rwa [ha]
    · have := hc.1
      unfold State.lockedUnlifted at this
      by_cases hlk : (s.seat i).ctx.locked = true
      · simp only [hlk, Bool.true_and, bne_eq_false_iff_eq] at this; exact .inr this
      · exact .inl (by simpa using hlk)

/-- The order in hand waits at the arbiter exactly where it asks for something. -/
theorem orderRequest_isSome_iff (hw : s.worked = some w) : s.orderRequest.isSome = true ↔ ∃ a, s.OrderAsks w a := by
  have hr : s.orderRequest.isSome = s.orderWaits w := by
    unfold State.orderRequest; rw [hw]; dsimp only; split <;> simp_all
  rw [hr]
  unfold State.orderWaits
  cases hb : w.bulk with
  | some b =>
    simp only [Bool.and_eq_true, Bool.or_eq_true, beq_iff_eq, Option.isSome_iff_exists]
    constructor
    · rintro ⟨h1, a, h2⟩; exact ⟨some a, (orderAsks_bulk_iff hb).2 ⟨h1, h2⟩⟩
    · rintro ⟨a, h⟩
      cases a with
      | none => have := (orderAsks_none_iff.1 h).1; rw [hb] at this; cases this
      | some a => have := (orderAsks_bulk_iff hb).1 h; exact ⟨this.1, a, this.2⟩
  | none =>
    simp only [Bool.and_eq_true, Bool.or_eq_true, Bool.not_eq_true', Option.isSome_iff_exists]
    constructor
    · rintro ⟨h1, h2 | ⟨a, h2⟩⟩
      · exact ⟨none, orderAsks_none_iff.2 ⟨hb, h2, h1⟩⟩
      · cases hbeg : w.begun with
        | true => exact ⟨some a, (orderAsks_single_iff hb).2 ⟨hbeg, h1, h2⟩⟩
        | false => exact ⟨none, orderAsks_none_iff.2 ⟨hb, hbeg, h1⟩⟩
    · rintro ⟨a, h⟩
      cases a with
      | none => have := orderAsks_none_iff.1 h; exact ⟨this.2.2, .inl this.2.1⟩
      | some a => have := (orderAsks_single_iff hb).1 h; exact ⟨this.2.1, .inr ⟨a, this.2.2⟩⟩

/-! Serving it -/

/-- The order's access is the one that the order asks for. -/
theorem orderAccess_eq (hw : s.worked = some w) :
    (s.OrderAsks w none → s.orderAccess = s.beginSlot w) ∧ ∀ a, s.OrderAsks w (some a) → s.orderAccess = s.readOne a := by
  unfold State.orderAccess
  rw [hw]
  dsimp only
  constructor
  · intro h
    obtain ⟨h1, h2, -⟩ := orderAsks_none_iff.1 h
    rw [h1]; simp [h2]
  · intro a h
    cases hb : w.bulk with
    | some b => simp [((orderAsks_bulk_iff hb).1 h).2]
    | none =>
      obtain ⟨h1, -, h2⟩ := (orderAsks_single_iff hb).1 h
      simp [h1, h2]

theorem askNextWord_nil (h : s.boardWrites = []) : s.askNextWord = s := by simp [State.askNextWord, h]
theorem askNextWord_cons {e : BoardEntry} {rest : List BoardEntry} (h : s.boardWrites = e :: rest) :
    s.askNextWord = { s with boardWrites := { e with behind := s.orderRequest } :: rest } := by simp [State.askNextWord, h]

theorem boardAccess_nil (h : s.boardWrites = []) : s.boardAccess = s := by simp [State.boardAccess, h]
theorem boardAccess_cons {e : BoardEntry} {rest : List BoardEntry} (h : s.boardWrites = e :: rest) :
    s.boardAccess = (s.boardWord e.seat).askNextWord := by simp [State.boardAccess, h]

theorem orderFirst_iff : s.orderFirst = true ↔ s.orderRequest.isSome = true ∧ ∀ e rest, s.boardWrites = e :: rest → e.behind = s.orderRequest := by
  unfold State.orderFirst
  cases h : s.boardWrites with
  | nil => simp
  | cons e rest => simp

/-- Work that needs no access comes first, then the order's access if it asked first, else the Board Writer's. -/
theorem runAccess_eq :
    (∀ t, s.orderWork = some t → s.runAccess = t)
    ∧ (s.orderWork = none → s.orderFirst = true → s.runAccess = s.orderAccess)
    ∧ (s.orderWork = none → s.orderFirst = false → s.runAccess = s.boardAccess) := by
  refine ⟨fun t h => ?_, fun h h' => ?_, fun h h' => ?_⟩
  · simp [State.runAccess, h]
  · simp [State.runAccess, h, h']
  · simp [State.runAccess, h, h']

/-- Work without access is the share of a LOAD RANGE's seat before the last of its slice, or the opening of its next slice. -/
theorem orderWork_cases {t : State} (h : s.orderWork = some t) : ∃ w b, s.worked = some w ∧ w.bulk = some b
    ∧ b.kind = .loadRange ∧ (s.part = .running ∨ s.part = .stopping)
    ∧ (s.shareReady b = true ∧ t = { (bulkSeat (s, b) b.cursor).1 with
          worked := some { w with bulk := some { (bulkSeat (s, b) b.cursor).2 with cursor := b.cursor + 1 } } }
      ∨ b.atBoundary = true ∧ s.boundaryCut w b = none ∧ s.yields w b = false
        ∧ t = { s with worked := some { w with bulk := some b.opened }, reads := [] }) := by
  unfold State.orderWork at h
  split at h
  · cases h
  next w hw =>
  split at h
  · cases h
  next b hb =>
  split at h
  · next hp =>
    refine ⟨w, b, hw, hb, ?_⟩
    unfold State.rangeWork at h
    split at h
    · next hs =>
      cases h
      have hk : b.kind = .loadRange := by simp [State.shareReady] at hs; exact hs.1.1.1
      exact ⟨hk, hp, .inl ⟨hs, rfl⟩⟩
    · split at h
      · next hc =>
        cases h
        simp only [Bool.and_eq_true, beq_iff_eq, Bool.not_eq_true', Option.isNone_iff_eq_none] at hc
        exact ⟨hc.1.1.1, hp, .inr ⟨hc.1.1.2, hc.1.2, hc.2, rfl⟩⟩
      · cases h
  · cases h

end Sys2Proof.Machine
end

