-- ==== Sys2Proof/Laws/SeatFrames.lean ====
section
/-! SUPPORT. What an operation leaves alone in every seat, said once: the frames of `Laws/Frames.lean`, one level down. -/

namespace Sys2Proof.Machine

/-- The shares of a seat's state that laws speak of. -/
inductive SFld where
  | active
  | locked
  | link
  | channel
  | txId
  | sample
  | silence
  | ctxRest
  | monitors
  | tracker
  | estimator
  | intent
  | chState
  | chRest
  | listed
  | relistDue
  | owed
  | boardRest
deriving DecidableEq, Repr

/-- A seat's state with the shares that `q` names taken back to their reset values. -/
def eraseSeat (q : SFld → Bool) (x : SeatState) : SeatState :=
  { ctx :=
      { active := bif q .active then false else x.ctx.active
        locked := bif q .locked then false else x.ctx.locked
        priority := bif q .ctxRest then false else x.ctx.priority
        cls := bif q .ctxRest then 0 else x.ctx.cls
        curve := bif q .ctxRest then 0 else x.ctx.curve
        link := bif q .link then 0 else x.ctx.link
        channel := bif q .channel then 0 else x.ctx.channel
        txId := bif q .txId then 0 else x.ctx.txId
        sample := bif q .sample then none else x.ctx.sample
        lastReport := bif q .ctxRest then 0 else x.ctx.lastReport
        foreignSeen := bif q .ctxRest then false else x.ctx.foreignSeen
        silence := bif q .silence then .noCause else x.ctx.silence }
    monitors := bif q .monitors then Vector.replicate 8 clearMonitor else x.monitors
    tracker := bif q .tracker then resetSeat.tracker else x.tracker
    estimator := bif q .estimator then restartedEstimator 0 else x.estimator
    channel :=
      { intent := bif q .intent then .muted else x.channel.intent
        state := bif q .chState then .settled else x.channel.state
        attempt := bif q .chRest then .first else x.channel.attempt
        deadline := bif q .chRest then none else x.channel.deadline }
    board :=
      { stamp := bif q .boardRest then 0 else x.board.stamp
        changedAt := bif q .boardRest then 0 else x.board.changedAt
        listed := bif q .listed then false else x.board.listed
        relistDue := bif q .relistDue then false else x.board.relistDue
        owed := bif q .owed then false else x.board.owed } }

/-- In every seat, `t` and `s` differ in the shares that `q` names alone. -/
def SeatFrame (q : SFld → Bool) (s t : State) : Prop := ∀ i, eraseSeat q (t.seat i) = eraseSeat q (s.seat i)

/-- The shares that `l` lists may change. -/
abbrev SOpens (q : SFld → Bool) (l : List SFld) : Prop := ∀ f ∈ l, q f = true

theorem SOpens.mono {q : SFld → Bool} {l m : List SFld} (h : SOpens q l) (hs : m ⊆ l) : SOpens q m := fun f hf => h f (hs hf)

variable {q : SFld → Bool} {s t u : State}

theorem SeatFrame.refl (s : State) : SeatFrame q s s := fun _ => rfl
theorem SeatFrame.trans (h1 : SeatFrame q s t) (h2 : SeatFrame q t u) : SeatFrame q s u := fun i => (h2 i).trans (h1 i)
theorem SeatFrame.of_seats (h : t.seats = s.seats) : SeatFrame q s t := fun i => by simp only [State.seat, h]

/-- The fields other than the seats. -/
abbrev noSeats : Fld → Bool := fun f => f != .seats

theorem SeatFrame.of_erase (h : erase noSeats t = erase noSeats s) : SeatFrame q s t := .of_seats (erase_keeps_seats h rfl)

theorem SeatFrame.foldl {α : Type} {f : State → α → State} (hf : ∀ s a, SeatFrame q s (f s a)) :
    ∀ (l : List α) (s : State), SeatFrame q s (l.foldl f s)
  | [], s => .refl s
  | a :: l, s => (hf s a).trans (SeatFrame.foldl hf l (f s a))

/-! What a frame says of each share -/

theorem SeatFrame.active (h : SeatFrame q s t) (i : Seat) (hq : q .active = false) : (t.seat i).ctx.active = (s.seat i).ctx.active := by
  simpa [eraseSeat, hq] using congrArg (fun x : SeatState => x.ctx.active) (h i)
theorem SeatFrame.locked (h : SeatFrame q s t) (i : Seat) (hq : q .locked = false) : (t.seat i).ctx.locked = (s.seat i).ctx.locked := by
  simpa [eraseSeat, hq] using congrArg (fun x : SeatState => x.ctx.locked) (h i)
theorem SeatFrame.link (h : SeatFrame q s t) (i : Seat) (hq : q .link = false) : (t.seat i).ctx.link = (s.seat i).ctx.link := by
  simpa [eraseSeat, hq] using congrArg (fun x : SeatState => x.ctx.link) (h i)
theorem SeatFrame.channel (h : SeatFrame q s t) (i : Seat) (hq : q .channel = false) :
    (t.seat i).ctx.channel = (s.seat i).ctx.channel := by
  simpa [eraseSeat, hq] using congrArg (fun x : SeatState => x.ctx.channel) (h i)
theorem SeatFrame.txId (h : SeatFrame q s t) (i : Seat) (hq : q .txId = false) : (t.seat i).ctx.txId = (s.seat i).ctx.txId := by
  simpa [eraseSeat, hq] using congrArg (fun x : SeatState => x.ctx.txId) (h i)
theorem SeatFrame.sample (h : SeatFrame q s t) (i : Seat) (hq : q .sample = false) : (t.seat i).ctx.sample = (s.seat i).ctx.sample := by
  simpa [eraseSeat, hq] using congrArg (fun x : SeatState => x.ctx.sample) (h i)
theorem SeatFrame.silence (h : SeatFrame q s t) (i : Seat) (hq : q .silence = false) :
    (t.seat i).ctx.silence = (s.seat i).ctx.silence := by
  simpa [eraseSeat, hq] using congrArg (fun x : SeatState => x.ctx.silence) (h i)
theorem SeatFrame.monitors (h : SeatFrame q s t) (i : Seat) (hq : q .monitors = false) : (t.seat i).monitors = (s.seat i).monitors := by
  simpa [eraseSeat, hq] using congrArg (fun x : SeatState => x.monitors) (h i)
theorem SeatFrame.estimator (h : SeatFrame q s t) (i : Seat) (hq : q .estimator = false) :
    (t.seat i).estimator = (s.seat i).estimator := by
  simpa [eraseSeat, hq] using congrArg (fun x : SeatState => x.estimator) (h i)
theorem SeatFrame.intent (h : SeatFrame q s t) (i : Seat) (hq : q .intent = false) :
    (t.seat i).channel.intent = (s.seat i).channel.intent := by
  simpa [eraseSeat, hq] using congrArg (fun x : SeatState => x.channel.intent) (h i)
theorem SeatFrame.chState (h : SeatFrame q s t) (i : Seat) (hq : q .chState = false) :
    (t.seat i).channel.state = (s.seat i).channel.state := by
  simpa [eraseSeat, hq] using congrArg (fun x : SeatState => x.channel.state) (h i)
theorem SeatFrame.muteChannel (h : SeatFrame q s t) (i : Seat) (h1 : q .intent = false) (h2 : q .chState = false)
    (h3 : q .chRest = false) : (t.seat i).channel = (s.seat i).channel := by
  have e := congrArg (fun x : SeatState => x.channel) (h i)
  simp only [eraseSeat, h1, h2, h3, cond_false] at e
  exact e
theorem SeatFrame.listed (h : SeatFrame q s t) (i : Seat) (hq : q .listed = false) :
    (t.seat i).board.listed = (s.seat i).board.listed := by
  simpa [eraseSeat, hq] using congrArg (fun x : SeatState => x.board.listed) (h i)
theorem SeatFrame.relistDue (h : SeatFrame q s t) (i : Seat) (hq : q .relistDue = false) :
    (t.seat i).board.relistDue = (s.seat i).board.relistDue := by
  simpa [eraseSeat, hq] using congrArg (fun x : SeatState => x.board.relistDue) (h i)
theorem SeatFrame.owed (h : SeatFrame q s t) (i : Seat) (hq : q .owed = false) :
    (t.seat i).board.owed = (s.seat i).board.owed := by
  simpa [eraseSeat, hq] using congrArg (fun x : SeatState => x.board.owed) (h i)

/-! The updates of one seat -/

/-- One seat's state is replaced by one that differs in the open shares. -/
theorem seatFrame_setSeat {i : Seat} {x : SeatState} (h : eraseSeat q x = eraseSeat q (s.seat i)) : SeatFrame q s (s.setSeat i x) := by
  intro j
  rw [State.seat_setSeat]; split
  · subst j; exact h
  · rfl
theorem seatFrame_setMonitors {i : Seat} {x : Vector Monitor 8} (h : SOpens q [.monitors]) : SeatFrame q s (s.setMonitors i x) :=
  seatFrame_setSeat (by simp only [eraseSeat, h .monitors (by decide), cond_true])
theorem seatFrame_setTracker {i : Seat} {x : Tracker} (h : SOpens q [.tracker]) : SeatFrame q s (s.setTracker i x) :=
  seatFrame_setSeat (by simp only [eraseSeat, h .tracker (by decide), cond_true])
theorem seatFrame_setEstimator {i : Seat} {x : Estimator} (h : SOpens q [.estimator]) : SeatFrame q s (s.setEstimator i x) :=
  seatFrame_setSeat (by simp only [eraseSeat, h .estimator (by decide), cond_true])
theorem seatFrame_setChannel {i : Seat} {x : MuteChannel} (h : SOpens q [.chState, .chRest])
    (hi : x.intent = (s.seat i).channel.intent) : SeatFrame q s (s.setChannel i x) :=
  seatFrame_setSeat (by simp only [eraseSeat, h .chState (by decide), h .chRest (by decide), hi, cond_true])
theorem seatFrame_setChannel' {i : Seat} {x : MuteChannel} (h : SOpens q [.intent, .chState, .chRest]) :
    SeatFrame q s (s.setChannel i x) :=
  seatFrame_setSeat (by simp only [eraseSeat, h .intent (by decide), h .chState (by decide), h .chRest (by decide), cond_true])
theorem seatFrame_setIntent {i : Seat} {x : Intent} (h : SOpens q [.intent]) : SeatFrame q s (s.setIntent i x) :=
  seatFrame_setSeat (by simp only [eraseSeat, h .intent (by decide), cond_true])
theorem seatFrame_setBoard {i : Seat} {x : BoardSeat} (h : SOpens q [.listed, .relistDue, .owed, .boardRest]) :
    SeatFrame q s (s.setBoard i x) :=
  seatFrame_setSeat (by simp only [eraseSeat, h .listed (by decide), h .relistDue (by decide), h .owed (by decide),
    h .boardRest (by decide), cond_true])
theorem seatFrame_setCtx {i : Seat} {x : Context} (h : SOpens q [.active, .locked, .link, .channel, .txId, .sample, .silence, .ctxRest]) :
    SeatFrame q s (s.setCtx i x) :=
  seatFrame_setSeat (by simp only [eraseSeat, h .active (by decide), h .locked (by decide), h .link (by decide),
    h .channel (by decide), h .txId (by decide), h .sample (by decide), h .silence (by decide), h .ctxRest (by decide), cond_true])

/-! The operations -/

theorem seatFrame_place {i : Seat} : SeatFrame q s (s.place i) := .of_seats rfl

theorem seatFrame_issue {i : Seat} (h : SOpens q [.chState, .chRest]) : SeatFrame q s (s.issue i) := by
  unfold State.issue; dsimp only
  refine SeatFrame.trans ?_ (SeatFrame.of_erase (erase_cancelFrame (k := noSeats) (by decide)))
  split
  · refine SeatFrame.trans ?_ seatFrame_place
    exact seatFrame_setChannel h rfl
  · exact seatFrame_setChannel h rfl
theorem seatFrame_publishChange {i : Seat} (h : SOpens q [.boardRest]) : SeatFrame q s (s.publishChange i) := by
  unfold State.publishChange; split
  · exact (seatFrame_setSeat (s := s) (i := i) (x := { s.seat i with board := { (s.seat i).board with changedAt := s.clock } })
      (by simp only [eraseSeat, h .boardRest (by decide), cond_true])).trans (.of_seats rfl)
  · exact .refl _
theorem seatFrame_publishVisible {b : State} {is : List Seat} (h : SOpens q [.boardRest]) :
    SeatFrame q s (publishVisible b s is) := by
  refine SeatFrame.foldl (fun t i => ?_) is s
  split
  · exact .refl _
  · exact seatFrame_publishChange h

abbrev qList : List SFld := [.listed, .relistDue, .owed, .boardRest]

theorem seatFrame_appendChange {i : Seat} (h : SOpens q qList) : SeatFrame q s (s.appendChange i) := by
  unfold State.appendChange; dsimp only
  refine SeatFrame.trans (t := (if s.changeList.isEmpty then s.raise .changes else s)) (.of_seats (by split <;> rfl)) ?_
  exact (seatFrame_setBoard (s := State.putWord (if s.changeList.isEmpty then s.raise .changes else s) _ _) h).trans (.of_seats rfl)
theorem seatFrame_offer {i : Seat} (h : SOpens q qList) : SeatFrame q s (s.offer i) := by
  unfold State.offer; dsimp only; split
  · exact seatFrame_setBoard h
  split
  · exact .refl _
  split
  · exact seatFrame_appendChange h
  · exact (seatFrame_setBoard h).trans (.of_seats rfl)
theorem seatFrame_appendOwed (h : SOpens q qList) (n : Nat) (s : State) : SeatFrame q s (State.appendOwed n s) := by
  induction n generalizing s with
  | zero => exact .refl s
  | succ n ih =>
    simp only [State.appendOwed]; split
    · exact .refl s
    · rename_i t ht
      refine SeatFrame.trans ?_ (ih _)
      unfold State.owedStep at ht; split at ht
      · obtain ⟨i, -, rfl⟩ := Option.map_eq_some_iff.1 ht
        exact ((seatFrame_setBoard (i := i) h).trans (.of_seats rfl)).trans (seatFrame_appendChange h)
      · cases ht
theorem seatFrame_releaseOne (h : SOpens q qList) : SeatFrame q s s.releaseOne := by
  unfold State.releaseOne; split
  · exact .refl _
  rename_i i rest _
  have e : ∀ x, SeatFrame q s { s.setBoard i x with changeList := rest } := fun x => (seatFrame_setBoard h).trans (.of_seats rfl)
  dsimp only; split
  · exact (e _).trans (seatFrame_offer h)
  · exact e _
theorem seatFrame_release (h : SOpens q qList) (n : Nat) (s : State) : SeatFrame q s (State.release n s) := by
  induction n generalizing s with
  | zero => exact .refl s
  | succ n ih => exact (seatFrame_releaseOne h).trans (ih _)
theorem seatFrame_acceptTaken {v : Word} (h : SOpens q qList) : SeatFrame q s (s.acceptTaken v) := by
  unfold State.acceptTaken; dsimp only
  generalize (512 : Nat) = n
  refine SeatFrame.trans ?_ (SeatFrame.of_erase (erase_notifyChanges (by decide)))
  refine SeatFrame.trans ?_ (seatFrame_appendOwed h _ _)
  have e : ∀ (t : State) a, SeatFrame q t (State.writeTaken { t with takenCount := a }) := fun _ _ => .of_seats rfl
  refine SeatFrame.trans ?_ (e _ _)
  refine SeatFrame.trans ?_ (seatFrame_release h _ _)
  split
  · exact .of_seats rfl
  · exact .refl _
theorem seatFrame_boardWord {i : Seat} (h : SOpens q qList) : SeatFrame q s (s.boardWord i) := by
  unfold State.boardWord; split
  · exact .refl _
  have e : ∀ x a w (b : List BoardEntry), SeatFrame q s { (s.setBoard i x).putWord a w with boardWrites := b } := fun x a w b =>
    (seatFrame_setBoard h).trans (.of_seats rfl)
  dsimp only
  split
  · exact e _ _ _ _
  split
  · exact (e _ _ _ _).trans (seatFrame_offer h)
  · exact e _ _ _ _
theorem seatFrame_finishBoardWrite {i : Seat} (h : SOpens q qList) : SeatFrame q s (s.finishBoardWrite i) := by
  have e : ∀ (n : Nat) (s : State), SeatFrame q s (State.boardWords i n s) := fun n => by
    induction n with
    | zero => exact fun s => .refl s
    | succ n ih => exact fun s => (seatFrame_boardWord h).trans (ih _)
  unfold State.finishBoardWrite; split
  · exact .refl _
  · exact e _ _

theorem seatFrame_settleChangeList {c : Nat} (h : SOpens q qList) : SeatFrame q s (s.settleChangeList c) := by
  have e1 : ∀ (t : State) (n : Nat), SeatFrame q t (t.dropOutOfRange n) := fun t n i => by
    simp only [State.seat, State.dropOutOfRange, Fin.getElem_fin, Vector.getElem_mapIdx]
    split
    · rfl
    · simp only [eraseSeat, h .listed (by decide), h .relistDue (by decide), h .owed (by decide), cond_true]
  have e2 : ∀ (t : State) (n : Nat), SeatFrame q t (t.dropOverflow n) := fun t n i => by
    simp only [State.seat, State.dropOverflow, Fin.getElem_fin, Vector.getElem_mapFinIdx]
    split
    · simp only [eraseSeat, h .listed (by decide), h .relistDue (by decide), h .owed (by decide), cond_true]
    · rfl
  have e3 : ∀ (t : State) (a b : Nat) (d : Word), SeatFrame q t { t with capacity := a, writePos := b, fillCount := d } :=
    fun _ _ _ _ => .of_seats rfl
  unfold State.settleChangeList; dsimp only
  generalize (512 : Nat) = n
  refine SeatFrame.trans ?_ (SeatFrame.of_erase (erase_notifyChanges (by decide)))
  refine SeatFrame.trans ?_ (SeatFrame.of_erase (erase_writeTaken (by decide)))
  refine SeatFrame.trans ?_ (SeatFrame.of_erase (erase_writeOwed (by decide)))
  refine SeatFrame.trans ?_ (SeatFrame.of_erase (erase_writeFill (by decide)))
  refine SeatFrame.trans ?_ (seatFrame_appendOwed h _ _)
  refine SeatFrame.trans ?_ (e3 _ _ _ _)
  exact ((e1 _ _).trans (e2 _ _)).trans (SeatFrame.of_erase (erase_putWords (by decide) _ _ _))

theorem seatFrame_clearMonitors {i : Seat} (h : SOpens q [.monitors]) : SeatFrame q s (s.clearMonitors i) := seatFrame_setMonitors h
theorem seatFrame_acknowledgeSeat {i : Seat} {m : Byte} (h : SOpens q [.monitors, .boardRest]) :
    SeatFrame q s (s.acknowledgeSeat i m) :=
  (seatFrame_setMonitors (h.mono (by decide))).trans (seatFrame_publishVisible (h.mono (by decide)))
theorem seatFrame_seatStoreWork {i : Seat} {b : Bool} (h : SOpens q [.silence, .ctxRest]) : SeatFrame q s (s.seatStoreWork i b) :=
  seatFrame_setSeat (by simp only [eraseSeat, h .silence (by decide), h .ctxRest (by decide), cond_true])
theorem seatFrame_restartEstimator {i : Seat} (h : SOpens q [.estimator, .monitors]) : SeatFrame q s (s.restartEstimator i) :=
  (seatFrame_setEstimator (h.mono (by decide))).trans (seatFrame_setMonitors (h.mono (by decide)))
theorem seatFrame_batteryWork {i : Seat} {b : Bool} (h : SOpens q [.estimator, .monitors]) : SeatFrame q s (s.batteryWork i b) := by
  unfold State.batteryWork State.generationCheck; dsimp only
  refine SeatFrame.trans (t := if (s.seat i).estimator.genSeen = s.seatGeneration i then s else s.restartEstimator i) ?_
    (seatFrame_setEstimator (h.mono (by decide)))
  split
  · exact .refl _
  · exact seatFrame_restartEstimator h
theorem seatFrame_batteryArrival {i : Seat} {f b : Bool} {r : Nat} (h : SOpens q [.estimator, .monitors]) :
    SeatFrame q s (s.batteryArrival i f b r) := by
  unfold State.batteryArrival; dsimp only; split
  · exact (seatFrame_setEstimator (h.mono (by decide))).trans (seatFrame_setMonitors (h.mono (by decide)))
  · exact seatFrame_setEstimator (h.mono (by decide))
theorem seatFrame_leaveRoster {i : Seat} (h : SOpens q [.intent]) : SeatFrame q s (s.leaveRoster i) :=
  SeatFrame.trans (t := { s with roster := s.roster.erase i }) (.of_seats rfl) (seatFrame_setIntent h)
theorem seatFrame_takeFloor {i : Seat} (h : SOpens q [.intent, .chState, .chRest]) : SeatFrame q s (s.takeFloor i) :=
  (seatFrame_leaveRoster (h.mono (by decide))).trans (seatFrame_issue (h.mono (by decide)))
theorem seatFrame_giveFloor {i : Seat} (h : SOpens q [.intent, .chState, .chRest]) : SeatFrame q s (s.giveFloor i) :=
  (SeatFrame.trans (t := { s with roster := s.roster ++ [i] }) (.of_seats rfl) (seatFrame_setIntent (h.mono (by decide)))).trans
    (seatFrame_issue (h.mono (by decide)))
theorem seatFrame_muteArrival {i : Seat} {f m : Bool} (h : SOpens q [.chState, .chRest]) : SeatFrame q s (s.muteArrival i f m) := by
  have e : ∀ t : State, SeatFrame q t (t.setChannel i (confirmed (t.seat i).channel m)) := fun t =>
    seatFrame_setChannel h (by unfold confirmed; split <;> rfl)
  unfold State.muteArrival; dsimp only; split
  · exact (seatFrame_issue h).trans (e _)
  · exact e _
theorem seatFrame_muteCompletion {i : Seat} (h : SOpens q [.chState, .chRest]) : SeatFrame q s (s.muteCompletion i) := by
  unfold State.muteCompletion; dsimp only; split
  · exact seatFrame_setChannel h rfl
  · exact .refl _
theorem seatFrame_deadlineCheck {i : Seat} (h : SOpens q [.chState, .chRest]) : SeatFrame q s (s.deadlineCheck i) := by
  unfold State.deadlineCheck; dsimp only; split
  · split
    · split
      · refine SeatFrame.trans ?_ seatFrame_place
        exact seatFrame_setChannel h rfl
      · exact seatFrame_setChannel h rfl
    · exact seatFrame_setChannel h rfl
  · exact .refl _
theorem seatFrame_completeFrame {l : LinkId} (h : SOpens q [.chState, .chRest, .boardRest]) : SeatFrame q s (s.completeFrame l) := by
  unfold State.completeFrame; split
  · have e : ∀ x, SeatFrame q s (s.setLink l x) := fun _ => .of_seats rfl
    dsimp only; split
    · exact e _
    · exact ((e _).trans (seatFrame_muteCompletion (h.mono (by decide)))).trans (seatFrame_publishVisible (h.mono (by decide)))
  · exact .refl _

abbrev qInit : List SFld := [.intent, .estimator, .monitors, .tracker, .sample, .silence, .ctxRest]

theorem seatFrame_reinitialise {i : Seat} (h : SOpens q qInit) : SeatFrame q s (s.reinitialise i) := by
  unfold State.reinitialise; dsimp only
  refine SeatFrame.trans ?_ (seatFrame_setSeat (by
    simp only [eraseSeat, freshContext, h .sample (by decide), h .silence (by decide), h .ctxRest (by decide), cond_true]))
  refine SeatFrame.trans ?_ (seatFrame_setTracker (h.mono (by decide)))
  refine SeatFrame.trans ?_ (seatFrame_clearMonitors (h.mono (by decide)))
  refine SeatFrame.trans ?_ (seatFrame_restartEstimator (h.mono (by decide)))
  exact (seatFrame_leaveRoster (h.mono (by decide))).trans (.of_erase (erase_withdraw (by decide)))

abbrev qLoad : List SFld := [.active, .locked, .link, .channel, .txId, .sample, .silence, .ctxRest, .monitors, .tracker,
  .estimator, .intent, .chState, .chRest, .boardRest]

theorem seatFrame_applyRecord {i : Seat} {r : SeatRecord} (h : SOpens q qLoad) : SeatFrame q s (s.applyRecord i r) := by
  unfold State.applyRecord; dsimp only
  refine SeatFrame.trans ?_ (seatFrame_publishChange (h.mono (by decide)))
  refine SeatFrame.trans ?_ (SeatFrame.of_erase (erase_floorHeaderIfChanged (by decide)))
  have e : ∀ x, SeatFrame q s (((s.reinitialise i).freeCarrier i).setCtx i x) := fun x =>
    ((seatFrame_reinitialise (h.mono (by decide))).trans (SeatFrame.of_erase (erase_freeCarrier (by decide)))).trans
      (seatFrame_setCtx (h.mono (by decide)))
  split
  · refine SeatFrame.trans ?_ (seatFrame_issue (h.mono (by decide)))
    refine SeatFrame.trans ?_ (seatFrame_setIntent (h.mono (by decide)))
    refine SeatFrame.trans ?_ (seatFrame_setEstimator (h.mono (by decide)))
    exact (e _).trans (SeatFrame.of_erase (erase_setCarrier (by decide)))
  · refine SeatFrame.trans ?_ (seatFrame_setChannel' (h.mono (by decide)))
    exact (e _).trans (seatFrame_setEstimator (h.mono (by decide)))

abbrev qRetire : List SFld := .active :: .chState :: .chRest :: qInit

theorem seatFrame_retire {i : Seat} (h : SOpens q qRetire) : SeatFrame q s (s.retire i) := by
  unfold State.retire; dsimp only
  refine SeatFrame.trans ?_ (seatFrame_setChannel' (h.mono (by decide)))
  refine SeatFrame.trans ?_ (seatFrame_setSeat (by simp only [eraseSeat, h .active (by decide), cond_true]))
  exact (seatFrame_reinitialise (h.mono (by decide))).trans (SeatFrame.of_erase (erase_freeCarrier (by decide)))

abbrev qArrival : List SFld := [.sample, .ctxRest, .tracker, .estimator, .monitors, .chState, .chRest]

theorem seatFrame_acceptReport {i : Seat} {r : Report} (h : SOpens q qArrival) : SeatFrame q s (s.acceptReport i r) := by
  unfold State.acceptReport; dsimp only
  refine SeatFrame.trans ?_ (seatFrame_muteArrival (h.mono (by decide)))
  refine SeatFrame.trans ?_ (seatFrame_batteryArrival (h.mono (by decide)))
  refine SeatFrame.trans ?_ (seatFrame_setTracker (h.mono (by decide)))
  exact seatFrame_setSeat (by simp only [eraseSeat, h .sample (by decide), h .ctxRest (by decide), cond_true])
theorem seatFrame_judgeReport {l : LinkId} {r : Report} (h : SOpens q (.boardRest :: qArrival)) :
    SeatFrame q s (s.judgeReport l r) := by
  unfold State.judgeReport; split
  · exact .of_erase (erase_countDiscard (k := noSeats) (by decide))
  split
  · exact (seatFrame_acceptReport (h.mono (by decide))).trans (seatFrame_publishVisible (h.mono (by decide)))
  · exact (SeatFrame.of_erase (erase_countDiscard (k := noSeats) (by decide))).trans
      (seatFrame_setSeat (by simp only [eraseSeat, h .ctxRest (by decide), cond_true]))
theorem seatFrame_takeReport {l : LinkId} (h : SOpens q (.boardRest :: qArrival)) : SeatFrame q s (s.takeReport l) := by
  unfold State.takeReport; split
  · exact .refl _
  · exact SeatFrame.trans (t := s.setLink l { s.link l with slot := none }) (.of_seats rfl) (seatFrame_judgeReport h)

abbrev qEvaluate : List SFld := [.silence, .ctxRest, .tracker, .estimator, .monitors, .chState, .chRest, .boardRest]

theorem seatFrame_blockWork {i : Seat} {b : Bool} (h : SOpens q qEvaluate) : SeatFrame q s (s.blockWork i b) := by
  unfold State.blockWork; dsimp only
  refine SeatFrame.trans ?_ (seatFrame_deadlineCheck (h.mono (by decide)))
  refine SeatFrame.trans ?_ (seatFrame_batteryWork (h.mono (by decide)))
  exact (seatFrame_seatStoreWork (h.mono (by decide))).trans (seatFrame_setTracker (h.mono (by decide)))
theorem seatFrame_judgeSeat {i : Seat} (h : SOpens q qEvaluate) : SeatFrame q s (s.judgeSeat i) :=
  (seatFrame_blockWork h).trans (seatFrame_setMonitors (h.mono (by decide)))
theorem seatFrame_publishEvaluation {b : State} {i : Seat} (h : SOpens q [.boardRest]) : SeatFrame q s (publishEvaluation b s i) := by
  unfold publishEvaluation; split
  · split
    · exact .of_erase (erase_publishRefresh (k := noSeats) (by decide))
    · exact .refl _
  · exact seatFrame_publishChange h
theorem seatFrame_evaluate {i : Seat} (h : SOpens q qEvaluate) : SeatFrame q s (s.evaluate i) :=
  (seatFrame_judgeSeat h).trans (seatFrame_publishEvaluation (h.mono (by decide)))

/-! Orders -/

theorem seatFrame_workSlot {takes : Word → Bool} {work : PageWork → Slot → State → State × Option OrderEnd}
    (hw : ∀ w o t, SeatFrame q t (work w o t).1) : SeatFrame q s (workSlot takes work s) := by
  unfold workSlot; split
  · exact .refl _
  split
  · rename_i w _ _
    refine SeatFrame.trans (SeatFrame.of_erase (erase_enterSlot (w := w) (by decide))) ?_
    generalize s.enterSlot w = t
    unfold workEntered; dsimp only
    split
    · exact .of_erase (erase_finishOrder (by decide))
    split
    · exact .of_erase (erase_finishOrder (by decide))
    split <;> rename_i heq
    · have := hw { w with begun := true } (slotOf (valuesOf (t.reads.take 3))) t
      rw [heq] at this; exact this.trans (.of_erase (erase_finishOrder (by decide)))
    · have := hw { w with begun := true } (slotOf (valuesOf (t.reads.take 3))) t
      rw [heq] at this; exact this
  · exact .refl _
theorem seatFrame_onActiveSeat {o : Slot} {work : Seat → State × OrderEnd} (hw : ∀ i, SeatFrame q s (work i).1) :
    SeatFrame q s (onActiveSeat o s work).1 := by
  unfold onActiveSeat; split
  · exact .refl _
  split
  · exact hw _
  · exact .refl _
theorem seatFrame_loadSeatWork {o : Slot} (h : SOpens q qLoad) : SeatFrame q s (loadSeatWork o s).1 := by
  unfold loadSeatWork; split
  · exact .refl _
  split
  · exact .refl _
  dsimp only; split
  · exact .refl _
  split
  · exact .refl _
  split
  · exact .refl _
  · exact seatFrame_applyRecord h
theorem seatFrame_judgeOneOfRange {i : Seat} {b : Bulk} (h : SOpens q qLoad) :
    SeatFrame q s (judgeOneOfRange i (s, b)).1 := by
  unfold judgeOneOfRange; dsimp only; split
  · exact .refl _
  split
  · exact .refl _
  · exact seatFrame_applyRecord h
theorem seatFrame_loadOneOfRange {i : Seat} {b : Bulk} (h : SOpens q qLoad) :
    SeatFrame q s (loadOneOfRange i (s, b)).1 := by
  have e : ∀ (t : State) (a : List ReadWord), SeatFrame q t { t with reads := a } := fun t a =>
    .of_seats rfl
  unfold loadOneOfRange; dsimp only; split
  · exact e _ _
  · exact ((SeatFrame.of_erase (erase_readRecord (by decide))).trans
      (seatFrame_judgeOneOfRange (s := s.readRecord i) (i := i) (b := b) h)).trans (e _ _)
theorem seatFrame_bulkSeat {n : Nat} (h : SOpens q qLoad) (p : State × Bulk) : SeatFrame q p.1 (bulkSeat p n).1 := by
  obtain ⟨s, b⟩ := p
  unfold bulkSeat; split
  · exact .refl _
  split
  · exact seatFrame_loadOneOfRange h
  · unfold ackOneOfAll; dsimp only; split
    · exact seatFrame_acknowledgeSeat (h.mono (by decide))
    · exact .refl _

end Sys2Proof.Machine
end

