-- ==== Sys2Proof/Tests/Slice0.lean ====
section
/-! SUPPORT. Tests: the checks of well-formedness, one or two facts of the spec for a command on a small state, and for
each statement of Certificates/Slice0/Obligations.lean that has hypotheses a state and operands that meet them
(`wit_<statement>`, one conjunct for a clause, at the ends of its ranges). Expected values are the spec's. -/

namespace Sys2Proof.Tests

open Sys2Proof Sys2Proof.Machine

set_option Elab.async false

/-! Well-formedness -/

theorem test_wf_refuses_control_write : Instr.wf (.registerWrite .control 3) = false := by decide
theorem test_wf_refuses_status_write : Instr.wf (.registerWrite .status 0) = false := by decide
theorem test_wf_refuses_fault_kind_write : Instr.wf (.registerWrite .faultKind 0) = false := by decide
theorem test_wf_refuses_taken_count : Instr.wf (.hostRamWrite 40 0) = false := by decide
theorem test_wf_takes_the_rest :
    Instr.wf (.registerWrite .ident 0) = true ∧ Instr.wf (.registerWrite .faultAddress 0) = true
      ∧ Instr.wf (.hostRamWrite 41 0) = true ∧ Instr.wf (.hostRamWrite 39 0) = true := by decide

/-- The table gives no row a bit (log 18). -/
theorem test_no_word_spells_a_command : decodeTableWord 16 3 = none ∧ State.reset.withFetchWord 16 3 = State.reset :=
  ⟨rfl, rfl⟩

/-! Small states -/

/-- A class with all raise and clear counts 2. -/
def testClass : WarningClass :=
  { raiseCounts := Vector.replicate 8 2, clearCounts := Vector.replicate 8 2, silenceTime := 1000, lostTime := 100,
    confirmTime := 200, weakLevel := 50, speechLevel := 30, dropoutLimit := 3, fadeWindow := 10, lowMinutes := 60,
    critMinutes := 20, lowCharge := 300, critCharge := 100 }

/-- A curve that passes R97. -/
def testCurve : Curve :=
  { volts := Vector.ofFn fun i => 300 + 50 * i.val, charges := Vector.ofFn fun i => 140 * i.val, shift := 3, swapStep := 50,
    period := 30, hysteresis := 50 }

/-- The part HALTED. -/
def halted : State := { State.reset with part := .halted }

/-- The part RUNNING with 20 seats, none active, and links 0 and 1 UP. -/
def bare : State :=
  { State.reset with
    part := .running
    layout := { seatCount := 20, seatTable := 256, board := 3000, changeList := 2700, classTable := 2000,
                curveTable := 2100, pageArea := 2200 }
    classes := some (Vector.replicate 4 testClass)
    curves := some (Vector.replicate 4 testCurve)
    links := (State.reset.links.set 0 { resetLink with enabled := true, state := .up, timer := some 0 }).set 1
      { resetLink with enabled := true, state := .up, timer := some 0 }
    scanTimer := some 0 }

/-- An active seat of link 0, its mute channel SETTLED. -/
def activeSeat (c : Channel) (tx : Word) (locked : Bool) : SeatState :=
  { resetSeat with ctx := { resetContext with active := true, locked := locked, channel := c, txId := tx } }

/-- On the roster, its command queued. -/
def seat0 : SeatState :=
  { activeSeat 5 1 false with channel := { intent := .opened, state := .sending, attempt := .first, deadline := none } }

/-- Locked, in the change list. -/
def seat2 : SeatState := { activeSeat 6 0xFFFE#16 true with board := { resetSeat.board with listed := true } }

/-- Its second command sent, with a deadline of 0. -/
def seat19 : SeatState :=
  { activeSeat 63 7 false with channel := { intent := .muted, state := .awaiting, attempt := .second, deadline := some 0 } }

/-- The part RUNNING with three seats so, seats 0 on the roster and in the queue of link 0, 2 in the change list, and page
B POSTED. -/
def liveWith (x0 x2 x19 : SeatState) : State :=
  { ((bare.setSeat 0 x0).setSeat 2 x2).setSeat 19 x19 with
    links := bare.links.set 0 { bare.link 0 with queue := [0] }
    carriers := (((bare.setCarrier 0 5 (some 0)).setCarrier 0 6 (some 2)).setCarrier 0 63 (some 19)).carriers
    roster := [0]
    changeList := [2]
    writePos := 1
    fillCount := 1
    pageB := .posted
    posting := [.b]
    ram := [(76, 1)] }

/-- The part RUNNING with the seats 0, 2 and 19 active. -/
def live : State := liveWith seat0 seat2 seat19

theorem liveWith_seat (x0 x2 x19 : SeatState) (i : Seat) :
    (liveWith x0 x2 x19).seat i = if i = 19 then x19 else if i = 2 then x2 else if i = 0 then x0 else resetSeat := by
  have h : (liveWith x0 x2 x19).seat i = (((bare.setSeat 0 x0).setSeat 2 x2).setSeat 19 x19).seat i := rfl
  have hb : bare.seat i = resetSeat := by simp [State.seat, bare, State.reset]
  rw [h]
  simp only [State.seat_setSeat, hb]

/-- What holds of the three seats and of a seat after reset holds of every seat. -/
theorem seats_of (P : Seat → SeatState → Prop) {x0 x2 x19 : SeatState} (h0 : P 0 x0) (h2 : P 2 x2) (h19 : P 19 x19)
    (h : ∀ i, i ≠ 0 → i ≠ 2 → i ≠ 19 → P i resetSeat) (i : Seat) : P i ((liveWith x0 x2 x19).seat i) := by
  rw [liveWith_seat]
  split
  · next e => subst e; exact h19
  · split
    · next e => subst e; exact h2
    · split
      · next e => subst e; exact h0
      · exact h i ‹_› ‹_› ‹_›

/-- Page A in hand before its slot 0, of the given count. -/
def inA (count : Nat) : PageWork :=
  { taking := 0, page := .a, count := count, slot := 0, begun := false, refusals := false, bound := none, bulk := none, ending := none }

/-- A state with page A in hand and these words in its slot 0. -/
def withSlot (s : State) (count : Nat) (kind seat arg : Word) : State :=
  { s.putWords 2204 [kind, seat, arg] with pageA := .taken, worked := some (inA count) }

/-- The words of `withSlot` as the slot that a statement speaks of. -/
theorem orderInHand_of {s : State} {w : PageWork} {o : Slot}
    (h : s.worked = some w ∧ s.slotReady w = true ∧ (s.slotRead w 0).value = o.kind ∧ (s.slotRead w 1).value = o.seat
      ∧ (s.slotRead w 2).value = o.arg ∧ (∀ k < 3, (s.slotRead w k).bad = false) ∧ pairingHolds w o = true ∧ w.count ≤ 32) :
    s.OrderInHand w o :=
  ⟨h.1, h.2.1, h.2.2.1, h.2.2.2.1, h.2.2.2.2.1, h.2.2.2.2.2.1, h.2.2.2.2.2.2.1, h.2.2.2.2.2.2.2⟩

/-- The next state of a step that runs one command. -/
def after (c : Instr) (s : State) : State :=
  match step { s with pending := [c] } with
  | .next t => t
  | _ => s


/-! The laws hold of `live` -/

theorem live_carrier (l : LinkId) (c : Channel) :
    live.carrier l c = if l = 0 ∧ c = 63 then some 19 else if l = 0 ∧ c = 6 then some 2 else if l = 0 ∧ c = 5 then some 0 else none := by
  have h : live.carrier l c = (((bare.setCarrier 0 5 (some 0)).setCarrier 0 6 (some 2)).setCarrier 0 63 (some 19)).carrier l c := rfl
  have hb : bare.carrier l c = none := by simp [State.carrier, bare, State.reset]
  rw [h]
  simp only [State.carrier_setCarrier, hb]

theorem live_carrierLaw : live.carrierLaw := by
  intro l c i
  constructor
  · intro h
    rw [live_carrier] at h
    rw [live, liveWith_seat]
    split at h
    · next e => obtain ⟨rfl, rfl⟩ := e; cases h; decide
    · split at h
      · next e => obtain ⟨rfl, rfl⟩ := e; cases h; decide
      · split at h
        · next e => obtain ⟨rfl, rfl⟩ := e; cases h; decide
        · cases h
  · refine seats_of (fun i x => (x.ctx.active = true ∧ x.ctx.link = l ∧ x.ctx.channel = c) → live.carrier l c = some i) ?_ ?_ ?_ ?_ i
    · rintro ⟨-, rfl, rfl⟩; rw [live_carrier]; rfl
    · rintro ⟨-, rfl, rfl⟩; rw [live_carrier]; rfl
    · rintro ⟨-, rfl, rfl⟩; rw [live_carrier]; rfl
    · rintro i - - - ⟨h, -⟩; exact absurd h (by decide)

theorem live_memoryLaw : live.memoryLaw := by decide

theorem rosterLaw_of {x0 x2 x19 : SeatState} (h0 : x0.ctx.active = true ∧ x0.channel.intent = .opened)
    (h2 : x2.channel.intent = .muted) (h19 : x19.channel.intent = .muted) : (liveWith x0 x2 x19).rosterLaw := by
  have h : 1 ≤ 1 ∧ 1 ≤ 8 ∧ [(0 : Seat)].length ≤ 1 ∧ [(0 : Seat)].Nodup := by decide
  refine ⟨h.1, h.2.1, h.2.2.1, h.2.2.2, ?_, ?_⟩
  · intro i h
    rw [List.mem_singleton.1 (show i ∈ [0] from h), liveWith_seat]
    exact h0.1
  · refine seats_of (fun i x => x.channel.intent = .opened ↔ i ∈ [0]) (by simp [h0.2]) (by simp [h2]) (by simp [h19]) ?_
    intro i h0 _ _
    simp [h0, resetSeat, settledChannel]

theorem live_rosterLaw : live.rosterLaw := rosterLaw_of (by decide) (by decide) (by decide)

theorem live_monitorLaw : live.monitorLaw :=
  seats_of (fun _ x => (∀ m ∈ x.monitors.toList, m.lawful)
    ∧ (x.ctx.active = false → ∀ m ∈ x.monitors.toList, m.state = .clear ∧ m.n = 0)) (by decide) (by decide) (by decide)
    fun _ _ _ _ => by decide

theorem live_downlinkLaw : live.downlinkLaw := by
  intro l
  refine ⟨⟨?_, ?_, ?_, ?_, ?_⟩, ?_⟩
  · revert l; decide +kernel
  · revert l; decide +kernel
  · revert l; decide +kernel
  · revert l; decide +kernel
  · intro i h
    have h1 : ∀ l : LinkId, ∀ i ∈ (live.link l).queue ++ (live.link l).deferred, i = 0 ∧ l = 0 := by decide +kernel
    obtain ⟨rfl, rfl⟩ := h1 l i h
    rw [live, liveWith_seat]
    decide
  · have h : (live.link l).tx = .idle := by revert l; decide +kernel
    rw [State.flightLawful, h]
    trivial

theorem live_changeListLaw : live.changeListLaw := by
  refine ⟨by decide, by decide, by decide, by decide, by decide, by decide, ?_, ?_, by decide⟩
  · refine seats_of (fun i x => (x.board.listed = true ↔ i ∈ [2]) ∧ (x.board.relistDue = true → x.board.listed = true)
      ∧ (x.board.owed = true → x.board.listed = false)) (by decide) (by decide) (by decide) ?_
    intro i _ h2 _
    simp [h2, resetSeat]
  · symm
    show List.countP _ _ = 0
    rw [List.countP_eq_zero]
    intro i _
    exact seats_of (fun _ x => ¬ x.board.owed = true) (by decide) (by decide) (by decide) (fun _ _ _ _ => by decide) i

theorem live_estimatorLaw : live.estimatorLaw :=
  seats_of (fun _ x => x.estimator.lawful) (by decide) (by decide) (by decide) fun _ _ _ _ => by decide

theorem live_pageLaw : live.pageLaw := by decide +kernel
theorem live_layoutSound : live.layoutSound := by decide
theorem live_layoutLaw : live.layoutLaw := fun _ => ⟨by decide, by decide, by decide, by decide, live_layoutSound⟩

theorem live_seatLaw : live.seatLaw :=
  seats_of (fun i x => if x.ctx.active then i.val < 20 ∧ x.ctx.txId ≠ 0 ∧ x.ctx.txId ≠ 0xFFFF#16
    else x.ctx.sample = none ∧ x.ctx.silence = .noCause ∧ x.channel = settledChannel) (by decide) (by decide) (by decide)
    fun _ _ _ _ => by rw [if_neg (by decide)]; decide

/-! The machine and the laws -/

/-- `live` with one command waiting. -/
def queued (c : Instr) : State := { live with pending := [c] }

/-- `live` in another part state. -/
def inPart (p : PartState) : State := { live with part := p }

theorem wit_StepRunsFrontCommand : { live with pending := [.scanExpiry, .gap 0] }.pending = .scanExpiry :: [.gap 0] := rfl

/-- A board write of which this many words stand. -/
def writing (n : Nat) : State :=
  { live with boardWrites := [{ seat := 19, change := true, body := List.replicate 10 7, written := n, behind := none }] }

/-- `live` with page A in hand so. -/
def working (w : PageWork) : State := { live with pageA := .taken, worked := some w }

/-- A LOAD RANGE of the seats 0 to 19 at its cursor. -/
def rangeAt (cursor : Nat) (boundary : Bool) : Bulk :=
  { kind := .loadRange, cursor := cursor, stop := 20, sliceEnd := min 20 (cursor / 16 * 16 + 16), suspendedMark := false, atBoundary := boundary, handled := 0, second := 0,
    refused := 0, firstBad := none }

/-- The page law as a Boolean, true exactly where the law holds. -/
def pageLawHolds (s : State) : Bool := decide s.pageLaw

/-- Page A in hand at a bulk order. -/
def bulky (b : Bulk) : PageWork := { inA 1 with begun := true, bulk := some b }

/-- `live` with a bulk order in hand in page A, which is so. -/
def slicing (part : PartState) (x : PageState) (b : Bulk) : State := { working (bulky b) with part := part, pageA := x }

/-- A step without a command waiting. -/
def idle (s : State) : State :=
  match step { s with pending := [] } with
  | .next t => t
  | _ => s

/-- The state with these words read by the order in hand. -/
def withReads (s : State) (values : List Word) : State :=
  { s with reads := values.map fun v => { addr := 0, value := v, bad := false } }

/-- The slot 0 of page A begun, and these words read. -/
def begunA : PageWork := { inA 2 with begun := true }
def begunWith (values : List Word) : State := withReads (working begunA) values

/-- A LOAD RANGE in hand between two slices, and in one at a cursor with so many words of the record read. -/
def betweenSlices : State := slicing .running .taken { rangeAt 16 true with suspendedMark := true }
def inSlice (cursor n : Nat) : State := withReads (slicing .running .taken (rangeAt cursor false)) (List.replicate n 0)

/-- A board write of seat 19 at the front, in its state so, and an order that waits for its slot to begin. -/
def contending (behind : Option OrderRequest) : State :=
  { working (inA 2) with boardWrites := (writing 1).boardWrites.map fun e => { e with behind := behind } }

theorem layoutLaw_of {s : State} (hl : s.layout = live.layout) (hc : s.capacity = live.capacity) : s.layoutLaw := by
  have h : s.regions = live.regions := by rw [State.regions, State.regions, hl, hc]
  intro _
  rw [State.layoutSound, h, hl, hc]
  exact ⟨by decide, by decide, by decide, by decide, live_layoutSound⟩

theorem wit_IdleStepServesOneAccess :
    (halted.pending = [] ∧ halted.part = .halted)
    ∧ (State.reset.pending = [] ∧ State.reset.part = .clearing ∧ State.reset.memoryLaw ∧ State.reset.clearNext < 16384)
    ∧ ({ State.reset with clearNext := 16383 }.memoryLaw ∧ { State.reset with clearNext := 16383 }.clearNext < 16384)
    ∧ nextStartRead { halted with part := .checking }.reads = some 0
    ∧ (∀ s ∈ [live, writing 0, writing 11, contending none, begunWith [], betweenSlices, inSlice 0 0],
        s.part = .running ∧ s.memoryLaw ∧ pageLawHolds s = true ∧ s.layout = live.layout ∧ s.capacity = live.capacity) := by
  decide +kernel

/-- What the order in hand asks for: at its slot's beginning; its operands, a record or a table word; a range's record. -/
theorem wit_IdleStepServesOneAccess_asks :
    (working (inA 2)).OrderAsks (inA 2) none
    ∧ ((begunWith []).OrderAsks begunA (some 2204) ∧ (begunWith [0, 0]).OrderAsks begunA (some 2206))
    ∧ ((begunWith [kindLoadSeat, 19, 0]).OrderAsks begunA (some 313) ∧ (begunWith [kindLoadSeat, 19, 0, 0, 0]).OrderAsks begunA (some 315))
    ∧ ((begunWith [kindReloadClasses, 0, 0]).OrderAsks begunA (some 2000)
      ∧ (begunWith ([kindReloadClasses, 0, 0] ++ List.replicate 135 0)).OrderAsks begunA (some 2171))
    ∧ ((inSlice 19 0).OrderAsks (bulky (rangeAt 19 false)) (some 313) ∧ (inSlice 19 2).OrderAsks (bulky (rangeAt 19 false)) (some 315)) := by
  have noRange : ∀ (s : State) (n : Nat), s.suspended = none → ∀ v b, s.suspended = some v → v.bulk = some b → b.kind = .loadRange →
      ¬ (b.cursor ≤ n ∧ n < b.stop) := by
    intro s n h v b hv
    rw [h] at hv
    cases hv
  refine ⟨.index rfl rfl rfl rfl (by decide) (fun _ => rfl), ⟨?_, ?_⟩, ⟨?_, ?_⟩, ⟨?_, ?_⟩, ?_, ?_⟩
  · exact .operand rfl rfl rfl (.inl rfl) (by decide) (by decide) (by decide)
  · exact .operand rfl rfl rfl (.inl rfl) (by decide) (by decide) (by decide)
  · exact .record ⟨kindLoadSeat, 19, 0⟩ 19 rfl rfl rfl (.inl rfl) (by decide) (by decide) rfl rfl (.inl rfl) rfl (by decide)
      (noRange _ _ rfl) (by decide) (by decide)
  · exact .record ⟨kindLoadSeat, 19, 0⟩ 19 rfl rfl rfl (.inl rfl) (by decide) (by decide) rfl rfl (.inl rfl) rfl (by decide)
      (noRange _ _ rfl) (by decide) (by decide)
  · exact .table rfl rfl rfl (.inl rfl) (by decide) (by decide) rfl rfl (by decide) (by decide)
  · have h : (begunWith ([kindReloadClasses, 0, 0] ++ List.replicate 135 0)).reads.length = 138 := by decide +kernel
    have e := State.OrderAsks.table (s := begunWith ([kindReloadClasses, 0, 0] ++ List.replicate 135 0)) (w := begunA) rfl rfl rfl
      (.inl rfl) (by decide) (by decide +kernel) (by decide +kernel) rfl (by rw [h]; decide) (by rw [h]; decide)
    rw [h] at e
    exact e
  · exact .range (rangeAt 19 false) 19 rfl rfl rfl (.inl rfl) rfl (.inl (by decide +kernel)) (by decide) (by decide)
  · exact .range (rangeAt 19 false) 19 rfl rfl rfl (.inl rfl) rfl (.inl (by decide +kernel)) (by decide) (by decide)

/-- The front entry asked behind the order's access, or before it; a slice to open; shares of a locked seat, of a record read
and of a bad word; and the words of a board write that waits alone. -/
theorem wit_IdleStepServesOneAccess_turns :
    (contending (contending none).orderRequest).orderRequest = (contending none).orderRequest ∧ (contending none).orderRequest ≠ none
    ∧ (betweenSlices.pageState .a ≠ .aborting ∧ { rangeAt 16 true with suspendedMark := true }.atBoundary = true)
    ∧ ((live.seat 2).ctx.locked = true ∧ (inSlice 2 0).lift = none ∧ 2 + 1 < (rangeAt 2 false).sliceEnd)
    ∧ (3 ≤ (inSlice 14 3).reads.length ∧ (inSlice 14 3).reads.length ≤ 3 ∧ 14 + 1 < (rangeAt 14 false).sliceEnd)
    ∧ (∀ n ∈ [0, 1, 10, 11], (writing n).worked = none ∧ (writing n).changeListLaw
        ∧ ∃ e, (writing n).boardWrites = [e] ∧ e.written = n ∧ e.seat.val < live.layout.seatCount) := by
  refine ⟨by decide +kernel, by decide +kernel, by decide +kernel, by decide +kernel, by decide +kernel, ?_⟩
  intro n h
  exact ⟨rfl, live_changeListLaw, _, rfl, rfl, (by decide : 19 < 20)⟩

/-- An access that waited first is served first, and they take turns from there on (R165). -/
theorem test_requests_in_order :
    (idle (contending none)).readWord 3229 = 7 ∧ (idle (contending none)).worked = some (inA 2)
    ∧ (idle (idle (contending none))).worked = some begunA
    ∧ ((idle (idle (contending none))).boardWrites.map BoardEntry.written) = [2] := by decide +kernel

/-- Host writes between the first and the second read of a record of a LOAD RANGE: the word read stays as it was read, and
the next is read as it stands (R6). -/
theorem test_range_reads_word_by_word :
    (idle (after (.hostRamWrite 299 9) (after (.hostRamWrite 298 8) (idle (inSlice 14 0))))).reads.map ReadWord.value = [0, 9] := by
  decide +kernel

theorem wit_StepKeepsMemoryCanonical : (queued (.hostRamWrite 256 7)).memoryLaw ∧ ∃ t, step (queued (.hostRamWrite 256 7)) = .next t :=
  ⟨live_memoryLaw, _, rfl⟩

/-- A fault held, with FAULT set. -/
def faulty : State := { live with faultLatch := some { addr := 40, kind := .parity, multiple := false }, causes := 8 }

/-- A fault held of another word, after which others came. -/
def faultyAt (addr : Nat) (multiple : Bool) : State :=
  { live with faultLatch := some { addr := addr, kind := .hostParity, multiple := multiple }, causes := 8 }

theorem wit_FaultLatchLaw : faulty.latchLaw ∧ faulty.faultLatch.isSome
    ∧ ∃ t, step { faulty with pending := [.faultKindWrite 0] } = .next t :=
  ⟨by decide, rfl, _, rfl⟩

theorem wit_StepKeepsCarrierLaw : (queued .loadSeat).carrierLaw ∧ ∃ t, step (queued .loadSeat) = .next t := ⟨live_carrierLaw, _, rfl⟩
theorem wit_StepKeepsRosterLaw : (queued .clearFloor).rosterLaw ∧ ∃ t, step (queued .clearFloor) = .next t := ⟨live_rosterLaw, _, rfl⟩
theorem wit_StepKeepsMonitorLaw : (queued .acknowledge).monitorLaw ∧ ∃ t, step (queued .acknowledge) = .next t :=
  ⟨live_monitorLaw, _, rfl⟩
theorem wit_StepKeepsDownlinkLaw :
    (queued (.transmitStart 0)).downlinkLaw ∧ (queued (.transmitStart 0)).rosterLaw ∧ ∃ t, step (queued (.transmitStart 0)) = .next t :=
  ⟨live_downlinkLaw, live_rosterLaw, _, rfl⟩
theorem wit_StepKeepsChangeListLaw :
    (queued (.takenCountWrite 1)).changeListLaw ∧ ∃ t, step (queued (.takenCountWrite 1)) = .next t := ⟨live_changeListLaw, _, rfl⟩
/-- Seat 0 with two entries of history, one across the wrap of the part clock, and a sample due at the evaluation in front. -/
def sampling : State :=
  { liveWith { seat0 with
      ctx := { seat0.ctx with lastReport := 30000 }
      estimator := { restartedEstimator 0 with
        seeded := true, f := 8000, v := 500, charge := 560, history := [(0xFFFFFFFF#32, 570), (1, 560)], nextSample := 30000,
        status := .warming } } seat2 seat19 with
    clock := 30000
    pass := some 0
    pending := [.seatEvaluation] }

theorem sampling_historyLaw : sampling.historyLaw :=
  seats_of (fun _ x => x.estimator.historyLawful) (by decide) (by decide) (by decide) fun _ _ _ _ => by decide

theorem wit_StepKeepsEstimatorRanges :
    (∃ t, step (queued (.reportTake 0)) = .next t) ∧ (queued (.reportTake 0)).estimatorLaw
    ∧ (∃ t, step sampling = .next t) ∧ sampling.historyLaw ∧ sampling.curveLaw := by
  refine ⟨⟨_, rfl⟩, live_estimatorLaw, ⟨_, rfl⟩, sampling_historyLaw, fun _ => by decide, ?_⟩
  intro cs h
  obtain rfl : Vector.replicate 4 testCurve = cs := Option.some.inj h
  decide

/-- The sample stands behind the entries before it (R98, R108). -/
theorem test_sample_appended : (((after .seatEvaluation sampling).seat 0).estimator.history.map Prod.fst)
    = [0xFFFFFFFF#32, 1, 30000] := by decide +kernel

theorem wit_StepKeepsPageLaw : (queued .takePage).pageLaw ∧ ∃ t, step (queued .takePage) = .next t := ⟨live_pageLaw, _, rfl⟩
theorem wit_StepKeepsLayoutLaw : (queued (.stop 0)).layoutLaw ∧ ∃ t, step (queued (.stop 0)) = .next t := ⟨live_layoutLaw, _, rfl⟩
theorem wit_StepKeepsSeatLaw :
    (queued (.reportTake 0)).seatLaw ∧ (queued (.reportTake 0)).carrierLaw ∧ (queued (.reportTake 0)).rosterLaw
      ∧ (queued (.reportTake 0)).pageLaw ∧ ∃ t, step (queued (.reportTake 0)) = .next t :=
  ⟨live_seatLaw, live_carrierLaw, live_rosterLaw, live_pageLaw, _, rfl⟩

/-- A directory of 20 seats that a start accepts, with these words put over it, and the part CHECKING. -/
def checkingWith (changes : List (Nat × Word)) : State :=
  changes.foldl (fun s p => s.putWord p.1 p.2)
    { ({ State.reset with part := .checking }.putWords 0 [20, 256, 3000, 2700, 2000, 2100, 2200, 16, 10, 1, 3]).putWords 12 [0x8000#16, 60]
      with startResult := .noResult }

theorem wit_PartStateChanges :
    (after .powerOnReset live).part = .clearing ∧ (after .clearingDone State.reset).part = .halted
    ∧ (after (.run 0) halted).part = .checking ∧ (after .checkingEnd { halted with part := .checking }).part = .halted
    ∧ (after .stoppingEnd { live with part := .stopping, linesQuiet := true, orderQuiet := true }).part = .halted
    ∧ (after (.softReset 0) live).part = .halted := by
  decide +kernel

theorem wit_PartClock : live.part = .running ∧ halted.part ≠ .running
    ∧ (after .partClockTick { live with clock := 0xFFFFFFFF#32 }).clock = 0
    ∧ (after (.softReset 0) { live with clock := 9 }).clock ≠ { live with clock := 9 }.clock := by
  decide +kernel

/-! Resets, CONTROL and the registers -/

theorem wit_ResetsRestoreEveryBlock : live.part ≠ .clearing ∧ State.reset.part = .clearing := by decide
theorem wit_ClearingEnds : State.reset.part = .clearing ∧ State.reset.held = []
    ∧ { State.reset with held := [.read 16383] }.held = [.read 16383] ∧ { State.reset with held := [.write 0 7] }.held = [.write 0 7] := by
  decide
theorem wit_RunBeginsChecking : halted.part = .halted ∧ (∀ p ∈ [PartState.checking, .running, .stopping], (inPart p).part = p)
    ∧ State.reset.part = .clearing := by decide
theorem wit_StopEntersStopping : live.part = .running ∧ live.memoryLaw
    ∧ (∀ p ∈ [PartState.halted, .checking, .stopping], (inPart p).part = p) ∧ State.reset.part = .clearing :=
  ⟨rfl, live_memoryLaw, by decide, rfl⟩
theorem wit_StoppingEnds :
    let s : State := { live with part := .stopping, linesQuiet := true, orderQuiet := true }
    (s.part = .stopping ∧ s.linesQuiet = true ∧ s.orderQuiet = true ∧ s.boardWrites = []) ∧ live.part ≠ .stopping
      ∧ { s with linesQuiet := false }.linesQuiet ≠ true ∧ { s with boardWrites := (writing 0).boardWrites }.boardWrites ≠ [] := by
  decide
theorem wit_EnablesGovernNotifyLine : live.part ≠ .clearing ∧ State.reset.part = .clearing := by decide
theorem wit_CausesAreCleared : faulty.part ≠ .clearing ∧ State.reset.part = .clearing := by decide
theorem wit_RegisterWrites : ∀ n < 4, (word n).toNat % 4 = n ∧ (word (65532 + n)).toNat % 4 = n := by decide

/-- A STATUS write of all ones clears every cause but FAULT (R170). -/
theorem test_status_write_keeps_fault : (after (.statusWrite 0xFFFF#16) { faulty with causes := 0x7F#7 }).causes = 8 := by
  decide +kernel

/-- A write to CONTROL of 7F01h is RUN with every enable (R171, R179). -/
theorem test_control_write_runs : (after (.registerWrite .control 0x7F01#16) halted).enables = 0x7F#7 := by decide +kernel

/-! Host accesses of the RAM -/

theorem wit_HostReadReturnsWord : live.part ≠ .clearing ∧ live.wordBad 16383 = false
    ∧ { live with badParity := [0] }.wordBad 0 = true ∧ { live with badParity := [32767] }.wordBad 16383 = true
    ∧ State.reset.part = .clearing ∧ live.faultLatch = none ∧ (∃ f, faulty.faultLatch = some f ∧ f.addr < 16384)
    ∧ (∃ f, (faultyAt 16383 true).faultLatch = some f ∧ f.addr < 16384) := by decide

/-- FAULT KIND and FAULT ADDRESS of a held HOST_PARITY that others followed, and CONTROL (R164, R169, R179). -/
theorem test_register_reads : (faultyAt 16383 true).registerRead .faultKind = 0x8002#16 ∧ (faultyAt 16383 true).registerRead .faultAddress = 0x3FFF#16
    ∧ { live with enables := 0x45#7 }.registerRead .control = 0x4500#16 := by decide

/-- The words around the regions of `live` by what the guard says of them (R167). -/
theorem wit_GuardJudgesHostWrites :
    live.memoryLaw ∧ halted.memoryLaw ∧ (inPart .stopping).memoryLaw ∧ State.reset.memoryLaw
    ∧ (∀ n ∈ [0, 39, 41, 255, 3000, 3239, 2700, 2715], n ≠ 40
        ∧ (n < 256 ∨ live.layout.board ≤ n ∧ n < live.layout.board + 12 * live.layout.seatCount
          ∨ live.layout.changeList ≤ n ∧ n < live.layout.changeList + live.capacity))
    ∧ (∀ n ∈ [2201, 2204, 2395], live.layout.pageBase .a ≤ n ∧ n < live.layout.pageBase .a + 196 ∧ n ≠ live.layout.pageBase .a + 2
        ∧ n ≠ live.layout.pageBase .a + 3 ∧ live.pageState .a = .free)
    ∧ (∀ n ∈ [2397, 2591], live.layout.pageBase .b ≤ n ∧ n < live.layout.pageBase .b + 196 ∧ live.pageState .b = .posted)
    ∧ (∀ n ∈ [2202, 2203], n = live.layout.pageBase .a + 2 ∨ n = live.layout.pageBase .a + 3)
    ∧ (∀ n ∈ [256, 2199, 2592, 2699, 2716, 2999, 3240, 16383],
        ¬ (n < 256 ∨ live.layout.board ≤ n ∧ n < live.layout.board + 12 * live.layout.seatCount
          ∨ live.layout.changeList ≤ n ∧ n < live.layout.changeList + live.capacity)
        ∧ ∀ p ∈ [Page.a, Page.b], ¬ (live.layout.pageBase p ≤ n ∧ n < live.layout.pageBase p + 196)) := by
  decide +kernel

/-- The guard refuses a write of the header and lets one of the Seat Table through (R167). -/
theorem test_guard : (after (.hostRamWrite 255 7) live).faultLatch = some { addr := 255, kind := .writeRefused, multiple := false }
    ∧ (after (.hostRamWrite 256 7) live).readWord 256 = 7 := by decide +kernel

theorem wit_PageStateWrites :
    (halted.part = .halted ∧ halted.memoryLaw ∧ (halted.readWord 6).toNat + 196 < 16384) ∧ State.reset.part = .clearing
    ∧ (live.part = .running ∧ live.memoryLaw ∧ ∀ p ∈ [Page.a, Page.b], live.layout.stateAddr p < 16384)
    ∧ live.pageState .a = .free ∧ live.pageState .b = .posted ∧ { live with pageA := .taken }.pageState .a = .taken
    ∧ { live with pageA := .done }.pageState .a = .done ∧ { live with pageA := .aborting }.pageState .a = .aborting := by
  decide +kernel

theorem wit_TakenCountReleasesEntries :
    (halted.part = .halted ∧ halted.memoryLaw) ∧ State.reset.part = .clearing
    ∧ (live.part = .running ∧ live.memoryLaw ∧ live.changeListLaw ∧ live.layoutSound)
    ∧ (∀ n ∈ [0, 1], ¬ live.changeList.length < (word n - live.takenCount).toNat)
    ∧ (∀ n ∈ [2, 65535], live.changeList.length < (word n - live.takenCount).toNat) :=
  ⟨by decide, rfl, ⟨rfl, live_memoryLaw, live_changeListLaw, live_layoutSound⟩, by decide, by decide⟩

/-- A taken count beyond the fill count records MARK_RANGE at word 40 and stands at the fill count (R161). -/
theorem test_taken_count_out_of_range : let t := after (.takenCountWrite 2) live
    t.faultLatch = some { addr := 40, kind := .markRange, multiple := false } ∧ t.takenCount = 1 := by
  decide +kernel

/-! Report links -/

/-- `live` with link 0 otherwise. -/
def link0 (k : Link) : State := { live with links := live.links.set 0 k }

/-- A receiving link. -/
def rx (a : AssemblerState) (r : Run) (slot : Option Report) : State :=
  link0 { live.link 0 with assembler := a, run := r, slot := slot }

/-- A run of these bytes without error marks. -/
def runOf (bytes : List Byte) (count : Nat) : Run :=
  { bytes := bytes.map fun b => { data := b, stopError := false, parityError := false }, count := count, stopMark := false,
    parityMark := false }

theorem wit_CharactersFormRuns :
    (∀ a ∈ [AssemblerState.sync, .idle], (rx a emptyRun none).part = .running ∧ ((rx a emptyRun none).link 0).enabled = true
      ∧ ((rx a emptyRun none).link 0).assembler = a)
    ∧ (∀ n ∈ [1, 9], ((rx .collecting (runOf [] n) none).link 0).run.count < 10)
    ∧ 10 ≤ ((rx .collecting (runOf [] 10) none).link 0).run.count ∧ 10 ≤ ((rx .overflow (runOf [] 11) none).link 0).run.count
    ∧ (live.link 2).enabled = false := by decide +kernel

/-- Three seat or keepalive frames with a good check byte, one with a bad one, and one of kind 10 (R184). -/
def goodBytes : List Byte := [0xC3#8, 5, 0, 1, 100, 3, 9, 0, 0, 0xC7#8]
def keepaliveLow : List Byte := [0xC3#8, 64, 0, 0, 0, 0, 0, 0, 0, 0xFD#8]
def keepaliveHigh : List Byte := [0xC3#8, 127, 0, 0, 0, 0, 0, 0, 0, 0xBE#8]
def badCheck : List Byte := [0xC3#8, 5, 0, 1, 100, 3, 9, 0, 0, 0xC8#8]
def badChannel : List Byte := [0xC3#8, 128, 0, 0, 0, 0, 0, 0, 0, 0xBD#8]

/-- A report of seat 0's carrier, or of another. -/
def report (c : Channel) (tx : Word) : Report :=
  { channel := c, txId := tx, rf := 121, pilot := true, muted := false, fresh := false, battValid := false, audio := 0, reading := 0 }

theorem wit_GapDiscardsBadRuns :
    live.part = .running ∧ (live.link 0).enabled = true ∧ live.memoryLaw
    ∧ ((rx .collecting emptyRun (some (report 5 1))).link 0).slot.isSome = true
    ∧ { runOf goodBytes 10 with stopMark := true }.stopMark = true ∧ { runOf goodBytes 10 with parityMark := true }.parityMark = true
    ∧ (runOf (goodBytes.take 9) 9).count < 10 ∧ 10 < (runOf goodBytes 11).count
    ∧ runByte (runOf (0xC2#8 :: goodBytes.drop 1) 10) 0 ≠ 0xC3#8
    ∧ (runByte (runOf badCheck 10) 0 = 0xC3#8 ∧ ((runData (runOf badCheck 10)).map BitVec.toNat).sum % 256 ≠ 0)
    ∧ (((runData (runOf badChannel 10)).map BitVec.toNat).sum % 256 = 0 ∧ 128 ≤ (runByte (runOf badChannel 10) 1).toNat)
    ∧ (∀ bs ∈ [goodBytes, keepaliveHigh], (runOf bs 10).stopMark = false ∧ (runOf bs 10).parityMark = false
        ∧ runByte (runOf bs 10) 0 = 0xC3#8 ∧ ((runData (runOf bs 10)).map BitVec.toNat).sum % 256 = 0
        ∧ (runByte (runOf bs 10) 1).toNat < 128)
    ∧ (live.link 2).enabled = false := by decide +kernel

theorem wit_GapTakesGoodFrames : ∀ bs ∈ [goodBytes, keepaliveLow, keepaliveHigh],
    let s := rx .collecting (runOf bs 10) none
    s.part = .running ∧ (s.link 0).enabled = true ∧ s.memoryLaw ∧ (s.link 0).assembler = .collecting ∧ (s.link 0).slot = none
      ∧ (s.link 0).run.stopMark = false ∧ (s.link 0).run.parityMark = false ∧ (s.link 0).run.count = 10
      ∧ runByte (s.link 0).run 0 = 0xC3#8 ∧ ((runData (s.link 0).run).map BitVec.toNat).sum % 256 = 0
      ∧ (runByte (s.link 0).run 1).toNat < 128 := by decide +kernel

/-- A seat report's fields (R184). -/
theorem test_good_frame : ((after (.gap 0) (rx .collecting (runOf goodBytes 10) none)).link 0).slot
    = some { channel := 5, txId := 1, rf := 100, pilot := true, muted := true, fresh := false, battValid := false, audio := 9,
             reading := 0 } := by decide +kernel

theorem wit_LinkTimeoutMakesLinkDown :
    (∀ n ∈ [50, 51], let s : State := { live with clock := BitVec.ofNat 32 n }
      s.part = .running ∧ (s.link 0).state = .up ∧ (s.link 0).timer = some 0 ∧ (s.link 0).timeout ≤ (s.clock - 0).toNat ∧ s.memoryLaw)
    ∧ ¬ (live.link 0).timeout ≤ (49#32 - 0).toNat := by decide +kernel

/-! Reports -/

/-- A report in the holding slot of link 0, with seat 0 so. -/
def reporting (x : SeatState) (r : Report) : State :=
  let s := liveWith x seat2 seat19
  { s with links := s.links.set 0 { s.link 0 with slot := some r } }

theorem wit_ReportsTurnedAway :
    (let s := reporting seat0 (report 7 1)
     s.part = .running ∧ s.memoryLaw ∧ (s.link 0).slot = some (report 7 1) ∧ s.carrier 0 7 = none)
    ∧ (let s := reporting seat0 (report 5 2)
       (s.link 0).slot = some (report 5 2) ∧ s.carrier 0 5 = some 0 ∧ (report 5 2).txId ≠ (s.seat 0).ctx.txId)
    ∧ (live.link 0).slot = none ∧ halted.part ≠ .running := by decide +kernel

/-- A seeded estimator. -/
def seeded : Estimator := { restartedEstimator 0 with seeded := true, f := 8000, v := 500, charge := 560, status := .warming }

/-- Reports accepted of seat 0: with and without pilot, battery and FRESH; of an estimator that is not seeded, and one whose
voltage the reading exceeds by less than the swap step and by as much. -/
theorem wit_ReportsAccepted :
    (∀ p ∈ [(seeded, report 5 1), (seeded, { report 5 1 with pilot := false }), (seeded, { report 5 1 with fresh := true }),
        (seeded, { report 5 1 with fresh := true, battValid := true, reading := 550 }),
        (restartedEstimator 0, { report 5 1 with battValid := true, reading := 549 }),
        (seeded, { report 5 1 with battValid := true, reading := 549 }), (seeded, { report 5 1 with battValid := true, reading := 550 }),
        ({ seeded with genSeen := 1 }, { report 5 1 with battValid := true, reading := 550 })],
      let s := reporting { seat0 with estimator := p.1 } p.2
      s.part = .running ∧ (s.link 0).slot = some p.2 ∧ s.carrier 0 p.2.channel = some 0 ∧ p.2.txId = (s.seat 0).ctx.txId
        ∧ (s.seat 0).ctx.active = true ∧ (s.seat 0).ctx.link = 0 ∧ (0 : Seat).val < s.layout.seatCount ∧ s.seatGeneration 0 = 0
        ∧ (s.seat 0).estimator = p.1 ∧ (s.seat 0).tracker.dropoutStart = none)
    ∧ (seeded.genSeen = 0 ∧ seeded.v + testCurve.swapStep = 550 ∧ (restartedEstimator 0).genSeen = 0 ∧ (restartedEstimator 0).seeded = false)
    ∧ { seat0.tracker with dropoutStart := some 0 }.dropoutStart ≠ none
    ∧ testCurve.faulty = false ∧ { testCurve with volts := Vector.replicate 8 1 }.faulty = true
    ∧ (testCurve.volts[0] = 300 ∧ testCurve.volts[1] = 350 ∧ testCurve.volts[6] = 600 ∧ testCurve.volts[7] = 650) := by
  decide +kernel

/-- A curve that is valid, and curves that break R97 at an end of each range. -/
theorem wit_curves :
    CurveValid testCurve ∧ CurveValid { testCurve with volts := testCurve.volts.set 7 1023, charges := testCurve.charges.set 7 1000 }
    ∧ ∀ c ∈ [{ testCurve with volts := testCurve.volts.set 7 1024 }, { testCurve with volts := testCurve.volts.set 1 300 },
        { testCurve with charges := testCurve.charges.set 7 1001 }, { testCurve with charges := testCurve.charges.set 1 281 }],
      ¬ CurveValid c := by
  refine ⟨(faulty_eq_false_iff _).1 (by decide +kernel), (faulty_eq_false_iff _).1 (by decide +kernel), ?_⟩
  simp only [← faulty_iff]
  decide +kernel

/-- A reading seeds an estimator: sixteen times the reading, the voltage, and the charge of the curve there (R99, R101, R102). -/
theorem test_reading_seeds :
    let e := ((after (.reportTake 0) (reporting seat0 { report 5 1 with battValid := true, reading := 375 })).seat 0).estimator
    e.seeded = true ∧ e.f = 6000 ∧ e.v = 375 ∧ e.charge = 210 ∧ e.status = .warming := by decide +kernel

/-- An RF level above 120 is clamped (R21). -/
theorem test_report_clamps : ((after (.reportTake 0) (reporting seat0 (report 5 1))).seat 0).ctx.sample
    = some { rf := 120, pilot := true, muted := false, audio := 0 } := by decide +kernel

/-! Report links: sending -/

/-- Eighteen active seats of link 0 that wait for it: sixteen queued, two deferred. -/
def crowded : State :=
  { bare with
    seats := Vector.ofFn fun i : Seat => if i.val < 18 then { seat0 with channel := { seat0.channel with intent := .muted } } else resetSeat
    links := bare.links.set 0 { bare.link 0 with queue := allSeats.take 16, deferred := [16, 17] } }

theorem wit_TransmitterTakesQueueHead :
    (live.part = .running ∧ (live.link 0).tx = .idle ∧ (live.link 0).state = .up ∧ (live.link 0).queue = 0 :: [] ∧ live.queueLawful 0
      ∧ (live.link 0).deferred = [])
    ∧ (crowded.part = .running ∧ (crowded.link 0).tx = .idle ∧ (crowded.link 0).state = .up
      ∧ (crowded.link 0).queue = 0 :: (allSeats.take 16).drop 1 ∧ crowded.queueLawful 0
      ∧ 16 ∈ (crowded.link 0).deferred ∧ ∀ e ∈ (crowded.link 0).deferred, (16 : Seat) ≤ e)
    ∧ (live.link 1).queue = [] ∧ (live.link 1).tx = .idle := by decide +kernel

/-- BCh on the line: start low, 0 0 1 1 1 1 0 1, five ones and so a parity bit 0, stop high (R25). -/
theorem test_character_sent :
    sentCharacter 0xBC#8 = [false, false, false, true, true, true, true, false, true, false, true] := by decide

/-- The command frame of seat 0: OPEN for channel 5 of transmitter 1, its bytes summing to 0 (R38, R184). -/
theorem test_command_frame : ((after (.transmitStart 0) live).link 0).tx
    = .sending { seat := 0, cancelled := false, bytes := [0x3C#8, 5, 0, 1, 2, 0xBC#8] } := by decide +kernel

/-- `live` with a frame of a seat in flight. -/
def flying (i : Seat) (cancelled : Bool) : State :=
  link0 { live.link 0 with queue := [], tx := .sending { seat := i, cancelled := cancelled, bytes := [] } }

theorem wit_CompletionStartsConfirmation :
    (((flying 0 false).link 0).tx = .sending { seat := 0, cancelled := false, bytes := [] }
      ∧ ((flying 0 false).seat 0).channel.state = .sending ∧ (flying 0 false).part = .running ∧ (0 : Seat).val < (flying 0 false).layout.seatCount)
    ∧ ((flying 0 true).link 0).tx = .sending { seat := 0, cancelled := true, bytes := [] }
    ∧ ((flying 2 false).seat 2).channel.state ≠ .sending ∧ (live.link 0).tx = .idle := by decide +kernel

theorem wit_SpacingEndsIdle :
    let s := link0 { live.link 0 with tx := .spacing }
    let u : State := { s with part := .stopping }
    ((s.link 0).tx = .spacing ∧ s.part ≠ .stopping)
    ∧ ((u.link 0).tx = .spacing ∧ u.part = .stopping ∧ u.linesQuiet = false ∧ (∀ j, j ≠ 0 → (u.link j).tx = .idle) ∧ u.memoryLaw)
    ∧ (live.link 0).tx ≠ .spacing := by decide +kernel

/-! Passes and evaluations -/

/-- `live` at a clock reading, with the pass so. -/
def passing (now : Clock) (pass : Option Nat) : State := { live with clock := now, pass := pass }

theorem wit_ScanExpiryStartsPassOrIsLate :
    (live.part = .running ∧ live.scanTimer = some 0 ∧ live.scanPeriod ≤ ((5 : Clock) - 0).toNat ∧ ¬ live.scanPeriod ≤ ((4 : Clock) - 0).toNat)
    ∧ (∃ i : Seat, 0 ≤ i.val ∧ i.val < live.layout.seatCount ∧ (live.seat i).ctx.active = true)
    ∧ (∃ i : Seat, 19 ≤ i.val ∧ i.val < live.layout.seatCount ∧ (live.seat i).ctx.active = true)
    ∧ (¬ ∃ i : Seat, 20 ≤ i.val ∧ i.val < live.layout.seatCount ∧ (live.seat i).ctx.active = true)
    ∧ (¬ ∃ i : Seat, 0 ≤ i.val ∧ i.val < bare.layout.seatCount ∧ (bare.seat i).ctx.active = true)
    ∧ (passing 5 (some 19)).memoryLaw ∧ { live with scanTimer := none }.scanTimer = none := by
  refine ⟨by decide, ⟨0, by decide +kernel⟩, ⟨19, by decide +kernel⟩, ?_, ?_, live_memoryLaw, rfl⟩
  · rintro ⟨i, h, h', -⟩
    have : i.val < 20 := h'
    omega
  · rintro ⟨i, -, -, h⟩
    have hb : bare.seat i = resetSeat := by simp [State.seat, bare, State.reset]
    rw [hb] at h
    exact absurd h (by decide)

/-- Seat 0 first in a pass, and seat 19 last; both sides of its silence, of a generation and of its deadline. -/
theorem wit_SeatEvaluation :
    (live.pass = none ∧ live.part = .running)
    ∧ (∀ n : Clock, (passing n (some 0)).pass = some 0 ∧ (0 : Seat).val < (passing n (some 0)).layout.seatCount
        ∧ ((passing n (some 0)).seat 0).ctx.active = true ∧ ∀ j : Seat, 0 ≤ j.val → j < 0 → ((passing n (some 0)).seat j).ctx.active = false)
    ∧ (∀ n : Clock, (passing n (some 3)).pass = some 3 ∧ 3 ≤ (19 : Seat).val ∧ (19 : Seat).val < (passing n (some 3)).layout.seatCount
        ∧ ((passing n (some 3)).seat 19).ctx.active = true
        ∧ ∀ j : Seat, 3 ≤ j.val → j < 19 → ((passing n (some 3)).seat j).ctx.active = false)
    ∧ ((live.seatClass 0).silenceTime ≤ ((1000 : Clock) - (live.seat 0).ctx.lastReport).toNat
        ∧ ¬ (live.seatClass 0).silenceTime ≤ ((999 : Clock) - (live.seat 0).ctx.lastReport).toNat)
    ∧ ((live.seat 0).estimator.genSeen = live.seatGeneration 0
        ∧ (live.seat 0).estimator.genSeen ≠ { live with generations := Vector.replicate 4 1 }.seatGeneration 0)
    ∧ ((live.seat 19).channel.deadline = some 0 ∧ ((0x7FFFFFFF#32) - 0).toNat < 2147483648 ∧ ¬ ((0x80000000#32) - 0).toNat < 2147483648)
    ∧ ((live.seatClass 0).fadeWindow * 1000 ≤ ((10000 : Clock) - (live.seat 0).tracker.windowStart).toNat
        ∧ ((9999 : Clock) - (live.seat 0).tracker.windowStart).toNat < (live.seatClass 0).fadeWindow * 1000)
    ∧ ((live.seat 0).monitors[condWeak].state = .clear ∧ (live.seatClass 0).raiseCounts[condWeak] ≠ 0)
    ∧ ((passing 0 (some 20)).pass = some 20
        ∧ ∀ j : Seat, 20 ≤ j.val → j.val < (passing 0 (some 20)).layout.seatCount → ((passing 0 (some 20)).seat j).ctx.active = false)
    ∧ ((live.seatCurve 0).faulty = false ∧ seeded.seeded = true ∧ seeded.missing = false ∧ ((500 : Clock) - seeded.nextSample).toNat < 2147483648)
    ∧ (∀ h ∈ [[((0 : Clock), 600)], []], h.dropWhile (fun p => decide (1000000000 < ((1000000000 : Clock) - p.1).toNat)) = h)
    ∧ [((0 : Clock), 600)].dropWhile (fun p => decide (1000000000 < ((1000000001 : Clock) - p.1).toNat)) ≠ [((0 : Clock), 600)] := by
  refine ⟨by decide, ?_, ?_, by decide +kernel, by decide +kernel, by decide +kernel, by decide +kernel, by decide +kernel,
    ⟨rfl, fun j h h' => absurd (show j.val < 20 from h') (by omega)⟩, by decide +kernel, by decide +kernel, by decide +kernel⟩
  · intro n
    refine ⟨rfl, (by decide : 0 < 20), ?_, fun j _ h => absurd h (by simp)⟩
    show (live.seat 0).ctx.active = true
    decide +kernel
  · intro n
    refine ⟨rfl, by decide, (by decide : 19 < 20), ?_, ?_⟩
    · show (live.seat 19).ctx.active = true
      decide +kernel
    · intro j h h'
      have e : (passing n (some 3)).seat j = live.seat j := rfl
      rw [e, live, liveWith_seat, if_neg (by rintro rfl; simp at h'), if_neg (by rintro rfl; simp at h), if_neg (by rintro rfl; simp at h)]
      rfl

/-- A seat silent for its class's raise count of two passes is RAISED in the second (R62, R23). -/
theorem test_silence_raises :
    let s := after .seatEvaluation (passing 1000 (some 0))
    let t := after .seatEvaluation { s with pass := some 0 }
    (s.seat 0).monitors[condSilent] = { state := .onset, n := 1, ack := false, rep := false }
      ∧ (t.seat 0).monitors[condSilent] = { state := .raised, n := 0, ack := false, rep := false } := by decide +kernel

/-- Seat 0 of `live` so, at a clock reading, in a pass that has reached it. -/
def sharing (now : Clock) (x : SeatState) : State := { liveWith x seat2 seat19 with clock := now, pass := some 0 }

theorem wit_SharesOfEvaluation :
    (∀ now x, (sharing now x).part = .running ∧ (sharing now x).pass = some 0 ∧ 0 ≤ (0 : Seat).val ∧ (0 : Seat).val < (sharing now x).layout.seatCount
        ∧ ∀ j : Seat, 0 ≤ j.val → j < 0 → ((sharing now x).seat j).ctx.active = false)
    ∧ (let s := sharing 10000 { seat0 with ctx := { seat0.ctx with lastReport := 10000 } }
       (s.seat 0).ctx.active = true ∧ ¬ (s.seatClass 0).silenceTime ≤ (s.clock - (s.seat 0).ctx.lastReport).toNat
        ∧ (s.seatClass 0).fadeWindow * 1000 ≤ (s.clock - heldReading s.clock (s.seat 0).tracker.windowStart).toNat)
    ∧ (∀ h ∈ [[], List.replicate 8 ((0 : Clock), 600)], let s := sharing 500 { seat0 with estimator := { seeded with history := h } }
       (s.seat 0).ctx.active = true ∧ ¬ (s.seatClass 0).silenceTime ≤ (s.clock - (s.seat 0).ctx.lastReport).toNat
        ∧ (s.seat 0).estimator.genSeen = s.seatGeneration 0 ∧ (s.seat 0).estimator.seeded = true ∧ (s.seat 0).estimator.missing = false
        ∧ (s.seatCurve 0).faulty = false ∧ (s.clock - (s.seat 0).estimator.nextSample).toNat < 2147483648)
    ∧ (∀ a ∈ [Attempt.first, .second], let s := sharing 0 { seat0 with channel := { intent := .opened, state := .awaiting, attempt := a, deadline := some 0 } }
       (s.seat 0).ctx.active = true ∧ (s.seat 0).channel.state = .awaiting ∧ (s.seat 0).channel.deadline = some 0
        ∧ (s.clock - 0).toNat < 2147483648)
    ∧ live.pass = none :=
  ⟨fun _ _ => ⟨rfl, rfl, Nat.le_refl 0, (by decide : 0 < 20), fun _ _ h => absurd h (by simp)⟩, by decide +kernel, by decide +kernel,
    by decide +kernel, rfl⟩

/-- The curves of the two witnesses above are valid (R97). -/
theorem wit_evaluated_curves :
    CurveValid (live.seatCurve 0)
    ∧ CurveValid ((sharing 500 { seat0 with estimator := { seeded with history := List.replicate 8 ((0 : Clock), 600) } }).seatCurve 0) :=
  ⟨(faulty_eq_false_iff _).1 (by decide +kernel), (faulty_eq_false_iff _).1 (by decide +kernel)⟩

/-- A deadline is checked only at evaluations: with no pass in flight, or with another seat reached, it does not expire (R132). -/
theorem test_deadline_waits_for_the_evaluation :
    ((after (.confirmationDeadlineExpiry 19) live).seat 19).channel.state = .awaiting
    ∧ ((after (.confirmationDeadlineExpiry 19) { live with pass := some 2 }).seat 19).channel.state = .awaiting
    ∧ ((after (.confirmationDeadlineExpiry 19) { live with pass := some 3 }).seat 19).channel.state = .unconfirmed := by decide +kernel

/-- The step and the rest of the evaluation are one event, and it makes at most one rollover: after a FADE_WINDOW_ROLLOVER
that is due, the pass has left the seat, which is as SEAT_EVALUATION leaves it; a command for a seat that the pass has left
rolls nothing (R52, R85). -/
theorem test_rollover_is_the_whole_evaluation :
    let s := sharing 10000 { seat0 with ctx := { seat0.ctx with lastReport := 10000 }, tracker := { seat0.tracker with onsets := 5 } }
    let t := after (.fadeWindowRollover 0) s
    (t.seat 0).tracker.prevOnsets = 5 ∧ t.seat 0 = (after .seatEvaluation s).seat 0 ∧ t.pass = some 1
      ∧ ((after (.fadeWindowRollover 0) { s with pass := some 1 }).seat 0).tracker.onsets = 5 := by decide +kernel

/-! The Warning Board -/

/-- The change list full with the seats 0 to 15, and seat 16 with a change write. -/
def fullList : State :=
  { bare with
    seats := Vector.ofFn fun i : Seat => if i.val < 16 then { resetSeat with board := { resetSeat.board with listed := true } } else resetSeat
    changeList := allSeats.take 16
    fillCount := 16
    boardWrites := [{ seat := 16, change := true, body := List.replicate 10 7, written := 0, behind := none }] }

theorem fullList_changeListLaw : fullList.changeListLaw := by
  have hs : ∀ i : Seat, fullList.seat i = if i.val < 16 then { resetSeat with board := { resetSeat.board with listed := true } } else resetSeat := by
    intro i
    simp [fullList, State.seat]
  have hm : ∀ i : Seat, i ∈ allSeats.take 16 ↔ i.val < 16 := by
    intro i
    have h : allSeats.take 16 = (List.finRange 16).map fun k : Fin 16 => ⟨k.val, by omega⟩ := by decide +kernel
    rw [h, List.mem_map]
    constructor
    · rintro ⟨k, -, rfl⟩
      exact k.isLt
    · intro h'
      exact ⟨⟨i.val, h'⟩, List.mem_finRange _, rfl⟩
  refine ⟨by decide +kernel, by decide +kernel, by decide +kernel, by decide +kernel, by decide +kernel, by decide +kernel, ?_, ?_, by decide +kernel⟩
  · intro i
    have e : fullList.changeList = allSeats.take 16 := by simp only [fullList]
    rw [e, hm, hs]
    split <;> simp_all [resetSeat]
  · symm
    show List.countP _ _ = 0
    rw [List.countP_eq_zero]
    intro i _
    rw [hs]
    split <;> decide

theorem wit_BoardWriteOffersSeat :
    (∀ n ∈ [0, 1, 11], (writing n).boardWrites.find? (fun e => e.seat == 19)
        = some { seat := 19, change := true, body := List.replicate 10 7, written := n, behind := none } ∧ n ≤ 11)
    ∧ ((writing 0).part = .running ∧ (writing 0).memoryLaw ∧ (writing 0).changeListLaw ∧ (writing 0).layoutSound
      ∧ (19 : Seat).val < (writing 0).layout.seatCount ∧ ((writing 0).seat 19).board.listed = false ∧ (writing 0).changeList.length < (writing 0).capacity)
    ∧ (fullList.part = .running ∧ fullList.memoryLaw ∧ fullList.changeListLaw ∧ fullList.layoutSound
      ∧ (16 : Seat).val < fullList.layout.seatCount ∧ (fullList.seat 16).board.listed = false ∧ fullList.changeList.length = fullList.capacity)
    ∧ (∀ e ∈ (writing 0).boardWrites, e.seat ≠ 0) :=
  ⟨by decide +kernel, ⟨rfl, live_memoryLaw, live_changeListLaw, live_layoutSound, by decide +kernel⟩,
    ⟨rfl, by decide +kernel, fullList_changeListLaw, live_layoutSound, by decide +kernel⟩, by decide +kernel⟩

/-- The body words of a seat on the floor, laid out by hand from R183: OPEN, AWAITING at attempt 1, NO_REPORTS, VALID; SEAT_SILENT
RAISED with REPEAT, the last condition LAPSED; three onsets; RF 100, audio 9; charge 560, 120 minutes; a dropout of 66000 ms. -/
theorem test_entry_body :
    let m : Monitor := { state := .lapsed, n := 0, ack := false, rep := false }
    let x : SeatState := { seat0 with
      ctx := { seat0.ctx with sample := some { rf := 100, pilot := false, muted := false, audio := 9 }, silence := .noReports }
      monitors := (seat0.monitors.set 0 { m with state := .raised, rep := true }).set 7 m
      tracker := { seat0.tracker with dropoutStart := some 0, onsets := 3 }
      estimator := { seat0.estimator with status := .valid, charge := 560, minutes := 120 }
      channel := { intent := .opened, state := .awaiting, attempt := .first, deadline := some 0 }
      board := { seat0.board with changedAt := 0x00020001#32 } }
    State.boardBody { liveWith x seat2 seat19 with clock := 66000 } 0
      = [0x1559#16, 0x0001#16, 0x4000#16, 0x0301#16, 0x0964#16, 560, 120, 65535, 1, 2] := by decide +kernel

/-- An unlisted seat's change write sets it behind the list (R160). -/
theorem test_change_write_lists : (after (.boardWrite 19) (writing 0)).changeList = [2, 19]
    ∧ (after (.boardWrite 19) (writing 0)).readWord 2701 = 19 := by decide +kernel

/-! Order pages -/

/-- `live` with this count word in page B. -/
def counting (n : Word) : State := live.putWord 2397 n

theorem wit_HeadPageIsTaken :
    (live.part = .running ∧ live.worked = none ∧ live.suspended = none ∧ live.posting = .b :: [] ∧ live.layout.pageBase .b + 196 ≤ 16384)
    ∧ (∀ n ∈ [0, 1, 32, 33], (counting (word n)).memoryLaw ∧ (counting (word n)).wordBad 2397 = false
        ∧ ((counting (word n)).readWord 2397).toNat = n)
    ∧ { live with badParity := [4795] }.wordBad 2397 = true ∧ { live with badParity := [4795] }.memoryLaw
    ∧ halted.part ≠ .running ∧ bare.posting = [] := by decide +kernel

/-- A count of 33 ends the page with SEQUENCE_FAULT at once (R145). -/
theorem test_page_count : ((after .takePage (counting 33)).worked.map PageWork.ending) = some (some .sequenceFault)
    ∧ ((after .takePage (counting 32)).worked.map PageWork.count) = some 32 := by decide +kernel

/-- Page B suspended in a LOAD RANGE with page A in hand. -/
def suspendedB (x : PageState) (w : PageWork) : State :=
  { working w with
    pageB := x
    posting := []
    suspended := some { inA 1 with page := .b, begun := true, bulk := some { rangeAt 16 true with suspendedMark := true } } }

/-- `live` STOPPING, and an ABORTING page A before its slot 1. -/
def stoppingA : State := { working (inA 2) with part := .stopping }
def abortingA : State := { working { inA 2 with slot := 1 } with pageA := .aborting }

/-- Page A before a slot, with refusals noted or not, and a summary decided or not. -/
def atSlot (slot : Nat) (refusals : Bool) (ending : Option Summary) : PageWork :=
  { inA 2 with slot := slot, refusals := refusals, ending := ending }

theorem wit_PageEnds :
    (∀ w ∈ [atSlot 0 false (some .ramFault), atSlot 2 false none, atSlot 2 true none, inA 0],
      pageLawHolds (working w) = true ∧ w.bulk = none ∧ w.begun = false ∧ (w.ending = none → w.count ≤ w.slot))
    ∧ (stoppingA.pageLaw ∧ stoppingA.part = .stopping ∧ (inA 2).ending = none)
    ∧ (abortingA.pageLaw ∧ abortingA.pageState .a = .aborting)
    ∧ (pageLawHolds (suspendedB .taken (atSlot 2 false none)) = true ∧ pageLawHolds (suspendedB .aborting (atSlot 2 false none)) = true)
    ∧ (∀ x ∈ [PageState.taken, .aborting], pageLawHolds { suspendedB x (atSlot 2 false none) with part := .stopping } = true
        ∧ ((suspendedB x (atSlot 2 false none)).suspended.bind PageWork.bulk).isSome = true)
    ∧ (∀ bs ∈ [[], [2 * 2397]], { working (atSlot 2 false none) with badParity := bs }.memoryLaw
        ∧ { working (atSlot 2 false none) with badParity := bs }.layoutSound
        ∧ { working (atSlot 2 false none) with badParity := bs }.posting = .b :: [] ∧ live.layout.pageBase .b + 1 = 2397)
    ∧ (live.worked = none ∧ ((inA 2).ending = none ∧ ¬ (inA 2).count ≤ (inA 2).slot)) := by
  refine ⟨?_, ?_, ?_, ?_, ?_, ?_, ?_⟩
  · intro w h
    simp only [List.mem_cons, List.not_mem_nil, or_false] at h
    rcases h with rfl | rfl | rfl | rfl <;> decide +kernel
  all_goals decide +kernel

/-- The unworked slot is SKIPPED and the page DONE (R147). -/
theorem test_page_end : let t := after .pageEnd (working { inA 2 with slot := 1, ending := some .ramFault })
    t.readWord 2200 = 4 ∧ t.readWord 2202 = 5 ∧ t.readWord 2203 = 1 ∧ t.readWord 2213 = 0x30 := by decide +kernel

/-! Orders -/

/-- A slot is in hand with the laws of the memory and the layout: the hypotheses that every order's statement has. -/
structure Ready (s : State) (w : PageWork) (o : Slot) : Prop where
  inHand : s.OrderInHand w o
  memory : s.memoryLaw
  layout : s.layoutSound
  running : s.part = .running

/-- The state has the RAM, the parity, the layout and the part state of `live`. -/
structure LikeLive (s : State) : Prop where
  ram : s.ram = [(76, 1)]
  badParity : s.badParity = []
  layout : s.layout = bare.layout
  capacity : s.capacity = 16
  part : s.part = .running

theorem withSlot_slotRead (s : State) (h : LikeLive s) (kind seat arg : Word) (k : Nat) :
    (withSlot s 2 kind seat arg).slotRead (inA 2) k
      = { addr := 2204 + k,
          value := if hx : 2204 ≤ 2204 + k ∧ 2204 + k < 2204 + [kind, seat, arg].length
            then [kind, seat, arg][2204 + k - 2204]'(by omega) else s.readWord (2204 + k),
          bad := false } := by
  have hm : Memory.wf s.ram = true := by rw [h.ram]; decide
  have hlen : 2204 + [kind, seat, arg].length ≤ ramWords := by simp [ramWords]
  have hb : (withSlot s 2 kind seat arg).wordBad (2204 + k) = false := by
    simp [State.wordBad, withSlot, State.putWords, State.putWord, h.badParity]
  have hl : (withSlot s 2 kind seat arg).layout.slotAddr .a 0 = 2204 := by
    simp only [withSlot, State.putWords, State.putWord, h.layout]
    decide +kernel
  have hr : (withSlot s 2 kind seat arg).readWord (2204 + k) = (s.putWords 2204 [kind, seat, arg]).readWord (2204 + k) :=
    readWord_congr (by simp only [withSlot]) _
  rw [State.slotRead]
  simp only [inA, List.getElem?_nil, Bool.false_eq_true, if_false, hl, State.look, hb, hr, readWord_putWords _ hm hlen]

theorem live_like : LikeLive live := ⟨rfl, rfl, rfl, rfl, rfl⟩

/-- Any slot of page A is in hand on a state like `live`. -/
theorem ready_of (s : State) (h : LikeLive s) (kind seat arg : Word) :
    Ready (withSlot s 2 kind seat arg) (inA 2) ⟨kind, seat, arg⟩ := by
  have hb : (withSlot s 2 kind seat arg).badParity = [] := by simp [withSlot, State.putWords, State.putWord, h.badParity]
  have hp : (withSlot s 2 kind seat arg).part = .running := h.part
  have hr : (withSlot s 2 kind seat arg).regions = live.regions := by
    simp only [State.regions, withSlot, State.putWords, State.putWord, h.layout, h.capacity]
    decide +kernel
  constructor
  · constructor
    · rfl
    · simp only [State.slotReady, hp]
      rfl
    · rw [withSlot_slotRead s h]; rfl
    · rw [withSlot_slotRead s h]; rfl
    · rw [withSlot_slotRead s h]; rfl
    · intro k _; rw [withSlot_slotRead s h]
    · rfl
    · decide
  · exact ⟨wf_putWords _ (by rw [h.ram]; decide), by rw [hb]; exact List.Pairwise.nil, by rw [hb]; intro b hb'; cases hb'⟩
  · rw [State.layoutSound, hr]
    exact live_layoutSound
  · exact hp

theorem wit_UnknownKindFaultsPage : ∀ n ∈ [0x00, 0x04, 0x51, 0x0101],
    Ready (withSlot live 2 (word n) 0 0) (inA 2) ⟨word n, 0, 0⟩ ∧ (inA 2).count ≤ 32
      ∧ word n ∉ [0x01#16, 0x02#16, 0x03#16, 0x10#16, 0x11#16, 0x12#16, 0x13#16, 0x20#16, 0x21#16, 0x22#16, 0x30#16, 0x40#16, 0x50#16] := by
  intro n h
  refine ⟨ready_of live live_like (word n) 0 0, by decide, ?_⟩
  revert n
  decide +kernel

/-- Page A before its slot 1, bound to this seat word. -/
def boundTo (seat : Word) : PageWork := { inA 2 with slot := 1, bound := some seat }

/-- Slot 1 of page A holds this order, and its slot 0 bound it. -/
def boundSlot (bound kind seat : Word) : State := (working (boundTo bound)).putWords 2210 [kind, seat, 0]

/-- Each operand word of a slot with bad parity, before it is read and after; a slot bound to seat 2 that is for another seat,
and one that is no liftable order. -/
theorem wit_FaultySlots :
    (∀ k ∈ [0, 1, 2], let s := { working (inA 2) with badParity := [2 * (2204 + k)] }
      s.worked = some (inA 2) ∧ s.slotReady (inA 2) = true ∧ s.memoryLaw ∧ s.layoutSound
        ∧ (∀ j < k, (s.orderRead (inA 2) j (s.layout.slotAddr .a 0 + j)).bad = false)
        ∧ (s.orderRead (inA 2) k (s.layout.slotAddr .a 0 + k)).bad = true)
    ∧ (∀ k ∈ [0, 1, 2],
      let s := { begunWith [] with reads := (List.range (k + 1)).map fun j => { addr := 2204 + j, value := 0, bad := j == k } }
      s.worked = some begunA ∧ s.slotReady begunA = true
        ∧ (∀ j < k, (s.orderRead begunA j (s.layout.slotAddr .a 0 + j)).bad = false)
        ∧ (s.orderRead begunA k (s.layout.slotAddr .a 0 + k)).bad = true ∧ k < s.reads.length)
    ∧ (∀ p ∈ [(0x01, 0), (0x11, 0), (0x22, 0), (0x10, 2), (0x40, 2)],
      let s := boundSlot 2 (word p.1) (word p.2)
      s.worked = some (boundTo 2) ∧ s.slotReady (boundTo 2) = true ∧ (boundTo 2).bound = some 2 ∧ s.memoryLaw
        ∧ (∀ j < 3, (s.orderRead (boundTo 2) j (s.layout.slotAddr .a 1 + j)).bad = false)
        ∧ (s.orderRead (boundTo 2) 0 (s.layout.slotAddr .a 1)).value = word p.1
        ∧ (s.orderRead (boundTo 2) 1 (s.layout.slotAddr .a 1 + 1)).value = word p.2
        ∧ (¬ (word p.1 = kindLoadSeat ∨ word p.1 = kindRevokeFloor ∨ word p.1 = kindResetWarnings) ∨ word p.2 ≠ 2)) :=
  ⟨by decide +kernel, by decide +kernel, by decide +kernel⟩

/-- A seat word of bad parity: RAM_FAULT with its address, and the fault in the latch (R146). -/
theorem test_bad_operand : let t := after .grantFloor { working (inA 2) with badParity := [2 * 2205] }
    t.readWord 2207 = word ResultCode.ramFault.code ∧ t.readWord 2208 = 2205
      ∧ t.faultLatch = some { addr := 2205, kind := .parity, multiple := false } := by decide +kernel

/-- A lifted seat's slot that holds another order: SEQUENCE_FAULT with its kind and seat word (R152). -/
theorem test_broken_pairing : let t := after .grantFloor (boundSlot 2 kindGrantFloor 2)
    t.readWord 2213 = word ResultCode.sequenceFault.code ∧ t.readWord 2214 = kindGrantFloor ∧ t.readWord 2215 = 2 := by decide +kernel

/-- The last slot; a seat beyond the count and beyond every seat; an unlocked and a locked seat. -/
theorem wit_LiftLockBindsNextSlot :
    (∀ seat : Word, Ready (withSlot live 2 kindLiftLock seat 0) (inA 2) ⟨kindLiftLock, seat, 0⟩) ∧ (inA 2).slot + 1 < (inA 2).count
    ∧ (∀ n ∈ [20, 512, 65535], live.layout.seatCount ≤ (word n).toNat) ∧ (seatWord 19).toNat < live.layout.seatCount
    ∧ ((live.seat 0).ctx.locked = false ∧ (live.seat 2).ctx.locked = true)
    ∧ ((withSlot live 1 kindLiftLock 0 0).OrderInHand (inA 1) ⟨kindLiftLock, 0, 0⟩ ∧ (inA 1).slot + 1 = (inA 1).count) :=
  ⟨fun seat => ready_of live live_like kindLiftLock seat 0, by decide +kernel, by decide +kernel, by decide +kernel, by decide +kernel,
    orderInHand_of (by decide +kernel), rfl⟩

/-- A lifted seat stands behind the order (R152). -/
theorem test_lift_lock : (after .liftLock (withSlot live 2 kindLiftLock 2 0)).lift = some 2
    ∧ (after .liftLock (withSlot live 2 kindLiftLock 2 0)).readWord 2207 = 0 := by decide +kernel

/-- `live` with these floor rules and roster. -/
def floor (limit : Nat) (policy : FloorPolicy) : State := { live with floorLimit := limit, floorPolicy := policy }

/-- Seat 0 with priority, or locked. -/
def seat0Priority : SeatState := { seat0 with ctx := { seat0.ctx with priority := true } }
def seat0Locked : SeatState := { seat0 with ctx := { seat0.ctx with locked := true } }

/-- A full floor to be displaced whose member has priority, and a floor of two. -/
def keptFloor : State := { liveWith seat0Priority seat2 seat19 with floorPolicy := .displace }
def twoOnFloor : State := { live with roster := [0, 2] }

theorem wit_GrantFloor :
    (∀ (seat : Word) (limit : Nat) (policy : FloorPolicy),
      Ready (withSlot (floor limit policy) 2 kindGrantFloor seat 0) (inA 2) ⟨kindGrantFloor, seat, 0⟩)
    ∧ (∀ n ∈ [20, 512, 65535], live.layout.seatCount ≤ (word n).toNat)
    ∧ ((live.seat 1).ctx.active = false ∧ (live.seat 0).ctx.active = true ∧ 0 ∈ live.roster)
    ∧ ((live.seat 2).ctx.active = true ∧ 2 ∉ live.roster ∧ live.roster.length < (floor 2 .refuse).floorLimit
        ∧ (floor 1 .refuse).floorLimit ≤ live.roster.length)
    ∧ (live.roster = [] ++ 0 :: [] ∧ (live.seat 0).ctx.priority = false ∧ (live.seat 0).ctx.locked = false
        ∧ (live.seat 0).channel.intent = .opened ∧ (0 : Seat).val < live.layout.seatCount)
    ∧ (Ready (withSlot keptFloor 2 kindGrantFloor 2 0) (inA 2) ⟨kindGrantFloor, 2, 0⟩
        ∧ (keptFloor.seat 0).ctx.priority = true) :=
  ⟨fun seat limit policy => ready_of (floor limit policy) ⟨rfl, rfl, rfl, rfl, rfl⟩ kindGrantFloor seat 0, by decide +kernel, by decide +kernel, by decide +kernel,
    by decide +kernel, ready_of keptFloor ⟨rfl, rfl, rfl, rfl, rfl⟩ kindGrantFloor 2 0, by decide +kernel⟩

/-- A grant on a full floor displaces the oldest member (R123). -/
theorem test_grant_displaces : (after .grantFloor (withSlot (floor 1 .displace) 2 kindGrantFloor 19 0)).roster = [19]
    ∧ (after .grantFloor (withSlot (floor 1 .refuse) 2 kindGrantFloor 19 0)).roster = [0] := by decide +kernel

theorem wit_RevokeFloor :
    (∀ seat : Word, Ready (withSlot live 2 kindRevokeFloor seat 0) (inA 2) ⟨kindRevokeFloor, seat, 0⟩
      ∧ (withSlot live 2 kindRevokeFloor seat 0).rosterLaw)
    ∧ (2 ∉ live.roster ∧ 0 ∈ live.roster ∧ (live.seat 0).ctx.locked = false)
    ∧ (∀ lift : Option Seat,
        Ready (withSlot { liveWith seat0Locked seat2 seat19 with lift := lift } 2 kindRevokeFloor 0 0) (inA 2) ⟨kindRevokeFloor, 0, 0⟩
        ∧ (withSlot { liveWith seat0Locked seat2 seat19 with lift := lift } 2 kindRevokeFloor 0 0).rosterLaw)
    ∧ ((liveWith seat0Locked seat2 seat19).seat 0).ctx.locked = true :=
  ⟨fun seat => ⟨ready_of live live_like kindRevokeFloor seat 0, live_rosterLaw⟩, by decide +kernel,
    fun lift => ⟨ready_of { liveWith seat0Locked seat2 seat19 with lift := lift } ⟨rfl, rfl, rfl, rfl, rfl⟩ kindRevokeFloor 0 0,
      (rosterLaw_of (by decide +kernel) (by decide +kernel) (by decide +kernel) : (liveWith seat0Locked seat2 seat19).rosterLaw)⟩, by decide +kernel⟩

theorem wit_ClearFloor : Ready (withSlot live 2 kindClearFloor 0 0) (inA 2) ⟨kindClearFloor, 0, 0⟩
    ∧ (withSlot live 2 kindClearFloor 0 0).rosterLaw ∧ (live.seat 0).ctx.locked = false :=
  ⟨ready_of live live_like kindClearFloor 0 0, live_rosterLaw, by decide +kernel⟩

theorem wit_SetFloorRules :
    (∀ arg : Word, Ready (withSlot live 2 kindSetFloorRules 0 arg) (inA 2) ⟨kindSetFloorRules, 0, arg⟩) ∧ live.roster.length ≤ 1
    ∧ Ready (withSlot twoOnFloor 2 kindSetFloorRules 0 0) (inA 2) ⟨kindSetFloorRules, 0, 0⟩
    ∧ 1 < twoOnFloor.roster.length :=
  ⟨fun arg => ready_of live live_like kindSetFloorRules 0 arg, by decide +kernel, ready_of twoOnFloor ⟨rfl, rfl, rfl, rfl, rfl⟩ kindSetFloorRules 0 0, by decide +kernel⟩

/-- A limit of 0 is 1, and one of 9 is 8; a policy of 7 is DISPLACE (R126). -/
theorem test_floor_rules : (after .setFloorRules (withSlot live 2 kindSetFloorRules 0 0x0709#16)).readWord 49 = 0x0108
    ∧ (after .setFloorRules (withSlot live 2 kindSetFloorRules 0 0)).readWord 49 = 1 := by decide +kernel

theorem wit_WarningsAcknowledgedAndReset :
    (∀ kind ∈ [kindAcknowledge, kindResetWarnings], ∀ (seat arg : Word) (lift : Option Seat),
      Ready (withSlot { live with lift := lift } 2 kind seat arg) (inA 2) ⟨kind, seat, arg⟩)
    ∧ (∀ n ∈ [20, 512, 65535], live.layout.seatCount ≤ (word n).toNat)
    ∧ ((live.seat 1).ctx.active = false ∧ (live.seat 19).ctx.active = true ∧ (live.seat 19).ctx.locked = false)
    ∧ ((live.seat 2).ctx.active = true ∧ (live.seat 2).ctx.locked = true) :=
  ⟨fun kind _ seat arg lift => ready_of { live with lift := lift } ⟨rfl, rfl, rfl, rfl, rfl⟩ kind seat arg, by decide +kernel, by decide +kernel, by decide +kernel⟩

/-- `live` with a monitor of seat 0 so. -/
def alarmed (m : Monitor) : State := liveWith { seat0 with monitors := seat0.monitors.set 0 m } seat2 seat19

/-- RAISED becomes NOTED, and the mask is the detail (R76, R77). -/
theorem test_acknowledge : let t := after .acknowledge (withSlot (alarmed { state := .raised, n := 0, ack := false, rep := true }) 2 kindAcknowledge 0 0xFF)
    (t.seat 0).monitors[0] = { state := .noted, n := 0, ack := false, rep := false } ∧ t.readWord 2209 = 1 := by decide +kernel

theorem wit_RestartEstimator :
    (∀ seat : Word, Ready (withSlot live 2 kindRestartEstimator seat 0) (inA 2) ⟨kindRestartEstimator, seat, 0⟩)
    ∧ (∀ n ∈ [20, 512, 65535], live.layout.seatCount ≤ (word n).toNat)
    ∧ ((live.seat 1).ctx.active = false ∧ (live.seat 19).ctx.active = true) :=
  ⟨fun seat => ready_of live live_like kindRestartEstimator seat 0, by decide +kernel, by decide +kernel⟩

theorem wit_ClearLinkCounts : ∀ arg : Word, Ready (withSlot live 2 kindClearLinkCounts 0 arg) (inA 2) ⟨kindClearLinkCounts, 0, arg⟩ :=
  fun arg => ready_of live live_like kindClearLinkCounts 0 arg

/-! Loading -/

/-- The three words spell the record that the part takes from them (R181). -/
theorem spells_seatRecord (w0 w1 w2 : Word) : Spells w0 w1 w2 (seatRecord [w0, w1, w2]) := by
  constructor <;> simp [seatRecord, nth, field]

/-- `live` with these words as the record of seat 1. -/
def recorded (w0 w1 w2 : Word) : State := live.putWords 259 [w0, w1, w2]

/-- A slot for a LOAD SEAT of a seat: of 20; of 1 while a LOAD RANGE from seat 1 is suspended; of 1 with each word of its record
bad; of the locked seat 2; of 1 with a record that names link 2, transmitter 0 or FFFFh, or the carrier of seat 0. -/
theorem wit_LoadSeatRefusals :
    (∀ seat : Word, Ready (withSlot live 2 kindLoadSeat seat 0) (inA 2) ⟨kindLoadSeat, seat, 0⟩) ∧ (inA 2).begun = false
    ∧ (∀ n ∈ [20, 512, 65535], live.layout.seatCount ≤ (word n).toNat) ∧ (1 : Seat).val < live.layout.seatCount
    ∧ (∀ c ∈ [1, 0], (rangeAt c true).kind = .loadRange ∧ (rangeAt c true).cursor ≤ (1 : Seat).val ∧ (1 : Seat).val < (rangeAt c true).stop)
    ∧ (∀ k ∈ [0, 1, 2], { live with badParity := [2 * (259 + k)] }.memoryLaw
        ∧ (∀ j < k, { live with badParity := [2 * (259 + k)] }.wordBad (live.layout.recordAddr 1 + j) = false)
        ∧ { live with badParity := [2 * (259 + k)] }.wordBad (live.layout.recordAddr 1 + k) = true)
    ∧ ((live.seat 2).ctx.locked = true ∧ live.lift ≠ some 2 ∧ (live.seat 1).ctx.locked = false)
    ∧ ((seatRecord [1, 5, 1]).active = true ∧ (live.link (seatRecord [0x0201#16, 5, 1]).link).enabled = false
      ∧ (live.link (seatRecord [1, 5, 1]).link).enabled = true
      ∧ live.carrier (seatRecord [1, 5, 1]).link (seatRecord [1, 5, 1]).channel = some 0) := by
  refine ⟨fun seat => ready_of live live_like kindLoadSeat seat 0, rfl, ?_, ?_, ?_, ?_, ?_, ?_⟩
  all_goals decide +kernel

/-- An order of this kind for seat 1 begun in slot 0, its operands read and then k + 1 words from the addresses `place`, the last
with bad parity. -/
def begunBad (kind : Word) (place : Nat → Nat) (k : Nat) : State :=
  { working begunA with
    reads := ([kind, 1, 0].map fun v => { addr := 2204, value := v, bad := false })
      ++ (List.range (k + 1)).map fun j => { addr := place j, value := 0, bad := j == k } }

theorem begunBad_inHand (kind : Word) (place : Nat → Nat) (k : Nat) : (begunBad kind place k).OrderInHand begunA ⟨kind, 1, 0⟩ := by
  refine ⟨rfl, rfl, rfl, rfl, rfl, ?_, ?_, by decide⟩
  · intro j h
    match j, h with
    | 0, _ | 1, _ | 2, _ => rfl
  · rfl

/-- A bad word of a record, and of a table, that has been read, and one that is still to be read, with the order begun. -/
theorem wit_record_and_tables_read :
    (∀ k ∈ [0, 1, 2], let s := begunBad kindLoadSeat (259 + ·) k
      3 + k < s.reads.length ∧ s.reads.length ≤ 6 ∧ s.memoryLaw ∧ s.layoutSound
        ∧ (∀ j < k, (s.orderRead begunA (3 + j) (s.layout.recordAddr 1 + j)).bad = false)
        ∧ (s.orderRead begunA (3 + k) (s.layout.recordAddr 1 + k)).bad = true)
    ∧ (∀ k ∈ [0, 135], let s := begunBad kindReloadClasses live.layout.tableAddr k
      3 + k < s.reads.length ∧ s.reads.length ≤ 139
        ∧ (∀ j < k, (s.orderRead begunA (3 + j) (s.layout.tableAddr j)).bad = false)
        ∧ (s.orderRead begunA (3 + k) (s.layout.tableAddr k)).bad = true)
    ∧ (let s := { begunWith [kindLoadSeat, 1, 0, 0] with badParity := [2 * 260] }
       s.memoryLaw ∧ s.reads.length ≤ 4 ∧ (s.orderRead begunA 3 (s.layout.recordAddr 1)).bad = false
        ∧ (s.orderRead begunA 4 (s.layout.recordAddr 1 + 1)).bad = true) :=
  ⟨by decide +kernel, by decide +kernel, by decide +kernel⟩

theorem wit_LoadSeatLoads :
    (Ready (withSlot live 2 kindLoadSeat 1 0) (inA 2) ⟨kindLoadSeat, 1, 0⟩ ∧ (withSlot live 2 kindLoadSeat 1 0).downlinkLaw
      ∧ (withSlot live 2 kindLoadSeat 1 0).rosterLaw ∧ (1 : Word) = seatWord 1 ∧ (withSlot live 2 kindLoadSeat 1 0).rangeBusy 1 = false
      ∧ (live.seat 1).ctx.locked = false)
    ∧ (Ready (withSlot { live with lift := some 2 } 2 kindLoadSeat 2 0) (inA 2) ⟨kindLoadSeat, 2, 0⟩ ∧ (live.seat 2).ctx.locked = true)
    ∧ (∀ k < 3, (live.orderRead (inA 2) (3 + k) (live.layout.recordAddr 1 + k)).bad = false
        ∧ (live.orderRead (inA 2) (3 + k) (live.layout.recordAddr 1 + k)).value = 0)
    ∧ (seatRecord [0, 0, 0]).active = false
    ∧ (∀ k < 3, ((recorded 1 63 0xFFFE#16).orderRead (inA 2) (3 + k) (live.layout.recordAddr 1 + k)).bad = false)
    ∧ ((recorded 1 62 0xFFFE#16).readWord 259 = 1 ∧ (recorded 1 62 0xFFFE#16).readWord 260 = 62 ∧ (recorded 1 62 0xFFFE#16).readWord 261 = 0xFFFE#16)
    ∧ ((seatRecord [1, 62, 0xFFFE#16]).active = true ∧ (live.link (seatRecord [1, 62, 0xFFFE#16]).link).enabled = true
      ∧ live.carrier (seatRecord [1, 62, 0xFFFE#16]).link (seatRecord [1, 62, 0xFFFE#16]).channel = none) := by
  refine ⟨⟨ready_of live live_like kindLoadSeat 1 0, live_downlinkLaw, live_rosterLaw, ?_, ?_, ?_⟩,
    ⟨ready_of { live with lift := some 2 } ⟨rfl, rfl, rfl, rfl, rfl⟩ kindLoadSeat 2 0, ?_⟩, ?_, ?_, ?_, ?_, ?_⟩
  all_goals decide +kernel

/-- An active record is taken with its carrier, and its command queued (R11, R12). -/
theorem test_load_seat : let t := after .loadSeat (withSlot (recorded 1 62 0xFFFE#16) 2 kindLoadSeat 1 0)
    t.readWord 2207 = 0 ∧ t.carrier 0 62 = some 1 ∧ (t.link 0).queue = [0, 1] := by decide +kernel

/-- A carrier in use refuses the record (R7). -/
theorem test_load_seat_carrier_taken : (after .loadSeat (withSlot (recorded 1 5 9) 2 kindLoadSeat 1 0)).readWord 2207 = 0x18 := by
  decide +kernel

theorem wit_BulkOrdersStart :
    (∀ seat arg : Word, Ready (withSlot live 2 kindLoadRange seat arg) (inA 2) ⟨kindLoadRange, seat, arg⟩) ∧ live.suspended = none
    ∧ (∀ arg : Word, Ready (withSlot live 2 kindAcknowledgeAll 0 arg) (inA 2) ⟨kindAcknowledgeAll, 0, arg⟩)
    ∧ Ready (withSlot (suspendedB .taken (inA 2)) 2 kindLoadRange 0 1) (inA 2) ⟨kindLoadRange, 0, 1⟩ ∧ (suspendedB .taken (inA 2)).suspended.isSome
    ∧ (∀ p ∈ [(0, 1), (0, 20), (19, 1)], 1 ≤ (word p.2).toNat ∧ (word p.2).toNat ≤ 255 ∧ (word p.1).toNat + (word p.2).toNat ≤ live.layout.seatCount)
    ∧ (∀ p ∈ [(0, 0), (0, 256), (0, 21), (19, 2)], ¬ (1 ≤ (word p.2).toNat ∧ (word p.2).toNat ≤ 255
        ∧ (word p.1).toNat + (word p.2).toNat ≤ live.layout.seatCount)) :=
  ⟨fun seat arg => ready_of live live_like kindLoadRange seat arg, rfl, fun arg => ready_of live live_like kindAcknowledgeAll 0 arg,
    ready_of (suspendedB .taken (inA 2)) ⟨rfl, rfl, rfl, rfl, rfl⟩ kindLoadRange 0 1, rfl, by decide +kernel, by decide +kernel⟩

/-- An ACKNOWLEDGE ALL at its first slice. -/
def ackAt : Bulk := { rangeAt 0 false with kind := .ackAll 0xFF#8 }

/-- At a boundary that finds STOPPING, ABORTING or page B posted; before a slice that is not the last, and within the last one;
and with none and all of the words of a record read. -/
theorem wit_BulkSliceHandlesSeats :
    (∀ p ∈ [(PartState.stopping, PageState.taken, rangeAt 16 true), (.running, .aborting, rangeAt 16 true), (.running, .taken, rangeAt 16 true),
        (.running, .taken, rangeAt 0 false), (.running, .taken, { rangeAt 17 false with firstBad := some .locked, second := 1 }),
        (.running, .taken, { rangeAt 16 true with suspendedMark := true }), (.running, .taken, ackAt)],
      pageLawHolds (slicing p.1 p.2.1 p.2.2) = true ∧ (slicing p.1 p.2.1 p.2.2).memoryLaw ∧ (slicing p.1 p.2.1 p.2.2).worked = some (bulky p.2.2)
        ∧ (bulky p.2.2).bulk = some p.2.2 ∧ (slicing p.1 p.2.1 p.2.2).lift = none)
    ∧ (∀ part x b, (slicing part x b).layoutLaw ∧ (slicing part x b).reads = [])
    ∧ (pageLawHolds (inSlice 14 3) = true ∧ (inSlice 14 3).reads.length = 3 ∧ (inSlice 14 3).layout = live.layout)
    ∧ (live.pageState .b = .posted ∧ (rangeAt 16 true).suspendedMark = false ∧ (slicing .running .taken (rangeAt 16 true)).suspended = none)
    ∧ ((rangeAt 0 false).sliceEnd < (rangeAt 0 false).stop ∧ (rangeAt 17 false).stop ≤ (rangeAt 17 false).sliceEnd) :=
  ⟨by decide +kernel, fun _ _ _ => ⟨layoutLaw_of rfl rfl, rfl⟩, by decide +kernel, by decide +kernel, by decide +kernel⟩

/-- A first slice of 16 seats, of which the locked seat 2 is skipped (R14, R149). -/
theorem test_slice : let t := after .bulkSlice (slicing .running .taken (rangeAt 0 false))
    (t.worked.bind PageWork.bulk).map Bulk.cursor = some 16 ∧ (t.worked.bind PageWork.bulk).map Bulk.second = some 1 := by decide +kernel

/-- A slice carried on from its seat 14, whose record the three words already read spell (R6, R17, R181). -/
theorem test_slice_goes_on :
    let t := after .bulkSlice (withReads (slicing .running .taken (rangeAt 14 false)) [1, 62, 0xFFFE#16])
    t.carrier 0 62 = some 14 ∧ (t.worked.bind PageWork.bulk).map Bulk.handled = some 2 := by decide +kernel

theorem wit_ReloadReplacesStores :
    Ready (withSlot live 2 kindReloadClasses 0 0) (inA 2) ⟨kindReloadClasses, 0, 0⟩
    ∧ (∀ k < 136, (live.orderRead (inA 2) (3 + k) (live.layout.tableAddr k)).bad = false)
    ∧ (∀ k ∈ [0, 63, 64, 135], { live with badParity := [2 * live.layout.tableAddr k] }.memoryLaw
        ∧ { live with badParity := [2 * live.layout.tableAddr k] }.wordBad (live.layout.tableAddr k) = true
        ∧ ∀ j < k, { live with badParity := [2 * live.layout.tableAddr k] }.wordBad (live.layout.tableAddr j) = false) :=
  ⟨ready_of live live_like kindReloadClasses 0 0, by decide +kernel, by decide +kernel⟩

/-! Starting -/

/-- What the statements ask of two regions, from the order of their ends. -/
theorem regionsApart_of {s : State} (h : s.dirRegions.Pairwise fun r r' => r.1 + r.2 ≤ r'.1 ∨ r'.1 + r'.2 ≤ r.1) : s.regionsApart := by
  intro p q r r' hpq hp hq x
  obtain ⟨hp', rfl⟩ := List.getElem?_eq_some_iff.1 hp
  obtain ⟨hq', rfl⟩ := List.getElem?_eq_some_iff.1 hq
  have := List.pairwise_iff_getElem.1 h p q hp' hq' hpq
  omega

/-- What a directory is for a start, as a check of its words. -/
def directoryHolds (s : State) : Bool :=
  1 ≤ (s.dirWord 0).toNat && (s.dirWord 0).toNat ≤ 512 && 16 ≤ (s.dirWord 7).toNat && (s.dirWord 7).toNat ≤ 512
    && s.dirRegions.all (fun r => r.1 + r.2 ≤ 16384)
    && decide (s.dirRegions.Pairwise fun r r' => r.1 + r.2 ≤ r'.1 ∨ r'.1 + r'.2 ≤ r.1) && (s.dirWord 12).getLsbD 15

theorem directoryFits_of {s : State} (h : directoryHolds s = true) : s.directoryFits := by
  simp only [directoryHolds, Bool.and_eq_true, decide_eq_true_eq, List.all_eq_true] at h
  obtain ⟨⟨⟨⟨⟨⟨h1, h2⟩, h3⟩, h4⟩, h5⟩, h6⟩, h7⟩ := h
  exact ⟨⟨h1, h2⟩, ⟨h3, h4⟩, h5, regionsApart_of h6, 0, h7⟩

/-- A directory that passes, with one bad word. -/
def checkingBad (a : Nat) : State := { checkingWith [] with badParity := [2 * a] }

/-- The words that a start reads, in their order, in the directory of `checkingWith`. -/
def startAddrs : List Nat := directoryAddrs ++ [2200, 2396] ++ (List.range 64).map (2000 + ·) ++ (List.range 72).map (2100 + ·)

/-- CHECKING with the first n words read, those of `bad` with bad parity, and the RAM changed since. -/
def checkingRead (n : Nat) (bad : List Nat) (changes : List (Nat × Word)) : State :=
  { checkingWith changes with reads := (startAddrs.take n).map fun a => { (checkingWith []).look a with bad := bad.contains a } }

/-- Directories that each check refuses at an end of its range, and one that passes; bad words that stand in the RAM (R173). -/
theorem wit_FailedStarts :
    ((checkingWith []).part = .checking ∧ (checkingWith []).reads = [] ∧ (∀ a ∈ directoryAddrs, ((checkingWith []).dirRead a).bad = false))
    ∧ (∀ n ∈ [0, 513], ¬ (checkingWith [(0, word n)]).countFits)
    ∧ (∀ n ∈ [15, 513], (checkingWith [(7, word n)]).countFits ∧ ¬ (checkingWith [(7, word n)]).capacityFits)
    ∧ ((checkingWith [(6, 15993)]).countFits ∧ (checkingWith [(6, 15993)]).capacityFits ∧ ¬ (checkingWith [(6, 15993)]).regionsFit)
    ∧ ((checkingWith [(6, 15992)]).regionsFit ∧ (checkingWith [(1, 255)]).regionsFit ∧ ¬ (checkingWith [(1, 255)]).regionsApart)
    ∧ ((checkingWith [(12, 0x7FFF#16)]).regionsApart ∧ ¬ (checkingWith [(12, 0x7FFF#16)]).someLink)
    ∧ (∀ n ∈ [2, 3, 5], (checkingWith [(2396, word n)]).directoryFits ∧ ¬ startable ((checkingWith [(2396, word n)]).pageRead .b).value
        ∧ (checkingWith [(2396, word n)]).dirPageWord .b = 2396
        ∧ (∀ r ∈ (checkingWith [(2396, word n)]).reads, r.bad = false)
        ∧ (∀ p, ((checkingWith [(2396, word n)]).pageRead p).bad = false))
    ∧ (∀ a ∈ [2200, 2396, 2000, 2063, 2100, 2171], (checkingBad a).directoryFits ∧ (checkingBad a).wordBad a = true
        ∧ (∀ b ∈ directoryAddrs ++ [2200, 2396, 2000, 2063, 2100, 2171], b ≠ a → (checkingBad a).wordBad b = false)
        ∧ startable ((checkingBad a).readWord 2200) ∧ startable ((checkingBad a).readWord 2396))
    ∧ ((checkingWith []).dirPageWord .a = 2200 ∧ (checkingWith []).dirPageWord .b = 2396
        ∧ [0, 63, 64, 135].map (checkingWith []).dirTableWord = [2000, 2063, 2100, 2171])
    ∧ (∀ k ∈ [0, 63, 64, 135], ∀ j < k, (checkingBad ((checkingWith []).dirTableWord k)).wordBad ((checkingWith []).dirTableWord j) = false)
    ∧ (directoryAddrs = [] ++ 0 :: directoryAddrs.drop 1 ∧ directoryAddrs = directoryAddrs.take 26 ++ 27 :: []
        ∧ { checkingWith [] with badParity := [54] }.wordBad 27 = true) := by
  have fits : ∀ s : State, s.countFits ↔ (1 ≤ (s.dirWord 0).toNat ∧ (s.dirWord 0).toNat ≤ 512) := fun _ => Iff.rfl
  have caps : ∀ s : State, s.capacityFits ↔ (16 ≤ (s.dirWord 7).toNat ∧ (s.dirWord 7).toNat ≤ 512) := fun _ => Iff.rfl
  have regs : ∀ s : State, s.regionsFit ↔ ∀ r ∈ s.dirRegions, r.1 + r.2 ≤ 16384 := fun _ => Iff.rfl
  have some' : ∀ s : State, s.someLink ↔ ∃ l : LinkId, (s.dirWord (12 + 2 * l.val)).getLsbD 15 = true := fun _ => Iff.rfl
  have starts : ∀ w : Word, startable w ↔ (w = 0 ∨ w = 1 ∨ w = 4) := fun _ => Iff.rfl
  refine ⟨by decide +kernel, ?_, ?_, ?_, ⟨?_, ?_, ?_⟩, ⟨?_, ?_⟩, ?_, ?_, by decide +kernel, by decide +kernel, by decide +kernel⟩
  · simp only [fits]; decide +kernel
  · simp only [fits, caps]; decide +kernel
  · simp only [fits, caps, regs]; decide +kernel
  · simp only [regs]; decide +kernel
  · simp only [regs]; decide +kernel
  · intro h
    exact h 0 1 (0, 256) (255, 60) (by decide) (by decide +kernel) (by decide +kernel) 255 (by decide)
  · exact regionsApart_of (by decide +kernel)
  · simp only [some']; decide +kernel
  · intro n h
    have h' : ∀ n ∈ [2, 3, 5], directoryHolds (checkingWith [(2396, word n)]) = true
        ∧ ¬ (((checkingWith [(2396, word n)]).pageRead .b).value = 0 ∨ ((checkingWith [(2396, word n)]).pageRead .b).value = 1
          ∨ ((checkingWith [(2396, word n)]).pageRead .b).value = 4) ∧ (checkingWith [(2396, word n)]).dirPageWord .b = 2396
        ∧ ((checkingWith [(2396, word n)]).pageRead .a).bad = false ∧ ((checkingWith [(2396, word n)]).pageRead .b).bad = false
        ∧ ∀ r ∈ (checkingWith [(2396, word n)]).reads, r.bad = false := by decide +kernel
    exact ⟨directoryFits_of (h' n h).1, (h' n h).2.1, (h' n h).2.2.1, (h' n h).2.2.2.2.2,
      fun | .a => (h' n h).2.2.2.1 | .b => (h' n h).2.2.2.2.1⟩
  · intro a h
    have h' : ∀ a ∈ [2200, 2396, 2000, 2063, 2100, 2171], (checkingBad a).wordBad a = true
        ∧ (∀ b ∈ directoryAddrs ++ [2200, 2396, 2000, 2063, 2100, 2171], b ≠ a → (checkingBad a).wordBad b = false)
        ∧ (checkingBad a).readWord 2200 = 0 ∧ (checkingBad a).readWord 2396 = 0 ∧ directoryHolds (checkingBad a) = true := by
      decide +kernel
    exact ⟨directoryFits_of (h' a h).2.2.2.2, (h' a h).1, (h' a h).2.1, .inl (h' a h).2.2.1, .inl (h' a h).2.2.2.1⟩

/-- The same while a reading is in progress: words that the host has changed after their read leave the directory as it was
read; a bad word that has been read, of the directory, a page's state or a table; and one that is still to be read (R173). -/
theorem wit_FailedStarts_reading :
    (∀ n ∈ [8, 27, 28, 29, 165], let s := checkingRead n [] [(0, 513), (7, 0)]
      s.part = .checking ∧ s.reads.length = n ∧ directoryHolds s = true ∧ ∀ r ∈ s.reads, r.bad = false)
    ∧ ¬ (checkingRead 7 [] [(7, 0)]).capacityFits
    ∧ (let s := checkingRead 28 [2200] []
       directoryHolds s = true ∧ (s.pageRead .a).bad = true ∧ 27 < s.reads.length)
    ∧ (let s := checkingRead 29 [2396] []
       directoryHolds s = true ∧ (s.pageRead .a).bad = false ∧ (s.pageRead .b).bad = true ∧ 28 < s.reads.length)
    ∧ (∀ k ∈ [0, 135], let s := checkingRead (30 + k) [(checkingWith []).dirTableWord k] []
       directoryHolds s = true ∧ (s.tableRead k).bad = true ∧ (∀ j < k, (s.tableRead j).bad = false) ∧ 29 + k < s.reads.length)
    ∧ (let s := checkingRead 6 [5] []
       (s.dirRead 5).bad = true ∧ 5 < s.reads.length ∧ ∀ x ∈ directoryAddrs.take 5, (s.dirRead x).bad = false)
    ∧ (let s := { checkingRead 6 [] [] with badParity := [20] }
       (s.dirRead 10).bad = true ∧ s.reads.length ≤ 10 ∧ ∀ x ∈ directoryAddrs.take 10, (s.dirRead x).bad = false) := by
  have caps : ∀ s : State, s.capacityFits ↔ (16 ≤ (s.dirWord 7).toNat ∧ (s.dirWord 7).toNat ≤ 512) := fun _ => Iff.rfl
  refine ⟨by decide +kernel, ?_, by decide +kernel, by decide +kernel, by decide +kernel, by decide +kernel, by decide +kernel⟩
  rw [caps]
  decide +kernel

/-- A start of the directory on a part with seats loaded in the run before, page B posted, and seats beyond the count. -/
def restarting (count : Word) : State :=
  { live with part := .checking, ram := (checkingWith [(0, count), (2396, 1)]).ram, pageB := .free, posting := [], links := State.reset.links }

/-- No word has been read, or all of them, with the host's changes after that. -/
def restartRead (count : Word) (n : Nat) : State :=
  { restarting count with reads := (startAddrs.take n).map (restarting count).look, ram := ((restarting count).putWords 0 (List.replicate (min n 11) 7)).ram }

theorem wit_SuccessfulStart :
    (∀ c ∈ [1, 20], ∀ n ∈ [0, 165], let s := restartRead (word c) n
      s.part = .checking ∧ directoryHolds s = true ∧ (∀ r ∈ s.reads, r.bad = false)
        ∧ (∀ a ∈ directoryAddrs, (s.dirRead a).bad = false) ∧ (s.pageRead .a).bad = false ∧ (s.pageRead .b).bad = false
        ∧ (s.pageRead .a).value = 0 ∧ (s.pageRead .b).value = 1 ∧ (∀ k < 136, (s.tableRead k).bad = false) ∧ s.memoryLaw)
    ∧ (∀ c n, (restartRead c n).rosterLaw ∧ (restartRead c n).changeListLaw)
    ∧ (startable 0 ∧ startable 1 ∧ startable 4)
    ∧ (∀ s : State, directoryHolds s = true → s.directoryFits) :=
  ⟨by decide +kernel, fun _ _ => ⟨live_rosterLaw, live_changeListLaw⟩, ⟨.inl rfl, .inr (.inl rfl), .inr (.inr rfl)⟩,
    fun _ => directoryFits_of⟩

/-- A seat count of 513 ends CHECKING with its code, and the link setup is taken all the same (R24, R173, R174). -/
theorem test_failed_start : let t := after .checkingEnd (checkingWith [(0, 513)])
    t.part = .halted ∧ t.startResult = .seatCount ∧ (t.link 0).enabled = true ∧ (t.link 0).timeout = 60 ∧ t.causeSet .started = true := by
  decide +kernel

end Sys2Proof.Tests
end

section
/-! PROOFS. What counting on a link and clearing its counts leave, said once (R27, R30 to R32). -/

namespace Sys2Proof.Machine

variable {s t u : State}

/-! The fields that the statistics change -/

/-- Every field that the statistics leave alone is as it was. -/
theorem eq_of_erase_count (h : erase (fun f => decide (f ∈ fCount)) t = erase (fun f => decide (f ∈ fCount)) s) :
    t = { s with links := t.links, ram := t.ram, badParity := t.badParity } := by
  obtain ⟨⟩ := s
  obtain ⟨⟩ := t
  simpa [erase] using h

theorem opens_fCount : Opens (fun f => decide (f ∈ fCount)) fCount := by simp [Opens]

@[simp] theorem link_putWords (ws : List Word) (s : State) (a : Nat) (l : LinkId) : (s.putWords a ws).link l = s.link l := by
  rw [putWords_frame]; rfl

/-! The link summary word (R31, R180) -/

@[simp] theorem link_writeLinkSummary (l : LinkId) : s.writeLinkSummary.link l = s.link l := rfl

theorem readWord_writeLinkSummary_other {a : Nat} (h : Memory.wf s.ram) (ha : a ≠ 36) :
    s.writeLinkSummary.readWord a = s.readWord a := by
  rw [State.writeLinkSummary, readWord_putWord h, if_neg fun e => ha e.1]

theorem wordBad_writeLinkSummary_other {a : Nat} (ha : a ≠ 36) : s.writeLinkSummary.wordBad a = s.wordBad a := by
  rw [State.writeLinkSummary, wordBad_putWord, if_neg fun e => ha e.1]

theorem summaryShown_writeLinkSummary (h : Memory.wf s.ram) : SummaryShown s.writeLinkSummary :=
  summaryShown_of <| by rw [State.writeLinkSummary, readWord_putWord h, if_pos ⟨rfl, by decide⟩]; rfl

/-- What a state shows of its links' summary depends on word 36 and the links alone. -/
theorem SummaryShown.congr (h : SummaryShown s) (hw : t.readWord 36 = s.readWord 36) (hl : ∀ l, t.link l = s.link l) :
    SummaryShown t := by
  intro l; rw [hw, hl]; exact h l

/-! Counting -/

theorem counted_of_lt {cs : Vector Nat 11} {i : Fin 11} (h : cs[i] < 65535) : counted cs i = cs.set i (cs[i] + 1) := by
  rw [counted, if_pos h]

theorem counted_of_saturated {cs : Vector Nat 11} {i : Fin 11} (h : ¬ cs[i] < 65535) : counted cs i = cs := by
  rw [counted, if_neg h]; exact Vector.set_getElem_self _

theorem hdrCounter_lt (l : LinkId) {i : Nat} (hi : i < 11) : hdrCounter l i < ramWords := by
  simp only [hdrCounter, ramWords]; omega

theorem link_countLink (l m : LinkId) (i : Fin 11) :
    (s.countLink l i).link m = if m = l then { s.link l with counters := counted (s.link l).counters i } else s.link m := by
  unfold State.countLink; dsimp only
  split <;> rename_i hc
  · rw [State.link_putWord, State.link_setLink, counted_of_lt hc]
  · rw [counted_of_saturated hc]; split
    · subst m; rfl
    · rfl

/-- A counter that has not saturated is shown in its header word, and no other word changes (R30). -/
theorem readWord_countLink (h : Memory.wf s.ram) (l : LinkId) (i : Fin 11) (a : Nat) :
    (s.countLink l i).readWord a = if a = 64 + 11 * l.val + i.val ∧ (s.link l).counters[i] < 65535
      then word ((s.link l).counters[i] + 1) else s.readWord a := by
  unfold State.countLink; dsimp only
  split <;> rename_i hc
  · refine (readWord_putWord (by exact h)).trans ?_
    simp only [hc, hdrCounter_lt l i.isLt, and_true]; rfl
  · rw [if_neg fun e => hc e.2]

theorem wordBad_countLink_other {l : LinkId} {i : Fin 11} {a : Nat}
    (ha : ¬ (a = 64 + 11 * l.val + i.val ∧ (s.link l).counters[i] < 65535)) : (s.countLink l i).wordBad a = s.wordBad a := by
  unfold State.countLink; dsimp only
  split <;> rename_i hc
  · rw [wordBad_putWord, if_neg fun e => ha ⟨e.1, hc⟩]; rfl
  · rfl

/-- The summary word is written where ERRORS-SEEN was clear (R31). -/
theorem countDiscard_eq (l : LinkId) (i : Fin 11) :
    s.countDiscard l i = if (s.link l).errorsSeen then s.countLink l i
      else ((s.countLink l i).setLink l { (s.countLink l i).link l with errorsSeen := true }).writeLinkSummary := by
  have : ((s.countLink l i).link l).errorsSeen = (s.link l).errorsSeen := by rw [link_countLink, if_pos rfl]
  simp only [State.countDiscard, this]

/-- What counting a discard leaves on the links: one more under its cause, and ERRORS-SEEN (R27, R31). -/
theorem link_countDiscard (l m : LinkId) (i : Fin 11) :
    (s.countDiscard l i).link m =
      if m = l then { s.link l with counters := counted (s.link l).counters i, errorsSeen := true } else s.link m := by
  rw [countDiscard_eq]
  split
  next he => rw [link_countLink, ← he]
  next he =>
    rw [link_writeLinkSummary, State.link_setLink, link_countLink, link_countLink, if_pos rfl]
    split <;> rfl

/-- A discard's count and the summary word are all that it shows in the header (R30, R31). -/
theorem countShown_countDiscard (h : s.memoryLaw) (l : LinkId) (i : Fin 11) :
    CountShown s (s.countDiscard l i) l i ((s.link l).errorsSeen = false) := by
  have hc : Memory.wf (s.countLink l i).ram := ((flows_countLink l i).memory h).1
  have hi : 64 + 11 * l.val + i.val ≠ 36 := by omega
  rw [countDiscard_eq]
  cases he : (s.link l).errorsSeen with
  | true =>
    refine ⟨fun hlt => ?_, fun hf => absurd hf (by decide), fun a ha => ?_⟩
    · rw [if_pos rfl, readWord_countLink h.1, if_pos ⟨rfl, hlt⟩]
    · rw [if_pos rfl, readWord_countLink h.1, if_neg fun e => ha (.inl e)]
      exact ⟨rfl, wordBad_countLink_other fun e => ha (.inl e)⟩
  | false =>
    rw [if_neg (by decide)]
    generalize hx : { (s.countLink l i).link l with errorsSeen := true } = x
    have hw : Memory.wf ((s.countLink l i).setLink l x).ram := hc
    refine ⟨fun hlt => ?_, fun _ => summaryShown_writeLinkSummary hw, fun a ha => ?_⟩
    · rw [readWord_writeLinkSummary_other hw hi]
      exact (readWord_countLink h.1 l i _).trans (if_pos ⟨rfl, hlt⟩)
    · have h36 : a ≠ 36 := fun e => ha (.inr ⟨e, rfl⟩)
      rw [readWord_writeLinkSummary_other hw h36, wordBad_writeLinkSummary_other h36]
      exact ⟨(readWord_countLink h.1 l i a).trans (if_neg fun e => ha (.inl e)), wordBad_countLink_other fun e => ha (.inl e)⟩

/-! A gap (R26, R27) -/

/-- The command ends the run where the link receives. -/
theorem exec_gap (l : LinkId) (s : State) : exec (.gap l) s = .next (if s.receives l then s.gapOn l else s) := rfl

theorem receives_iff {l : LinkId} : s.receives l = true ↔ s.part = .running ∧ (s.link l).enabled = true := by
  simp [State.receives]

theorem gapOn_sync {l : LinkId} (h : (s.link l).assembler = .sync) :
    s.gapOn l = s.setLink l { s.link l with assembler := .idle } := by simp [State.gapOn, h]

theorem gapOn_idle {l : LinkId} (h : (s.link l).assembler = .idle) : s.gapOn l = s := by simp [State.gapOn, h]

theorem gapOn_run {l : LinkId} (h : (s.link l).assembler = .collecting ∨ (s.link l).assembler = .overflow) :
    s.gapOn l = s.endRun l := by
  unfold State.gapOn
  rcases h with h | h <;> rw [h]

/-- The link with its run dropped and its assembler in IDLE. -/
def State.dropRun (s : State) (l : LinkId) : State := s.setLink l { s.link l with assembler := .idle, run := emptyRun }

theorem link_dropRun (l m : LinkId) :
    (s.dropRun l).link m = if m = l then { s.link l with assembler := .idle, run := emptyRun } else s.link m :=
  State.link_setLink ..

theorem endRun_discards {l : LinkId} {i : Fin 11} (h : discardCause (s.link l).slot.isSome (s.link l).run = some i) :
    s.endRun l = (s.dropRun l).countDiscard l i := by
  simp only [State.endRun, h]; rfl

theorem endRun_takes {l : LinkId} (h : discardCause (s.link l).slot.isSome (s.link l).run = none) :
    s.endRun l = (s.dropRun l).goodFrame l (s.link l).run := by
  simp only [State.endRun, h]; rfl

/-- A gap discards the run of a link under the cause i, and this is all that it changes (R27, R30, R31). -/
def GapDiscards (s : State) (l : LinkId) (i : Fin 11) : Prop :=
  ∃ t, exec (.gap l) s = .next t
    ∧ t.link l = { s.link l with
        assembler := .idle, run := emptyRun, counters := counted (s.link l).counters i, errorsSeen := true }
    ∧ linksKept s t (· = l) ∧ CountShown s t l i ((s.link l).errorsSeen = false)
    ∧ t = { s with links := t.links, ram := t.ram, badParity := t.badParity }

/-- The first cause that holds of a run discards it. -/
theorem gapDiscards_of_cause {l : LinkId} {i : Fin 11} (hm : s.memoryLaw) (he : exec (.gap l) s = .next (s.endRun l))
    (h : discardCause (s.link l).slot.isSome (s.link l).run = some i) : GapDiscards s l i := by
  have hl : (s.dropRun l).link l = { s.link l with assembler := .idle, run := emptyRun } := by rw [link_dropRun, if_pos rfl]
  refine ⟨(s.dropRun l).countDiscard l i, he.trans (by rw [endRun_discards h]), ?_, fun m hne => ?_, ?_, ?_⟩
  · rw [link_countDiscard, if_pos rfl, hl]
  · rw [link_countDiscard, if_neg hne, link_dropRun, if_neg hne]
  · obtain ⟨hcount, hshown, hkept⟩ := countShown_countDiscard (s := s.dropRun l) hm l i
    rw [hl] at hcount hshown hkept
    exact ⟨hcount, hshown, hkept⟩
  · exact eq_of_erase_count ((erase_countDiscard opens_fCount).trans (erase_setLink (opens_fCount.mono (by decide))))

/-- A good frame keeps what hearing the link keeps: the empty run, the counters and ERRORS-SEEN (R34). -/
theorem link_linkHeard_statistics (l : LinkId) :
    ((s.linkHeard l).link l).run = (s.link l).run ∧ ((s.linkHeard l).link l).counters = (s.link l).counters
      ∧ ((s.linkHeard l).link l).errorsSeen = (s.link l).errorsSeen := by
  unfold State.linkHeard; dsimp only
  split <;> simp

/-- A run that meets no cause is counted GOOD, and ERRORS-SEEN stays (R27, R28). -/
theorem link_goodFrame_statistics (l : LinkId) (r : Run) :
    ((s.goodFrame l r).link l).run = (s.link l).run
      ∧ ((s.goodFrame l r).link l).counters = counted (s.link l).counters ctrGood
      ∧ ((s.goodFrame l r).link l).errorsSeen = (s.link l).errorsSeen := by
  unfold State.goodFrame; dsimp only
  split
  · obtain ⟨h1, h2, h3⟩ := link_linkHeard_statistics
      (s := (s.countLink l ctrGood).setLink l { (s.countLink l ctrGood).link l with slot := some (reportOf r) }) l
    rw [h1, h2, h3]
    simp [link_countLink]
  · obtain ⟨h1, h2, h3⟩ := link_linkHeard_statistics (s := s.countLink l ctrGood) l
    rw [h1, h2, h3]
    simp [link_countLink]

/-! The causes in the words of R27 -/

/-- The sum of bytes modulo 256 is that of their numbers. -/
theorem byteSum_toNat (bs : List Byte) : (byteSum bs).toNat = (bs.map BitVec.toNat).sum % 256 := by
  have foldl_toNat : ∀ (bs : List Byte) (x : Byte), (bs.foldl (· + ·) x).toNat = (x.toNat + (bs.map BitVec.toNat).sum) % 256 := by
    intro bs
    induction bs with
    | nil => intro x; simp [Nat.mod_eq_of_lt x.isLt]
    | cons b bs ih =>
      intro x
      rw [List.foldl_cons, ih, BitVec.toNat_add, List.map_cons, List.sum_cons]
      omega
  simpa [byteSum] using foldl_toNat bs 0

theorem byteSum_eq_zero_iff (bs : List Byte) : byteSum bs = 0 ↔ (bs.map BitVec.toNat).sum % 256 = 0 := by
  rw [← byteSum_toNat, BitVec.toNat_eq]; rfl

theorem two_le_frameKind_iff (r : Run) : 2 ≤ frameKind r ↔ 128 ≤ (runByte r 1).toNat := by
  simp only [frameKind]; omega

/-- A run of ten sound characters is judged by its lead byte, its check sum and its channel, in this order (R27). -/
theorem discardCause_ten {r : Run} (hs : r.stopMark = false) (hp : r.parityMark = false) (hc : r.count = 10) :
    discardCause false r = if runByte r 0 ≠ 0xC3#8 then some 6
      else if (runData r |>.map BitVec.toNat).sum % 256 ≠ 0 then some 7
      else if 128 ≤ (runByte r 1).toNat then some 8 else none := by
  simp only [discardCause, hs, hp, hc, ne_eq, byteSum_eq_zero_iff, two_le_frameKind_iff]
  rfl

/-- In a link with a free slot, the length of a run without marks is judged before its bytes (R27). -/
theorem discardCause_sound {r : Run} (hs : r.stopMark = false) (hp : r.parityMark = false) :
    (r.count < 10 → discardCause false r = some 4) ∧ (10 < r.count → discardCause false r = some 5) := by
  simp only [discardCause, hs, hp]
  refine ⟨fun h => by simp only [if_pos h]; rfl, fun h => ?_⟩
  simp only [if_neg (show ¬ r.count < 10 by omega), if_pos h]; rfl

/-- Settles O30: the run's end is read off the first cause that holds (`discardCause`), and what a discard leaves is said
once for every cause (`gapDiscards_of_cause`). -/
theorem gapDiscardsBadRuns : Obligations.GapDiscardsBadRuns := by
  unfold Obligations.GapDiscardsBadRuns
  intro s l
  dsimp only
  refine ⟨fun hpart hen hm => ?_, fun hnot => by rw [exec_gap, if_neg fun h => hnot (receives_iff.1 h)]⟩
  have hexec : exec (.gap l) s = .next (s.gapOn l) := by rw [exec_gap, if_pos (receives_iff.2 ⟨hpart, hen⟩)]
  refine ⟨fun ha => ?_, fun ha => by rw [hexec, gapOn_idle ha], fun ha => ?_⟩
  · exact ⟨_, hexec.trans (by rw [gapOn_sync ha]), by simp, fun m hne => by simp [show m ≠ l from hne], rfl⟩
  have hend : exec (.gap l) s = .next (s.endRun l) := by rw [hexec, gapOn_run ha]
  have discarded : ∀ {i : Fin 11}, discardCause (s.link l).slot.isSome (s.link l).run = some i → GapDiscards s l i :=
    gapDiscards_of_cause hm hend
  refine ⟨fun hslot => discarded (by rw [hslot]; rfl), fun hslot hs => discarded ?framing,
    fun hslot hs hp => discarded ?parity, fun hslot hs hp => ?_⟩
  case framing => simp only [discardCause, hslot, hs]; rfl
  case parity => simp only [discardCause, hslot, hs, hp]; rfl
  rw [hslot] at discarded
  have hten := discardCause_ten (r := (s.link l).run) hs hp
  refine ⟨fun hc => discarded ((discardCause_sound hs hp).1 hc), fun hc => discarded ((discardCause_sound hs hp).2 hc),
    fun hc hlead => discarded ((hten hc).trans (if_pos hlead)), fun hc hlead => ?_⟩
  rw [if_neg (not_not.2 hlead)] at hten
  refine ⟨fun hsum => discarded ((hten hc).trans (if_pos hsum)), fun hsum => ?_⟩
  rw [if_neg (not_not.2 hsum)] at hten
  refine ⟨fun hch => discarded ((hten hc).trans (if_pos hch)), fun hch => ?_⟩
  have hgood : discardCause (s.link l).slot.isSome (s.link l).run = none := by
    rw [hslot]; exact (hten hc).trans (if_neg (by omega))
  obtain ⟨hrun, hcounters, herrors⟩ := link_goodFrame_statistics (s := s.dropRun l) l (s.link l).run
  rw [link_dropRun, if_pos rfl] at hrun hcounters herrors
  exact ⟨_, hend.trans (by rw [endRun_takes hgood]), hrun, hcounters, herrors⟩

/-! Clearing the counts (R32) -/

/-- `t` is `s` with the counts of the links that `named` names cleared, and their eleven words with them (R32). -/
structure CountsCleared (named : LinkId → Prop) (s t : State) : Prop where
  cleared : ∀ l, named l → t.link l = { s.link l with counters := Vector.replicate 11 0, errorsSeen := false }
  others : linksKept s t named
  zero : ∀ l, named l → ∀ k, k < 11 → t.readWord (64 + 11 * l.val + k) = 0
  kept : wordsKept s t fun a => ∃ l : LinkId, named l ∧ 64 + 11 * l.val ≤ a ∧ a < 64 + 11 * l.val + 11

theorem CountsCleared.refl {named : LinkId → Prop} (h : ∀ l, ¬ named l) (s : State) : CountsCleared named s s :=
  ⟨fun l hl => absurd hl (h l), fun _ _ => rfl, fun l hl => absurd hl (h l), fun _ _ => ⟨rfl, rfl⟩⟩

/-- Clearing the counts of some links and then of others clears those of both. -/
theorem CountsCleared.trans {p q : LinkId → Prop} (h1 : CountsCleared p s t) (h2 : CountsCleared q t u) :
    CountsCleared (fun l => p l ∨ q l) s u := by
  refine ⟨fun l hl => ?_, fun l hl => ?_, fun l hl k hk => ?_, fun a ha => ?_⟩
  · by_cases hq : q l
    · rw [h2.cleared l hq]
      by_cases hp : p l
      · rw [h1.cleared l hp]
      · rw [h1.others l hp]
    · rw [h2.others l hq, h1.cleared l (hl.resolve_right hq)]
  · rw [h2.others l fun h => hl (.inr h), h1.others l fun h => hl (.inl h)]
  · by_cases hq : q l
    · exact h2.zero l hq k hk
    · rw [(h2.kept _ _).1, h1.zero l (hl.resolve_right hq) k hk]
      rintro ⟨m, hm, hlo, hhi⟩
      obtain rfl : l = m := Fin.ext (by omega)
      exact hq hm
  · have k2 := h2.kept a fun ⟨l, hl, h⟩ => ha ⟨l, .inr hl, h⟩
    have k1 := h1.kept a fun ⟨l, hl, h⟩ => ha ⟨l, .inl hl, h⟩
    exact ⟨k2.1.trans k1.1, k2.2.trans k1.2⟩

/-- One link's counts are cleared. -/
theorem countsCleared_clearLinkCounts (h : Memory.wf s.ram) (l : LinkId) : CountsCleared (· = l) s (s.clearLinkCounts l) := by
  have hroom : hdrCounter l 0 + (List.replicate 11 (0 : Word)).length ≤ ramWords := by
    simp only [hdrCounter, List.length_replicate, ramWords]; omega
  refine ⟨?_, fun m hm => ?_, ?_, fun a ha => ?_⟩
  · rintro m rfl
    rw [State.clearLinkCounts, link_putWords, State.link_setLink, if_pos rfl]
  · rw [State.clearLinkCounts, link_putWords, State.link_setLink, if_neg hm]
  · rintro m rfl k hk
    refine (readWord_putWords _ (by exact h) hroom).trans ?_
    rw [dif_pos (by simp only [hdrCounter, List.length_replicate]; omega), List.getElem_replicate]
  · have ho : a < hdrCounter l 0 ∨ hdrCounter l 0 + (List.replicate 11 (0 : Word)).length ≤ a := by
      by_contra hc
      exact ha ⟨l, rfl, by simp only [hdrCounter, List.length_replicate] at hc; omega⟩
    exact ⟨readWord_putWords_other _ (by exact h) ho, wordBad_putWords_other _ ho⟩

theorem wf_clearLinkCounts (h : Memory.wf s.ram) (l : LinkId) : Memory.wf (s.clearLinkCounts l).ram := wf_putWords _ h

/-- The counts of the links that a list names are cleared, one link after the other. -/
theorem countsCleared_foldl (ls : List LinkId) {s : State} (h : Memory.wf s.ram) :
    CountsCleared (· ∈ ls) s (ls.foldl State.clearLinkCounts s) ∧ Memory.wf (ls.foldl State.clearLinkCounts s).ram := by
  induction ls generalizing s with
  | nil => exact ⟨CountsCleared.refl (fun _ => List.not_mem_nil) s, h⟩
  | cons m ls ih =>
    obtain ⟨hrest, hw⟩ := ih (wf_clearLinkCounts h m)
    rw [List.foldl_cons]
    refine ⟨?_, hw⟩
    simpa only [List.mem_cons] using (countsCleared_clearLinkCounts h m).trans hrest

/-- The links that a mask names. -/
def maskLinks (mask : Byte) : List LinkId := allLinks.filter fun l => mask.getLsbD l.val

theorem mem_maskLinks {mask : Byte} {l : LinkId} : l ∈ maskLinks mask ↔ mask.getLsbD l.val = true := by
  simp [maskLinks]

theorem mask_eq_zero_iff {mask : Byte} : mask = 0 ↔ ¬ ∃ l : LinkId, mask.getLsbD l.val = true := by
  refine ⟨?_, fun h => ?_⟩
  · rintro rfl ⟨l, hl⟩
    simp at hl
  · apply BitVec.eq_of_getLsbD_eq
    intro k hk
    have := fun hb => h ⟨⟨k, hk⟩, hb⟩
    simpa using this

theorem clearMaskedCounts_eq (mask : Byte) (s : State) :
    s.clearMaskedCounts mask =
      if mask = 0 then s else ((maskLinks mask).foldl State.clearLinkCounts s).writeLinkSummary := by
  simp only [State.clearMaskedCounts, maskLinks, List.foldl_filter]

/-- Clearing the counts of the masked links clears them and their words, writes the summary word where the mask names a
link, and leaves every other word as it was (R32). -/
structure MaskCleared (mask : Byte) (s t : State) : Prop where
  cleared : ∀ l : LinkId, mask.getLsbD l.val = true →
    t.link l = { s.link l with counters := Vector.replicate 11 0, errorsSeen := false }
  others : linksKept s t fun l => mask.getLsbD l.val = true
  zero : ∀ l : LinkId, mask.getLsbD l.val = true → ∀ k, k < 11 → t.readWord (64 + 11 * l.val + k) = 0
  shown : (∃ l : LinkId, mask.getLsbD l.val = true) → SummaryShown t
  kept : wordsKept s t fun a => (∃ l : LinkId, mask.getLsbD l.val = true) ∧ a = 36
    ∨ ∃ l : LinkId, mask.getLsbD l.val = true ∧ 64 + 11 * l.val ≤ a ∧ a < 64 + 11 * l.val + 11

theorem maskCleared_clearMaskedCounts (h : Memory.wf s.ram) (mask : Byte) : MaskCleared mask s (s.clearMaskedCounts mask) := by
  rw [clearMaskedCounts_eq]
  split
  next h0 =>
    have hnone : ∀ l : LinkId, ¬ mask.getLsbD l.val = true := fun l hl => mask_eq_zero_iff.1 h0 ⟨l, hl⟩
    exact ⟨fun l hl => absurd hl (hnone l), fun _ _ => rfl, fun l hl => absurd hl (hnone l),
      fun ⟨l, hl⟩ => absurd hl (hnone l), fun _ _ => ⟨rfl, rfl⟩⟩
  next h0 =>
    obtain ⟨⟨hcleared, hothers, hzero, hkept⟩, hw⟩ := countsCleared_foldl (maskLinks mask) h
    simp only [mem_maskLinks] at hcleared hothers hzero hkept
    have hsome : ∃ l : LinkId, mask.getLsbD l.val = true := not_not.1 fun hn => h0 (mask_eq_zero_iff.2 hn)
    refine ⟨hcleared, hothers, fun l hl k hk => ?_, fun _ => summaryShown_writeLinkSummary hw, fun a ha => ?_⟩
    · rw [readWord_writeLinkSummary_other hw (by omega)]
      exact hzero l hl k hk
    · have h36 : a ≠ 36 := fun e => ha (.inl ⟨hsome, e⟩)
      rw [readWord_writeLinkSummary_other hw h36, wordBad_writeLinkSummary_other h36]
      exact hkept a fun e => ha (.inr e)

/-! CLEAR LINK COUNTS (R32) -/

theorem mask_toNat (o : Slot) : o.mask.toNat = o.arg.toNat % 256 := by
  simp [Slot.mask, BitVec.extractLsb'_toNat]

theorem mask_getLsbD (o : Slot) (l : LinkId) : o.mask.getLsbD l.val = o.arg.getLsbD l.val := by
  simp [Slot.mask, l.isLt]

/-- The header lies below the pages of a sound layout. -/
theorem header_below_pages (h : s.layoutSound) (p : Page) : 256 ≤ s.layout.pageBase p := by
  have hall : s.regions.tail.all (apart (0, 256)) = true := (Bool.and_eq_true_iff.1 h.2).1
  have harea : apart (0, 256) (s.layout.pageArea, 392) = true := List.all_eq_true.1 hall _ (by simp [State.regions])
  simp only [apart, Bool.or_eq_true, decide_eq_true_eq] at harea
  cases p <;> simp only [Layout.pageBase] <;> omega

/-- The command clears the masked counts in the state that entering its slot leaves, and answers OK with the mask. -/
theorem exec_clearLinkCounts {w : PageWork} {o : Slot} (h : s.OrderInHand w o) (hk : o.kind = kindClearLinkCounts)
    (he : Entered s (s.enterSlot w) w o) :
    exec .clearLinkCounts s = .next (((s.enterSlot w).clearMaskedCounts o.mask).finishOrder { w with begun := true }
      { code := .ok, a := word o.mask.toNat }) :=
  congrArg Host.Outcome.next (workOrder_inHand h hk he)

/-- Settles O53: the masked counts are cleared in the header, which the answer in the slot leaves alone. -/
theorem clearLinkCounts : Obligations.ClearLinkCounts := by
  unfold Obligations.ClearLinkCounts
  intro s w o h hk hm hl
  simp only [← mask_getLsbD, ← mask_toNat]
  have hbase := header_below_pages hl w.page
  have he : Entered s (s.enterSlot w) w o :=
    enterSlot_simple h hm hl (by rw [hk]; decide) (by rw [hk]; decide)
  have hexec := exec_clearLinkCounts h hk he
  generalize s.enterSlot w = e at he hexec
  have helink : ∀ l, e.link l = s.link l := fun l => by rw [he.frame]; rfl
  obtain ⟨hcleared, hothers, hzero, hshown, hkept⟩ := maskCleared_clearMaskedCounts he.memory.1 o.mask
  have huframe := eq_of_erase_count (erase_clearMaskedCounts (s := e) (m := o.mask) opens_fCount)
  have hum : (e.clearMaskedCounts o.mask).memoryLaw := (flows_clearMaskedCounts o.mask).memory he.memory
  generalize e.clearMaskedCounts o.mask = u at *
  have hlay : u.layout = s.layout := by rw [huframe, he.frame]
  have hprogress : u.readWord (s.layout.progressAddr w.page) = e.readWord (s.layout.progressAddr w.page) :=
    (hkept _ (by
      rw [progressAddr_eq]
      rintro (⟨-, h36⟩ | ⟨l, -, -, hhi⟩) <;> omega)).1
  obtain ⟨hframe, -, -, -, hfinish, -⟩ := finishOrder_spec (u := u) (w := { w with begun := true })
    (e := { code := .ok, a := word o.mask.toNat }) hum (by rw [hlay]; exact pageBase_le hl w.page) (OrderInHand.slot_lt h).2
  have hdone := orderDone_finish (code := .ok) (a := word o.mask.toNat) (b := 0) h hl he hlay hum hprogress
  have hwords := wordsKept_finish (e := { code := .ok, a := word o.mask.toNat }) h hl he hlay hum hkept
  generalize u.finishOrder { w with begun := true } { code := .ok, a := word o.mask.toNat } = t at *
  have htlink : ∀ l, t.link l = u.link l := fun l => by rw [hframe]; rfl
  have hheader : ∀ a < 256, t.readWord a = u.readWord a := fun a ha => (hfinish a (by
    rw [hlay, slotAddr_eq]
    rintro ⟨k, -, -, hk⟩
    have : 256 ≤ s.layout.pageBase ({ w with begun := true } : PageWork).page := hbase
    omega)).1
  refine ⟨t, hexec, hdone, fun l hn => ?_, fun l hn => ?_, fun l hn k hk => ?_, fun hn => ?_, hwords, ?_⟩
  · rw [htlink, hcleared l hn, helink]
  · rw [htlink, hothers l hn, helink]
  · rw [hheader _ (by omega), hzero l hn k hk]
  · exact (hshown hn).congr (hheader 36 (by decide)) htlink
  · rw [hframe, huframe, he.frame]

end Sys2Proof.Machine
end

section
/-! PROOFS. What a step can change, command by command, said once: the fields of the state, and the shares of a seat. -/

namespace Sys2Proof.Machine

variable {k : Fld → Bool} {q : SFld → Bool} {s t : State}

/-! The port's operations -/

theorem erase_holdOff {x : HostAccess} (h : Opens k [.held]) : erase k (s.holdOff x) = erase k s := erase_with_held (h _ (by decide))

theorem erase_serveRead {a : Nat} (h : Opens k (.readData :: fFault)) : erase k (s.serveRead a) = erase k s := by
  unfold State.serveRead
  refine (erase_with_readData (h _ (by decide))).trans ?_
  split
  · exact erase_recordFault (h.mono (by decide))
  · rfl

abbrev fWrite : List Fld := [.pageA, .pageB, .posting, .causes, .faultLatch, .takenCount, .ram, .badParity, .seats, .changeList,
  .writePos, .fillCount, .owedCount]

theorem erase_deliverTaken {v : Word} (h : Opens k fTaken) : erase k (s.deliverTaken v) = erase k s :=
  (erase_acceptTaken h).trans (erase_putWord (h.mono (by decide)))

theorem erase_guardedWrite {a : Nat} {v : Word} (h : Opens k fWrite) : erase k (s.guardedWrite a v) = erase k s := by
  unfold State.guardedWrite; split
  · exact erase_putWord (h.mono (by decide))
  · exact erase_recordFault (h.mono (by decide))
  · exact erase_judgePageState (h.mono (by decide))
  · exact erase_deliverTaken (h.mono (by decide))

theorem erase_serveWrite {a : Nat} {v : Word} (h : Opens k fWrite) : erase k (s.serveWrite a v) = erase k s := by
  unfold State.serveWrite; split
  · exact erase_guardedWrite h
  · exact erase_putWord (h.mono (by decide))

/-- With the guard off a host write is a plain write, held off in CLEARING (R165, R167). -/
theorem hostWrite_unguarded (h : ¬ (s.part = .running ∨ s.part = .stopping)) (a : BitVec 14) (v : Word) :
    s.hostWrite a v = if s.part = .clearing then s.holdOff (.write a v) else s.putWord a.toNat v := by
  unfold State.hostWrite State.serveWrite
  rw [if_neg h]

theorem erase_hostWrite_unguarded (h : ¬ (s.part = .running ∨ s.part = .stopping)) {a : BitVec 14} {v : Word}
    (hk : Opens k (.held :: fRam)) : erase k (s.hostWrite a v) = erase k s := by
  rw [hostWrite_unguarded h]; split
  · exact erase_holdOff (hk.mono (by decide))
  · exact erase_putWord (hk.mono (by decide))

theorem erase_hostStateWrite {p : Page} {v : Word} (h : Opens k (.held :: fJudge)) : erase k (s.hostStateWrite p v) = erase k s := by
  unfold State.hostStateWrite; split
  · exact erase_judgePageState (h.mono (by decide))
  · exact erase_hostWrite_unguarded (by assumption) (h.mono (by decide))

theorem erase_hostTakenWrite {v : Word} (h : Opens k (.held :: fTaken)) : erase k (s.hostTakenWrite v) = erase k s := by
  unfold State.hostTakenWrite; split
  · exact erase_deliverTaken (h.mono (by decide))
  · exact erase_hostWrite_unguarded (by assumption) (h.mono (by decide))

/-! The end of CLEARING -/

/-- A held access, served while the part is HALTED over a RAM of good parity, reads or writes its word. -/
theorem serveHeld_halted (hp : s.part = .halted) (hb : s.badParity = []) (x : HostAccess) :
    s.serveHeld x = match x with
      | .read a => { s with readData := s.readWord a.toNat }
      | .write a v => s.putWord a.toNat v := by
  cases x with
  | read a => simp [State.serveHeld, State.serveRead, State.wordBad, hb]
  | write a v => simp [State.serveHeld, State.serveWrite, hp]

/-- Serving held accesses changes the words and the data bus alone. -/
theorem foldl_serveHeld_frame (xs : List HostAccess) : ∀ {s : State}, s.part = .halted → s.badParity = [] →
    xs.foldl State.serveHeld s = { s with ram := (xs.foldl State.serveHeld s).ram, readData := (xs.foldl State.serveHeld s).readData } := by
  induction xs with
  | nil => intros; rfl
  | cons x xs ih =>
    intro s hp hb
    rw [List.foldl_cons, serveHeld_halted hp hb]
    cases x with
    | read a => exact ih hp hb
    | write a v =>
      have hb' : (s.putWord a.toNat v).badParity = [] := by simp [State.putWord, hb]
      refine (ih (s := s.putWord a.toNat v) hp hb').trans ?_
      generalize (List.foldl State.serveHeld (s.putWord a.toNat v) xs) = u
      rw [show ({ s with ram := u.ram, readData := u.readData } : State) =
        { s with ram := u.ram, readData := u.readData, badParity := [] } by rw [← hb]]
      rw [show s.putWord a.toNat v = { s with ram := (s.putWord a.toNat v).ram, badParity := [] } by rw [← hb']; rfl]

/-- What the end of CLEARING leaves. -/
theorem endClearing_frame (s : State) : s.endClearing = { s with
    part := .halted, ram := s.endClearing.ram, badParity := [], clearNext := 0, held := [], readData := s.endClearing.readData } := by
  unfold State.endClearing
  exact (foldl_serveHeld_frame s.held (s := { s with part := .halted, ram := [], badParity := [], clearNext := 0, held := [] }) rfl rfl)

/-! Start and stop -/

theorem erase_enterStopping (h : Opens k [.part, .linesQuiet, .pass, .refreshPass, .scanTimer, .links, .seats, .boardWrites, .lift,
    .orderQuiet, .ram, .badParity]) : erase k s.enterStopping = erase k s := by
  have e : ∀ (t : State) a b, erase k { t with links := a, seats := b } = erase k t := fun t a b => by
    simp only [erase, h .links (by decide), h .seats (by decide), cond_true]
  have e1 : ∀ (t : State) a b, erase k { t with part := a, linesQuiet := b } = erase k t := fun t a b => by
    simp only [erase, h .part (by decide), h .linesQuiet (by decide), cond_true]
  unfold State.enterStopping; dsimp only
  refine (erase_quietLines (h.mono (by decide))).trans ((erase_publishVisible (h.mono (by decide))).trans
    ((erase_stopOrders (h.mono (by decide))).trans ((e _ _ _).trans ((erase_abandonPass (h.mono (by decide))).trans (e1 _ _ _)))))

abbrev fEnter : List Fld := [.part, .links, .ram, .badParity, .countdown, .pass, .refreshPass, .scanTimer, .pageA, .pageB, .posting,
  .causes, .faultLatch, .worked, .reads, .takings, .suspended, .lift, .capacity, .seats, .changeList, .writePos, .fillCount, .owedCount]

theorem erase_enterRunning {d : Directory} {a b : PageState} (h : Opens k fEnter) : erase k (s.enterRunning d a b) = erase k s := by
  unfold State.enterRunning; dsimp only
  exact (erase_settleChangeList (h.mono (by decide))).trans ((erase_startOrders (h.mono (by decide))).trans
    ((erase_writeFloorHeader (h.mono (by decide))).trans ((erase_startEvaluation (h.mono (by decide))).trans
    ((erase_startLinks (h.mono (by decide))).trans (erase_with_part (h _ (by decide)))))))

abbrev fStart : List Fld := .startResult :: .layout :: .classes :: .curves :: .generations :: .roster :: .carriers :: .floorLimit ::
  .floorPolicy :: .boardWrites :: fEnter

theorem erase_succeedStart {rs : List ReadWord} (h : Opens k fStart) : erase k (s.succeedStart rs) = erase k s := by
  have e : ∀ (t : State) a b c, erase k { t with startResult := a, layout := b, reads := c } = erase k t := fun t a b c => by
    simp only [erase, h .startResult (by decide), h .layout (by decide), h .reads (by decide), cond_true]
  have e1 : ∀ (t : State) d, erase k (t.startFloorRules d) = erase k t := fun t d => by
    simp only [erase, State.startFloorRules, h .floorLimit (by decide), h .floorPolicy (by decide), cond_true]
  unfold State.succeedStart; dsimp only
  refine (erase_raise (h.mono (by decide))).trans ((erase_foldl (fun _ _ => erase_publishChange (h.mono (by decide))) _ _).trans
    ((erase_enterRunning (h.mono (by decide))).trans ((e1 _ _).trans
    ((erase_foldl (fun _ _ => erase_retire (h.mono (by decide))) _ _).trans
    ((erase_replaceStores (h.mono (by decide))).trans (e _ _ _ _))))))

theorem erase_takeSetup {rs : List ReadWord} (h : Opens k [.links, .scanPeriod, .refreshInterval]) :
    erase k (s.takeSetup rs) = erase k s := by
  unfold State.takeSetup; split
  · rfl
  · simp only [erase, State.takeLinkSetup, h .links (by decide), h .scanPeriod (by decide), h .refreshInterval (by decide), cond_true]

theorem erase_failStart {c : StartResult} (h : Opens k [.startResult, .reads, .part, .causes]) :
    erase k (s.failStart c) = erase k s := by
  have e : ∀ (t : State) a b c, erase k { t with startResult := a, reads := b, part := c } = erase k t := fun t a b c => by
    simp only [erase, h .startResult (by decide), h .reads (by decide), h .part (by decide), cond_true]
  exact (erase_raise (h.mono (by decide))).trans (e _ _ _ _)

abbrev fCheck : List Fld := .scanPeriod :: .refreshInterval :: fStart

theorem erase_endChecking (h : Opens k fCheck) : erase k s.endChecking = erase k s := by
  unfold State.endChecking; dsimp only
  generalize startWords = n
  have e := (erase_takeSetup (k := k) (rs := (State.readOn nextStartRead n s).reads) (h.mono (by decide))).trans
    (erase_readOn (next := nextStartRead) (h.mono (by decide)) n s)
  split
  · exact (erase_succeedStart (h.mono (by decide))).trans e
  · exact (erase_failStart (h.mono (by decide))).trans e

/-! The fields that a command may change -/

/-- Every field of the state. -/
def allFields : List Fld :=
  [.pending, .part, .startResult, .causes, .enables, .faultLatch, .ram, .badParity, .clearNext, .held, .readData, .layout, .reads,
   .linesQuiet, .orderQuiet, .links, .seats, .carriers, .clock, .scanPeriod, .refreshInterval, .scanTimer, .pass, .refreshPass,
   .countdown, .passCount, .lateCount, .classes, .curves, .generations, .roster, .floorLimit, .floorPolicy, .pageA, .pageB, .posting,
   .worked, .suspended, .lift, .changeList, .writePos, .fillCount, .takenCount, .owedCount, .capacity, .boardWrites, .takings]

theorem mem_allFields (f : Fld) : f ∈ allFields := by cases f <;> decide

/-- The fields that a reset changes: all but the queue and the RAM. -/
def resetFields : List Fld := allFields.filter fun f => f != .pending && f != .ram && f != .badParity

abbrev fEvaluate : List Fld := [.seats, .links, .boardWrites, .pass]

/-- The fields that a command may change. -/
def fieldsOf : Instr → List Fld
  | .powerOnReset | .softReset _ => resetFields
  | .clearingDone => [.part, .ram, .badParity, .clearNext, .held, .readData]
  | .run _ => [.enables, .part, .reads]
  | .stop _ => [.enables, .part, .linesQuiet, .pass, .refreshPass, .scanTimer, .links, .seats, .boardWrites, .lift, .orderQuiet, .ram,
      .badParity]
  | .setCauseEnables _ => [.enables]
  | .statusWrite _ => [.causes]
  | .faultKindWrite _ => fFault
  | .registerWrite .control _ => allFields
  | .registerWrite .status _ => [.causes]
  | .registerWrite .faultKind _ => fFault
  | .registerWrite .faultAddress _ | .registerWrite .ident _ => []
  | .hostRamRead _ => .held :: .readData :: fFault
  | .hostRamWrite _ _ => .held :: fWrite
  | .pageStateWrite _ _ => .held :: fJudge
  | .takenCountWrite _ => .held :: fTaken
  | .checkingEnd => fCheck
  | .stoppingEnd => [.part]
  | .gap _ | .linkTimerExpiry _ => fHeard
  | .reportTake _ => fReport
  | .transmitStart _ | .characterReceived _ _ _ _ => [.links]
  | .commandFrameCompletion _ => [.links, .seats, .boardWrites]
  | .spacingEnd _ => [.links, .linesQuiet, .ram, .badParity]
  | .scanExpiry => .scanTimer :: fPass
  | .seatEvaluation | .fadeWindowRollover _ | .historySample _ | .confirmationDeadlineExpiry _ => fEvaluate
  | .boardWrite _ => fBoard
  | .takePage => fTake
  | .loadSeat => fSlot ++ fLoad
  | .bulkSlice => fSlice
  | .reloadClasses => .classes :: .curves :: .generations :: fSlot
  | .acknowledge | .resetWarnings | .restartEstimator => fSlot ++ fPub
  | .grantFloor | .revokeFloor | .clearFloor => fSlot ++ fFloor
  | .setFloorRules => .floorLimit :: .floorPolicy :: fSlot
  | .loadRange | .acknowledgeAll | .liftLock | .unknownOrderKind => fSlot
  | .clearLinkCounts => .links :: fSlot
  | .pageEnd => fEnd
  | .partClockTick => [.clock]

theorem erase_of_opens_allFields (h : Opens k allFields) (s t : State) : erase k t = erase k s := by
  have e : ∀ f, k f = true := fun f => h f (mem_allFields f)
  simp only [erase, e, cond_true]

theorem opens_resetFields (h : Opens k resetFields) (f : Fld) (h1 : f ≠ .pending) (h2 : f ≠ .ram) (h3 : f ≠ .badParity) : k f = true :=
  h f (by simp [resetFields, mem_allFields, h1, h2, h3])

theorem erase_powerOn (h : Opens k resetFields) : erase k s.powerOn = erase k s := by
  have e := opens_resetFields h
  simp [erase, State.powerOn, e]

theorem erase_softReset (h : Opens k resetFields) : erase k s.softReset = erase k s := by
  have e := opens_resetFields h
  simp [erase, State.softReset, e]

theorem erase_setEnables {x : BitVec 7} (h : Opens k [.enables]) : erase k (s.setEnables x) = erase k s := by
  unfold State.setEnables; split
  · rfl
  · exact erase_with_enables (h _ (by decide))

theorem erase_evaluateWhen {i : Seat} {b : Bool} (h : Opens k fEvaluate) : erase k (s.evaluateWhen i b) = erase k s := by
  unfold State.evaluateWhen; split
  · exact erase_passOn h
  · rfl

/-- A command changes the fields of `fieldsOf` alone. -/
theorem erase_exec {c : Instr} (h : Opens k (fieldsOf c)) (he : exec c s = .next t) : erase k t = erase k s := by
  cases c <;> cases he <;> try dsimp only [fieldsOf] at h
  case powerOnReset => exact erase_powerOn h
  case clearingDone =>
    split
    · rw [endClearing_frame]
      simp only [erase, h .part (by decide), h .ram (by decide), h .badParity (by decide), h .clearNext (by decide), h .held (by decide),
        h .readData (by decide), cond_true]
    · rfl
  case run x =>
    refine Eq.trans ?_ (erase_setEnables (x := x) (h.mono (by decide)))
    unfold State.commandRun; split
    · simp only [erase, h .part (by decide), h .reads (by decide), cond_true]
    · rfl
  case stop x =>
    refine Eq.trans ?_ (erase_setEnables (x := x) (h.mono (by decide)))
    unfold State.commandStop; split
    · exact erase_enterStopping (h.mono (by decide))
    · rfl
  case softReset x =>
    have hx : k .enables = true := h _ (by decide)
    refine Eq.trans ?_ (erase_setEnables (x := x) (by simp [Opens, hx]))
    unfold State.commandSoftReset; split
    · rfl
    · exact erase_softReset h
  case setCauseEnables x => exact erase_setEnables h
  case statusWrite v =>
    unfold State.writeStatus; split
    · rfl
    · exact erase_clearCauses h
  case faultKindWrite v =>
    unfold State.writeFaultKind; split
    · rfl
    · exact erase_clearLatch h
  case registerWrite r v =>
    cases r
    case control => exact erase_of_opens_allFields h _ _
    case status =>
      dsimp only [State.registerWrite, State.writeStatus]; split
      · rfl
      · exact erase_clearCauses h
    case faultKind =>
      dsimp only [State.registerWrite, State.writeFaultKind]; split
      · rfl
      · exact erase_clearLatch h
    case faultAddress => rfl
    case ident => rfl
  case hostRamRead a =>
    unfold State.hostRead; split
    · exact erase_holdOff (h.mono (by decide))
    · exact erase_serveRead (h.mono (by decide))
  case hostRamWrite a v =>
    unfold State.hostWrite; split
    · exact erase_holdOff (h.mono (by decide))
    · exact erase_serveWrite (h.mono (by decide))
  case pageStateWrite p v => exact erase_hostStateWrite h
  case takenCountWrite v => exact erase_hostTakenWrite h
  case checkingEnd =>
    split
    · exact erase_endChecking h
    · rfl
  case stoppingEnd => exact erase_with_part (h _ (by decide))
  case gap l =>
    split
    · exact erase_gapOn h
    · rfl
  case linkTimerExpiry l =>
    split
    · exact erase_linkLost h
    · rfl
  case reportTake l =>
    split
    · exact erase_takeReport h
    · rfl
  case transmitStart l => exact erase_transmit h
  case commandFrameCompletion l => exact erase_completeFrame h
  case spacingEnd l => exact erase_endSpacing h
  case scanExpiry =>
    split
    · rfl
    · exact (erase_onExpiry (h.mono (by decide))).trans (erase_with_scanTimer (h _ (by decide)))
  case seatEvaluation =>
    split
    · exact erase_passOn h
    · rfl
  case fadeWindowRollover i => exact erase_evaluateWhen h
  case historySample i => exact erase_evaluateWhen h
  case confirmationDeadlineExpiry i => exact erase_evaluateWhen h
  case boardWrite i =>
    split
    · exact erase_finishBoardWrite h
    · rfl
  case takePage => exact erase_takeIfFree h
  case loadSeat => exact erase_workOrder (h.mono (by decide)) fun _ _ => erase_loadSeatWork (h.mono (by decide))
  case loadRange => exact erase_workSlot h fun _ _ _ => erase_loadRangeWork (h.mono (by decide))
  case acknowledgeAll => exact erase_workSlot h fun _ _ _ => erase_acknowledgeAllWork (h.mono (by decide))
  case bulkSlice =>
    split
    · rfl
    split
    · rfl
    split
    · exact erase_bulkOn h
    · rfl
  case reloadClasses => exact erase_workOrder (h.mono (by decide)) fun _ _ => erase_reloadWork (h.mono (by decide))
  case acknowledge => exact erase_workOrder (h.mono (by decide)) fun _ _ => erase_acknowledgeWork (h.mono (by decide))
  case resetWarnings => exact erase_workOrder (h.mono (by decide)) fun _ _ => erase_resetWarningsWork (h.mono (by decide))
  case restartEstimator => exact erase_workOrder (h.mono (by decide)) fun _ _ => erase_restartEstimatorWork (h.mono (by decide))
  case grantFloor => exact erase_workOrder (h.mono (by decide)) fun _ _ => erase_grantFloorWork (h.mono (by decide))
  case revokeFloor => exact erase_workOrder (h.mono (by decide)) fun _ _ => erase_revokeFloorWork (h.mono (by decide))
  case clearFloor => exact erase_workOrder (h.mono (by decide)) fun _ _ => erase_clearFloorWork (h.mono (by decide))
  case setFloorRules => exact erase_workOrder (h.mono (by decide)) fun _ _ => erase_setFloorRulesWork (h.mono (by decide))
  case liftLock => exact erase_workSlot h fun _ _ _ => congrArg (erase k) liftLockWork_state
  case clearLinkCounts => exact erase_workOrder (h.mono (by decide)) fun _ _ => erase_clearMaskedCounts (h.mono (by decide))
  case unknownOrderKind => exact erase_workSlot h fun _ _ _ => rfl
  case pageEnd =>
    split
    · rfl
    split
    · rfl
    · exact erase_endPage h
  case characterReceived l d p b =>
    split
    · exact erase_setLink h
    · rfl
  case partClockTick => exact erase_with_clock (h _ (by decide))

end Sys2Proof.Machine
end

section
/-! PROOFS. The shares of the seats that a step can change, and the cases of a step. -/

namespace Sys2Proof.Machine

variable {k : Fld → Bool} {q : SFld → Bool} {s t u : State}

/-! Seats at the port, at start and at stop -/

theorem seatFrame_guardedWrite {a : Nat} {v : Word} (h : SOpens q qList) : SeatFrame q s (s.guardedWrite a v) := by
  unfold State.guardedWrite; split
  · exact .of_seats rfl
  · exact .of_seats rfl
  · exact .of_erase (erase_judgePageState (by decide))
  · exact SeatFrame.trans (t := s.putWord takenCountAddr v) (.of_seats rfl) (seatFrame_acceptTaken h)

theorem seatFrame_serveWrite {a : Nat} {v : Word} (h : SOpens q qList) : SeatFrame q s (s.serveWrite a v) := by
  unfold State.serveWrite; split
  · exact seatFrame_guardedWrite h
  · exact .of_seats rfl

theorem seatFrame_hostWrite {a : BitVec 14} {v : Word} (h : SOpens q qList) : SeatFrame q s (s.hostWrite a v) := by
  unfold State.hostWrite; split
  · exact .of_seats rfl
  · exact seatFrame_serveWrite h

theorem seatFrame_hostTakenWrite {v : Word} (h : SOpens q qList) : SeatFrame q s (s.hostTakenWrite v) := by
  unfold State.hostTakenWrite; split
  · exact SeatFrame.trans (t := s.putWord takenCountAddr v) (.of_seats rfl) (seatFrame_acceptTaken h)
  · exact .of_erase (erase_hostWrite_unguarded (by assumption) (by decide))

/-- The seats with every mute channel as entry to STOPPING leaves it (R135). -/
def State.stopChannels (s : State) : State :=
  { s with seats := s.seats.map fun (x : SeatState) => { x with channel := stoppedChannel x.channel } }

theorem seat_stopChannels (i : Seat) : s.stopChannels.seat i = { s.seat i with channel := stoppedChannel (s.seat i).channel } := by
  simp [State.stopChannels, State.seat]

theorem stoppedChannel_intent (c : MuteChannel) : (stoppedChannel c).intent = c.intent := by
  unfold stoppedChannel; split <;> rfl

theorem seatFrame_stopChannels (h : SOpens q [.chState, .chRest]) : SeatFrame q s s.stopChannels := fun i => by
  rw [seat_stopChannels]
  simp only [eraseSeat, stoppedChannel_intent, h .chState (by decide), h .chRest (by decide), cond_true]

/-- Entry to STOPPING before the publications: every block has been told (R43, R56, R135, R154). -/
def State.stopBlocks (s : State) : State :=
  State.stopOrders (State.stopChannels
    { State.abandonPass { s with part := .stopping, linesQuiet := false } with links := s.links.map stoppedLink })

theorem enterStopping_eq (s : State) : s.enterStopping = (publishVisible s s.stopBlocks allSeats).quietLines := rfl

theorem seatFrame_enterStopping (h : SOpens q [.chState, .chRest, .boardRest]) : SeatFrame q s s.enterStopping := by
  rw [enterStopping_eq]
  refine SeatFrame.trans ?_ (.of_erase (erase_quietLines (by decide)))
  refine SeatFrame.trans ?_ (seatFrame_publishVisible (h.mono (by decide)))
  unfold State.stopBlocks
  refine SeatFrame.trans ?_ (.of_erase (erase_stopOrders (by decide)))
  refine SeatFrame.trans ?_ (seatFrame_stopChannels (h.mono (by decide)))
  exact .of_seats rfl

theorem seatFrame_enterRunning {d : Directory} {a b : PageState} (h : SOpens q qList) : SeatFrame q s (s.enterRunning d a b) := by
  unfold State.enterRunning; dsimp only
  refine SeatFrame.trans ?_ (seatFrame_settleChangeList h)
  refine SeatFrame.trans ?_ (.of_erase (erase_startOrders (by decide)))
  refine SeatFrame.trans ?_ (.of_erase (erase_writeFloorHeader (by decide)))
  refine SeatFrame.trans ?_ (.of_erase (erase_startEvaluation (by decide)))
  exact SeatFrame.trans (t := { s with part := .running }) (.of_seats rfl) (.of_erase (erase_startLinks (by decide)))

theorem seatFrame_succeedStart {rs : List ReadWord} (h : SOpens q (qRetire ++ qList)) : SeatFrame q s (s.succeedStart rs) := by
  have e : ∀ (t : State) (d : Directory), SeatFrame q t (t.startFloorRules d) := fun _ _ => .of_seats rfl
  unfold State.succeedStart; dsimp only
  refine SeatFrame.trans ?_ (.of_erase (erase_raise (by decide)))
  refine SeatFrame.trans ?_ (SeatFrame.foldl (fun _ _ => seatFrame_publishChange (h.mono (by decide))) _ _)
  refine SeatFrame.trans ?_ (seatFrame_enterRunning (h.mono (by decide)))
  refine SeatFrame.trans ?_ (e _ _)
  refine SeatFrame.trans ?_ (SeatFrame.foldl (fun _ _ => seatFrame_retire (h.mono (by decide))) _ _)
  exact .of_seats rfl

theorem seatFrame_endChecking (h : SOpens q (qRetire ++ qList)) : SeatFrame q s s.endChecking := by
  unfold State.endChecking; dsimp only
  generalize startWords = n
  have e : SeatFrame q s ((State.readOn nextStartRead n s).takeSetup (State.readOn nextStartRead n s).reads) :=
    (SeatFrame.of_erase (erase_readOn (by decide) _ _)).trans (.of_erase (erase_takeSetup (by decide)))
  split
  · exact e.trans (seatFrame_succeedStart h)
  · exact e.trans (.of_erase (erase_failStart (by decide)))

/-! Evaluation and bulk orders -/

theorem seatFrame_passOn (h : SOpens q qEvaluate) : SeatFrame q s s.passOn := by
  unfold State.passOn; split
  · exact .refl _
  split
  · exact .of_seats rfl
  · rename_i i _
    refine SeatFrame.trans ?_ (.of_erase (erase_settlePass (by decide)))
    exact SeatFrame.trans (t := s.evaluate i) (seatFrame_evaluate h) (.of_seats rfl)

theorem seatFrame_evaluateWhen {i : Seat} {b : Bool} (h : SOpens q qEvaluate) : SeatFrame q s (s.evaluateWhen i b) := by
  unfold State.evaluateWhen; split
  · exact seatFrame_passOn h
  · exact .refl _

theorem seatFrame_slice {b : Bulk} (h : SOpens q qLoad) : SeatFrame q s (s.slice b).1 := by
  have e : ∀ (l : List Nat) (p : State × Bulk), SeatFrame q p.1 (l.foldl bulkSeat p).1 := fun l => by
    induction l with
    | nil => exact fun p => .refl _
    | cons n l ih => exact fun p => (seatFrame_bulkSeat h p).trans (ih _)
  exact e (List.range' b.cursor (b.sliceEnd - b.cursor)) (s, b)

theorem seatFrame_workSlice {w : PageWork} {b : Bulk} (h : SOpens q qLoad) : SeatFrame q s (s.workSlice w b) := by
  unfold State.workSlice; dsimp only; split
  · exact (seatFrame_slice h).trans (.of_erase (erase_finishOrder (by decide)))
  · exact (seatFrame_slice h).trans (.of_seats rfl)

theorem seatFrame_bulkOn {w : PageWork} {b : Bulk} (h : SOpens q qLoad) : SeatFrame q s (s.bulkOn w b) := by
  unfold State.bulkOn; split
  · split
    · exact .of_erase (erase_boundaryCut (by decide) (by assumption))
    split
    · exact .of_erase (erase_suspend (by decide))
    · exact SeatFrame.trans (t := { s with reads := [] }) (.of_seats rfl) (seatFrame_workSlice h)
  · exact seatFrame_workSlice h

abbrev qFloor : List SFld := [.intent, .chState, .chRest, .boardRest]

theorem seatFrame_grantFloorWork {o : Slot} (h : SOpens q qFloor) : SeatFrame q s (grantFloorWork o s).1 := by
  unfold grantFloorWork; split
  · exact .refl _
  split
  · exact .refl _
  split
  · exact .refl _
  split
  · exact ((seatFrame_giveFloor (h.mono (by decide))).trans (.of_erase (erase_writeFloorHeader (by decide)))).trans
      (seatFrame_publishVisible (h.mono (by decide)))
  split
  · exact (((seatFrame_takeFloor (h.mono (by decide))).trans (seatFrame_giveFloor (h.mono (by decide)))).trans
      (.of_erase (erase_writeFloorHeader (by decide)))).trans (seatFrame_publishVisible (h.mono (by decide)))
  · exact .refl _

theorem seatFrame_revokeFloorWork {o : Slot} (h : SOpens q qFloor) : SeatFrame q s (revokeFloorWork o s).1 := by
  unfold revokeFloorWork; split
  · exact .refl _
  split
  · exact .refl _
  split
  · exact .refl _
  · exact ((seatFrame_takeFloor (h.mono (by decide))).trans (.of_erase (erase_writeFloorHeader (by decide)))).trans
      (seatFrame_publishVisible (h.mono (by decide)))

theorem seatFrame_clearFloorWork {o : Slot} (h : SOpens q qFloor) : SeatFrame q s (clearFloorWork o s).1 :=
  ((SeatFrame.foldl (fun _ _ => seatFrame_takeFloor (h.mono (by decide))) _ _).trans
    (.of_erase (erase_floorHeaderIfChanged (by decide)))).trans (seatFrame_publishVisible (h.mono (by decide)))

/-! The shares of the seats that a command may change -/

/-- Every share of a seat's state. -/
def allShares : List SFld :=
  [.active, .locked, .link, .channel, .txId, .sample, .silence, .ctxRest, .monitors, .tracker, .estimator, .intent, .chState, .chRest,
   .listed, .relistDue, .owed, .boardRest]

theorem mem_allShares (f : SFld) : f ∈ allShares := by cases f <;> decide

theorem seatFrame_of_opens_allShares (h : SOpens q allShares) (s t : State) : SeatFrame q s t := fun i => by
  have e : ∀ f, q f = true := fun f => h f (mem_allShares f)
  simp only [eraseSeat, e, cond_true]

/-- The shares of the seats that a command may change. -/
def sharesOf : Instr → List SFld
  | .powerOnReset | .softReset _ | .registerWrite .control _ => allShares
  | .stop _ | .commandFrameCompletion _ => [.chState, .chRest, .boardRest]
  | .hostRamWrite _ _ | .takenCountWrite _ | .boardWrite _ => qList
  | .checkingEnd => qRetire ++ qList
  | .reportTake _ => .boardRest :: qArrival
  | .seatEvaluation | .fadeWindowRollover _ | .historySample _ | .confirmationDeadlineExpiry _ => qEvaluate
  | .loadSeat | .bulkSlice => qLoad
  | .acknowledge | .resetWarnings => [.monitors, .boardRest]
  | .restartEstimator => [.estimator, .monitors, .boardRest]
  | .grantFloor | .revokeFloor | .clearFloor => qFloor
  | _ => []

theorem opens_of_all {k : Fld → Bool} {l : List Fld} (h : l.all k = true) : Opens k l := List.all_eq_true.mp h

theorem sopens_of_all {l : List SFld} (h : l.all q = true) : SOpens q l := List.all_eq_true.mp h

/-- A command changes the shares of `sharesOf` alone. -/
theorem seatFrame_exec {c : Instr} (h : SOpens q (sharesOf c)) (he : exec c s = .next t) : SeatFrame q s t := by
  by_cases hf : Fld.seats ∈ fieldsOf c
  case neg =>
    exact .of_erase (erase_exec (fun f hc => by
      have : f ≠ .seats := fun e => hf (e ▸ hc)
      simpa [noSeats] using this) he)
  cases c
  case powerOnReset => exact seatFrame_of_opens_allShares h _ _
  case softReset => exact seatFrame_of_opens_allShares h _ _
  case registerWrite r v =>
    cases r
    case control => exact seatFrame_of_opens_allShares h _ _
    all_goals exact absurd hf (by simp [fieldsOf])
  case stop x =>
    cases he
    have e : SeatFrame q s (s.setEnables x) := .of_erase (erase_setEnables (by decide))
    unfold State.commandStop; split
    · exact e.trans (seatFrame_enterStopping h)
    · exact e
  case hostRamWrite a v => cases he; exact seatFrame_hostWrite h
  case takenCountWrite v => cases he; exact seatFrame_hostTakenWrite h
  case checkingEnd =>
    cases he; split
    · exact seatFrame_endChecking h
    · exact .refl _
  case reportTake l =>
    cases he; split
    · exact seatFrame_takeReport h
    · exact .refl _
  case commandFrameCompletion l => cases he; exact seatFrame_completeFrame h
  case seatEvaluation =>
    cases he; split
    · exact seatFrame_passOn h
    · exact .refl _
  case fadeWindowRollover i => cases he; exact seatFrame_evaluateWhen h
  case historySample i => cases he; exact seatFrame_evaluateWhen h
  case confirmationDeadlineExpiry i => cases he; exact seatFrame_evaluateWhen h
  case boardWrite i =>
    cases he; split
    · exact seatFrame_finishBoardWrite h
    · exact .refl _
  case loadSeat => cases he; exact seatFrame_workSlot fun _ _ _ => seatFrame_loadSeatWork h
  case bulkSlice =>
    cases he; split
    · exact .refl _
    split
    · exact .refl _
    split
    · exact seatFrame_bulkOn h
    · exact .refl _
  case acknowledge =>
    cases he
    exact seatFrame_workSlot fun _ _ _ => seatFrame_onActiveSeat fun _ => seatFrame_acknowledgeSeat h
  case resetWarnings =>
    cases he
    refine seatFrame_workSlot fun _ _ _ => seatFrame_onActiveSeat fun _ => ?_
    split
    · exact .refl _
    · exact (seatFrame_clearMonitors (h.mono (by decide))).trans (seatFrame_publishVisible (h.mono (by decide)))
  case restartEstimator =>
    cases he
    exact seatFrame_workSlot fun _ _ _ => seatFrame_onActiveSeat fun _ =>
      (seatFrame_restartEstimator (h.mono (by decide))).trans (seatFrame_publishVisible (h.mono (by decide)))
  case grantFloor => cases he; exact seatFrame_workSlot fun _ _ _ => seatFrame_grantFloorWork h
  case revokeFloor => cases he; exact seatFrame_workSlot fun _ _ _ => seatFrame_revokeFloorWork h
  case clearFloor => cases he; exact seatFrame_workSlot fun _ o _ => seatFrame_clearFloorWork (o := o) h
  all_goals exact absurd hf (by simp [fieldsOf])

/-! The cases of a step -/

/-- What one access of the part's own can do (R165; log 2). -/
inductive Access (s : State) : State → Prop where
  | idle : Access s s
  | clear : s.part = .clearing → s.clearNext < ramWords →
      Access s { s.putWord s.clearNext 0 with clearNext := s.clearNext + 1 }
  | read (a : Nat) : Access s (s.readOne a)
  | begin (w : PageWork) : s.worked = some w → w.bulk = none → w.begun = false → s.slotReady w = true → Access s (s.beginSlot w)
  | share (w : PageWork) (b : Bulk) : s.worked = some w → w.bulk = some b → (s.part = .running ∨ s.part = .stopping) →
      s.shareReady b = true → Access s { (bulkSeat (s, b) b.cursor).1 with
        worked := some { w with bulk := some { (bulkSeat (s, b) b.cursor).2 with cursor := b.cursor + 1 } } }
  | opening (w : PageWork) (b : Bulk) : s.worked = some w → w.bulk = some b → b.kind = .loadRange → b.atBoundary = true →
      (s.part = .running ∨ s.part = .stopping) →
      Access s { s with worked := some { w with bulk := some b.opened }, reads := [] }
  | board (e : BoardEntry) (rest : List BoardEntry) : s.boardWrites = e :: rest → (s.part = .running ∨ s.part = .stopping) →
      Access s (s.boardWord e.seat).askNextWord

theorem access_runAccess (hp : s.part = .running ∨ s.part = .stopping) : Access s s.runAccess := by
  obtain ⟨h1, h2, h3⟩ := runAccess_eq (s := s)
  cases ho : s.orderWork with
  | some t =>
    rw [h1 t ho]
    obtain ⟨w, b, hw, hb, hk, -, ⟨hs, rfl⟩ | ⟨ha, -, -, rfl⟩⟩ := orderWork_cases ho
    · exact .share w b hw hb hp hs
    · exact .opening w b hw hb hk ha hp
  | none =>
    cases hf : s.orderFirst with
    | true =>
      rw [h2 ho hf]
      cases hk : s.worked with
      | none => simp [State.orderFirst, State.orderRequest, hk] at hf
      | some w =>
        obtain ⟨a, ha⟩ := (orderRequest_isSome_iff hk).1 (orderFirst_iff.1 hf).1
        cases a with
        | none =>
          obtain ⟨hb, hg, hr⟩ := orderAsks_none_iff.1 ha
          rw [(orderAccess_eq hk).1 ha]
          exact .begin w hk hb hg hr
        | some a => rw [(orderAccess_eq hk).2 a ha]; exact .read a
    | false =>
      rw [h3 ho hf]
      cases hb : s.boardWrites with
      | nil => rw [boardAccess_nil hb]; exact .idle
      | cons e rest => rw [boardAccess_cons hb]; exact .board e rest hb hp

/-- The part's own access is one of the cases. -/
theorem access_partAccess (s : State) : Access s s.partAccess := by
  unfold State.partAccess; split
  · unfold State.clearAccess; split
    · exact .clear (by assumption) (by assumption)
    · exact .idle
  · exact .idle
  · unfold State.checkAccess; split
    · exact .idle
    · exact .read _
  · exact access_runAccess (.inl (by assumption))
  · exact access_runAccess (.inr (by assumption))

/-- A step runs the command at the front of the queue, or makes one access. -/
theorem step_cases (h : step s = .next t) :
    s.pending = [] ∧ Access s t ∨ ∃ c rest, s.pending = c :: rest ∧ exec c { s with pending := rest } = .next t := by
  unfold step at h
  split at h
  · cases h; exact .inl ⟨by assumption, access_partAccess s⟩
  · exact .inr ⟨_, _, by assumption, h⟩

/-- A law that an access and a command keep, whatever waits, is kept by every step. -/
theorem step_keeps {P : State → Prop} (hp : ∀ s rest, P s → P { s with pending := rest }) (ha : ∀ s t, P s → Access s t → P t)
    (he : ∀ c s t, P s → exec c s = .next t → P t) (hs : P s) (h : step s = .next t) : P t := by
  obtain ⟨-, h⟩ | ⟨c, rest, -, h⟩ := step_cases h
  · exact ha s t hs h
  · exact he c _ t (hp s rest hs) h

/-- SOFT RESET outside CLEARING (R171, R176). -/
theorem exec_softReset (x : BitVec 7) (s : State) :
    exec (.softReset x) s = .next (if s.part = .clearing then s else s.softReset) := by
  show Host.Outcome.next (s.setEnables x).commandSoftReset = _
  unfold State.setEnables State.commandSoftReset
  split <;> rfl

/-- RUN: its enables outside CLEARING, and CHECKING in HALTED (R171, R173). -/
theorem exec_run (x : BitVec 7) (s : State) : exec (.run x) s = .next (if s.part = .clearing then s
    else if s.part = .halted then { s with enables := x, part := .checking, reads := [] } else { s with enables := x }) := by
  show Host.Outcome.next (s.setEnables x).commandRun = _
  unfold State.setEnables State.commandRun
  cases hp : s.part <;> simp [hp]

/-- STOP: its enables outside CLEARING, and entry to STOPPING in RUNNING (R171, R175). -/
theorem exec_stop (x : BitVec 7) (s : State) : exec (.stop x) s = .next (if s.part = .clearing then s
    else if s.part = .running then State.enterStopping { s with enables := x } else { s with enables := x }) := by
  show Host.Outcome.next (s.setEnables x).commandStop = _
  unfold State.setEnables State.commandStop
  cases hp : s.part <;> simp [hp]

/-- A CONTROL write is one of the four commands (R171, R179). -/
theorem exec_control (s : State) (v : Word) : exec (.registerWrite .control v) s =
    if field v 0 2 = 0 then exec (.setCauseEnables (enablesOf v)) s
    else if field v 0 2 = 1 then exec (.run (enablesOf v)) s
    else if field v 0 2 = 2 then exec (.stop (enablesOf v)) s else exec (.softReset (enablesOf v)) s := by
  have h4 : field v 0 2 < 4 := Nat.mod_lt _ (by decide)
  show Host.Outcome.next ((s.setEnables (enablesOf v)).command (field v 0 2)) = _
  generalize field v 0 2 = n at h4
  match n, h4 with
  | 0, _ => rfl
  | 1, _ => rfl
  | 2, _ => rfl
  | 3, _ => rfl

/-- What holds of the four commands of CONTROL holds of a CONTROL write. -/
theorem exec_control_cases {v : Word} (h : exec (.registerWrite .control v) s = .next t) :
    exec (.setCauseEnables (enablesOf v)) s = .next t ∨ exec (.run (enablesOf v)) s = .next t
      ∨ exec (.stop (enablesOf v)) s = .next t ∨ exec (.softReset (enablesOf v)) s = .next t := by
  rw [exec_control] at h
  split at h
  · exact .inl h
  split at h
  · exact .inr (.inl h)
  split at h
  · exact .inr (.inr (.inl h))
  · exact .inr (.inr (.inr h))

end Sys2Proof.Machine
end

section
/-! PROOFS. The memory, the latch, the part state, the part clock and the layout under every step. -/

namespace Sys2Proof.Machine

variable {s t : State} {c : Instr}

/-! Commands that flow -/

/-- The commands that change RAM, latch and causes by word writes, fault records and raised causes alone. -/
def flowing : Instr → Bool
  | .powerOnReset | .softReset _ | .clearingDone | .statusWrite _ | .faultKindWrite _ | .registerWrite _ _ => false
  | _ => true

theorem flows_setEnables (x : BitVec 7) : Flows s (s.setEnables x) := .of_erase (erase_setEnables (by decide))

theorem flows_evaluateWhen (i : Seat) (b : Bool) : Flows s (s.evaluateWhen i b) := .of_erase (erase_evaluateWhen (by decide))

theorem flows_exec (hc : flowing c = true) (he : exec c s = .next t) : Flows s t := by
  cases c <;> cases he
  case powerOnReset | softReset | clearingDone | statusWrite | faultKindWrite | registerWrite => cases hc
  case run x =>
    refine (flows_setEnables x).trans ?_
    unfold State.commandRun; split
    · exact .same rfl rfl rfl rfl
    · exact .refl _
  case stop x =>
    refine (flows_setEnables x).trans ?_
    unfold State.commandStop; split
    · exact flows_enterStopping
    · exact .refl _
  case setCauseEnables x => exact flows_setEnables x
  case hostRamRead a =>
    unfold State.hostRead; split
    · exact .same rfl rfl rfl rfl
    · exact flows_serveRead _
  case hostRamWrite a v => exact flows_hostWrite a v
  case pageStateWrite p v =>
    unfold State.hostStateWrite; split
    · exact flows_judgePageState p v
    · exact flows_hostWrite _ v
  case takenCountWrite v =>
    unfold State.hostTakenWrite; split
    · exact (Flows.put _ _ _).trans (flows_acceptTaken v)
    · exact flows_hostWrite _ v
  case checkingEnd =>
    split
    · exact flows_endChecking
    · exact .refl _
  case stoppingEnd => exact .same rfl rfl rfl rfl
  case gap l =>
    split
    · exact flows_gapOn l
    · exact .refl _
  case linkTimerExpiry l =>
    split
    · exact flows_linkLost l
    · exact .refl _
  case reportTake l =>
    split
    · exact flows_takeReport l
    · exact .refl _
  case transmitStart l => exact .of_erase (erase_transmit (by decide))
  case commandFrameCompletion l => exact flows_completeFrame l
  case spacingEnd l => exact flows_endSpacing l
  case scanExpiry =>
    split
    · exact .refl _
    · exact flows_onExpiry.before rfl rfl rfl rfl
  case seatEvaluation =>
    split
    · exact flows_passOn
    · exact .refl _
  case fadeWindowRollover i => exact flows_evaluateWhen _ _
  case historySample i => exact flows_evaluateWhen _ _
  case confirmationDeadlineExpiry i => exact flows_evaluateWhen _ _
  case boardWrite i =>
    split
    · exact flows_finishBoardWrite i
    · exact .refl _
  case takePage => exact flows_takeIfFree
  case loadSeat => exact flows_workOrder fun o _ => flows_loadSeatWork o
  case loadRange => exact flows_workSlot fun _ _ _ => .of_erase (erase_loadRangeWork (by decide))
  case acknowledgeAll => exact flows_workSlot fun _ _ _ => .of_erase (erase_acknowledgeAllWork (by decide))
  case bulkSlice =>
    split
    · exact .refl _
    split
    · exact .refl _
    split
    · exact flows_bulkOn _ _
    · exact .refl _
  case reloadClasses => exact flows_workOrder fun _ _ => .of_erase (erase_reloadWork (by decide))
  case acknowledge => exact flows_workOrder fun _ _ => .of_erase (erase_acknowledgeWork (by decide))
  case resetWarnings => exact flows_workOrder fun _ _ => .of_erase (erase_resetWarningsWork (by decide))
  case restartEstimator => exact flows_workOrder fun _ _ => .of_erase (erase_restartEstimatorWork (by decide))
  case grantFloor => exact flows_workOrder fun o _ => flows_grantFloorWork o
  case revokeFloor => exact flows_workOrder fun o _ => flows_revokeFloorWork o
  case clearFloor => exact flows_workOrder fun o _ => flows_clearFloorWork o
  case setFloorRules => exact flows_workOrder fun o _ => flows_setFloorRulesWork o
  case liftLock => exact flows_workSlot fun w o t => by rw [liftLockWork_state]; exact .refl _
  case clearLinkCounts => exact flows_workOrder fun o _ => flows_clearMaskedCounts o.mask
  case unknownOrderKind => exact flows_workSlot fun _ _ _ => .refl _
  case pageEnd =>
    split
    · exact .refl _
    split
    · exact .refl _
    · exact flows_endPage _ _
  case characterReceived l d p b =>
    split
    · exact flows_setLink _ _
    · exact .refl _
  case partClockTick => exact .same rfl rfl rfl rfl

theorem flows_askNextWord : Flows s s.askNextWord := .of_erase (erase_askNextWord (by decide))

theorem flows_access (h : Access s t) : Flows s t := by
  cases h with
  | idle => exact .refl s
  | clear => exact (Flows.put _ _ _).after rfl rfl rfl rfl
  | read a => exact flows_readOne a
  | begin w => exact flows_beginSlot w
  | share w b => exact (flows_bulkSeat (s, b) b.cursor).after rfl rfl rfl rfl
  | opening => exact .same rfl rfl rfl rfl
  | board e => exact (flows_boardWord e.seat).trans flows_askNextWord

/-! The memory (O4) -/

theorem memoryLaw_endClearing (s : State) : s.endClearing.memoryLaw := by
  unfold State.endClearing
  refine (Flows.foldl (fun _ x => flows_serveHeld x) _ _).memory ?_
  exact ⟨rfl, List.Pairwise.nil, fun _ hb => absurd hb List.not_mem_nil⟩

theorem memoryLaw_exec (hs : s.memoryLaw) (he : exec c s = .next t) : t.memoryLaw := by
  have keeps : ∀ {k : Fld → Bool}, k .ram = false → k .badParity = false → Opens k (fieldsOf c) → t.memoryLaw :=
    fun h1 h2 hk => by
      unfold State.memoryLaw
      rw [erase_keeps_ram (erase_exec hk he) h1, erase_keeps_badParity (erase_exec hk he) h2]; exact hs
  have softReset : ∀ x, exec (.softReset x) s = .next t → t.memoryLaw := fun x h => by
    rw [exec_softReset] at h; cases h
    split <;> exact hs
  by_cases hc : flowing c = true
  · exact (flows_exec hc he).memory hs
  cases c
  case clearingDone =>
    cases he; split
    · exact memoryLaw_endClearing s
    · exact hs
  case powerOnReset => cases he; exact hs
  case softReset x => exact softReset x he
  case statusWrite v => exact keeps (k := fun f => f == .causes) rfl rfl (by simp [fieldsOf, Opens])
  case faultKindWrite v => exact keeps (k := fun f => f == .causes || f == .faultLatch) rfl rfl (by simp [fieldsOf, Opens])
  case registerWrite r v =>
    cases r
    case control =>
      rcases exec_control_cases he with h | h | h | h
      · exact (flows_exec rfl h).memory hs
      · exact (flows_exec rfl h).memory hs
      · exact (flows_exec rfl h).memory hs
      · exact softReset _ h
    case status => exact keeps (k := fun f => f == .causes) rfl rfl (by simp [fieldsOf, Opens])
    case faultKind => exact keeps (k := fun f => f == .causes || f == .faultLatch) rfl rfl (by simp [fieldsOf, Opens])
    case faultAddress => cases he; exact hs
    case ident => cases he; exact hs
  all_goals exact absurd rfl hc

/-- Settles O4: a step writes words or clears the RAM, and both keep it canonical. -/
theorem stepKeepsMemoryCanonical : Obligations.StepKeepsMemoryCanonical := by
  unfold Obligations.StepKeepsMemoryCanonical
  intro s t hs h
  exact step_keeps (P := State.memoryLaw) (fun _ _ h => h) (fun _ _ hs ha => (flows_access ha).memory hs)
    (fun _ _ _ hs he => memoryLaw_exec hs he) hs h

/-! The fault latch (O5) -/

/-- A held fault stays: its address and kind, and MULTIPLE once set (R169). -/
def FaultHeld (s t : State) : Prop :=
  ∀ f, s.faultLatch = some f →
    ∃ g, t.faultLatch = some g ∧ g.addr = f.addr ∧ g.kind = f.kind ∧ (f.multiple = true → g.multiple = true)

theorem faultHeld_of_eq (h : t.faultLatch = s.faultLatch) : FaultHeld s t := fun f hf => ⟨f, h.trans hf, rfl, rfl, id⟩

theorem Flows.faultHeld {s t : State} (h : Flows s t) : FaultHeld s t := by
  induction h with
  | same _ _ h3 _ => exact faultHeld_of_eq h3
  | put | raise => exact faultHeld_of_eq rfl
  | record s a x =>
    intro f hf
    unfold State.recordFault; dsimp only; split
    · exact ⟨f, hf, rfl, rfl, id⟩
    · rw [hf]; exact ⟨_, rfl, rfl, rfl, fun _ => rfl⟩
  | trans _ _ ih1 ih2 =>
    intro f hf
    obtain ⟨g, hg, ha, hk, hm⟩ := ih1 f hf
    obtain ⟨g', hg', ha', hk', hm'⟩ := ih2 g hg
    exact ⟨g', hg', ha'.trans ha, hk'.trans hk, fun h => hm' (hm h)⟩

/-- A STATUS write clears the causes written 1, but FAULT (R170). -/
theorem causeSet_clearCauses (s : State) (v : Word) (c : Cause) :
    (s.clearCauses v).causeSet c = (s.causeSet c && !(decide (c ≠ .fault) && v.getLsbD (8 + causeIndex c))) := by
  have h7 : causeIndex c < 7 := by cases c <;> decide
  have hb : (causeBit .fault).getLsbD (causeIndex c) = decide (c = .fault) := by cases c <;> decide
  simp only [State.causeSet, State.clearCauses, BitVec.getLsbD_and, BitVec.getLsbD_not, BitVec.getLsbD_extractLsb', h7, hb]
  cases hx : decide (c = .fault) <;> simp_all

/-- A FAULT KIND write clears FAULT alone (R169). -/
theorem causeSet_clearLatch (s : State) (c : Cause) : s.clearLatch.causeSet c = (s.causeSet c && decide (c ≠ .fault)) := by
  have h7 : causeIndex c < 7 := by cases c <;> decide
  have hb : (causeBit .fault).getLsbD (causeIndex c) = decide (c = .fault) := by cases c <;> decide
  simp only [State.causeSet, State.clearLatch, BitVec.getLsbD_and, BitVec.getLsbD_not, h7, hb]
  cases hx : decide (c = .fault) <;> simp_all

/-- What a step's command may do to the latch besides reporting faults: empty it (R169, R172, R176). -/
def Empties (part : PartState) (c : Instr) : Prop :=
  c = .powerOnReset ∨ part ≠ .clearing ∧ controlField c = 3
    ∨ part ≠ .clearing ∧ ∃ v, c = .faultKindWrite v ∨ c = .registerWrite .faultKind v

theorem latchLaw_of_reset (h1 : t.causes = 0) (h2 : t.faultLatch = none) : t.latchLaw := by
  simp [State.latchLaw, State.causeSet, h1, h2]

theorem latch_exec (he : exec c s = .next t) :
    (s.latchLaw → t.latchLaw) ∧ (FaultHeld s t ∨ t.faultLatch = none ∧ Empties s.part c) := by
  have flows : Flows s t → (s.latchLaw → t.latchLaw) ∧ (FaultHeld s t ∨ t.faultLatch = none ∧ Empties s.part c) :=
    fun h => ⟨h.fault, .inl h.faultHeld⟩
  have status : ∀ v, t = s.writeStatus v → (s.latchLaw → t.latchLaw) ∧ FaultHeld s t := by
    rintro v rfl
    unfold State.writeStatus; split
    · exact ⟨id, faultHeld_of_eq rfl⟩
    · refine ⟨fun h => ?_, faultHeld_of_eq rfl⟩
      unfold State.latchLaw at *
      rw [causeSet_clearCauses]; simpa using h
  have faultKind : ∀ v, t = s.writeFaultKind v → (s.latchLaw → t.latchLaw) ∧ (FaultHeld s t ∨ t.faultLatch = none ∧ s.part ≠ .clearing) := by
    rintro v rfl
    unfold State.writeFaultKind; split
    · exact ⟨id, .inl (faultHeld_of_eq rfl)⟩
    · refine ⟨fun _ => ?_, .inr ⟨rfl, by assumption⟩⟩
      unfold State.latchLaw
      rw [causeSet_clearLatch]; simp [State.clearLatch]
  have softReset : ∀ x, exec (.softReset x) s = .next t → (s.latchLaw → t.latchLaw) ∧
      (FaultHeld s t ∨ t.faultLatch = none ∧ s.part ≠ .clearing) := by
    intro x hx
    rw [exec_softReset] at hx; cases hx
    split
    · exact ⟨id, .inl (faultHeld_of_eq rfl)⟩
    · exact ⟨fun _ => latchLaw_of_reset rfl rfl, .inr ⟨rfl, by assumption⟩⟩
  by_cases hc : flowing c = true
  · exact flows (flows_exec hc he)
  cases c
  case powerOnReset => cases he; exact ⟨fun _ => latchLaw_of_reset rfl rfl, .inr ⟨rfl, .inl rfl⟩⟩
  case softReset x =>
    obtain ⟨h1, h2 | ⟨h2, h3⟩⟩ := softReset x he
    · exact ⟨h1, .inl h2⟩
    · exact ⟨h1, .inr ⟨h2, .inr (.inl ⟨h3, rfl⟩)⟩⟩
  case clearingDone =>
    cases he; split
    · rw [endClearing_frame]; exact ⟨id, .inl (faultHeld_of_eq rfl)⟩
    · exact ⟨id, .inl (faultHeld_of_eq rfl)⟩
  case statusWrite v => cases he; exact ⟨(status v rfl).1, .inl (status v rfl).2⟩
  case faultKindWrite v =>
    cases he
    obtain ⟨h1, h2 | ⟨h2, h3⟩⟩ := faultKind v rfl
    · exact ⟨h1, .inl h2⟩
    · exact ⟨h1, .inr ⟨h2, .inr (.inr ⟨h3, v, .inl rfl⟩)⟩⟩
  case registerWrite r v =>
    cases r
    case control =>
      have h4 : field v 0 2 = v.toNat % 4 := by simp [field]
      by_cases h3 : field v 0 2 = 3
      · rw [exec_control, if_neg (by omega), if_neg (by omega), if_neg (by omega)] at he
        obtain ⟨h1, h2 | ⟨h2, hp⟩⟩ := softReset _ he
        · exact ⟨h1, .inl h2⟩
        · exact ⟨h1, .inr ⟨h2, .inr (.inl ⟨hp, h3⟩)⟩⟩
      · rw [exec_control] at he
        split at he
        · exact flows (flows_exec rfl he)
        split at he
        · exact flows (flows_exec rfl he)
        split at he
        · exact flows (flows_exec rfl he)
        · omega
    case status => cases he; exact ⟨(status v rfl).1, .inl (status v rfl).2⟩
    case faultKind =>
      cases he
      obtain ⟨h1, h2 | ⟨h2, h3⟩⟩ := faultKind v rfl
      · exact ⟨h1, .inl h2⟩
      · exact ⟨h1, .inr ⟨h2, .inr (.inr ⟨h3, v, .inr rfl⟩)⟩⟩
    case faultAddress => cases he; exact ⟨id, .inl (faultHeld_of_eq rfl)⟩
    case ident => cases he; exact ⟨id, .inl (faultHeld_of_eq rfl)⟩
  all_goals exact absurd rfl hc

/-- Settles O5: what flows reports faults at most, and the other commands are the resets and the writes of the host. -/
theorem faultLatchLaw : Obligations.FaultLatchLaw := by
  unfold Obligations.FaultLatchLaw
  intro s t h
  obtain ⟨-, ha⟩ | ⟨c, rest, hp, he⟩ := step_cases h
  · exact ⟨(flows_access ha).fault, fun f hf => .inl ((flows_access ha).faultHeld f hf)⟩
  · obtain ⟨hl, hh | ⟨hn, he⟩⟩ := latch_exec he
    · exact ⟨hl, fun f hf => .inl (hh f hf)⟩
    · exact ⟨hl, fun f hf => .inr ⟨c, rest, hp, hn, he⟩⟩

end Sys2Proof.Machine
end

section
/-! PROOFS. The end of CHECKING in parts, and the part state, the part clock and the layout under every step. -/

namespace Sys2Proof.Machine

variable {k : Fld → Bool} {s t : State} {c : Instr}

/-! The frame of an access -/

/-- The fields that an access of the part's own may change. -/
abbrev fAccess : List Fld := [.ram, .badParity, .clearNext, .reads, .causes, .faultLatch, .worked, .roster, .seats, .links, .carriers,
  .boardWrites, .changeList, .writePos, .fillCount, .owedCount]

theorem erase_access (h : Opens k fAccess) (ha : Access s t) : erase k t = erase k s := by
  cases ha with
  | idle => rfl
  | clear =>
    simp only [erase, State.putWord, h .ram (by decide), h .badParity (by decide), h .clearNext (by decide), cond_true]
  | read a => exact erase_readOne (h.mono (by decide))
  | begin w => exact erase_beginSlot (h.mono (by decide))
  | share w b =>
    exact (erase_with_worked (h _ (by decide))).trans (erase_bulkSeat (h.mono (by decide)) (s, b))
  | opening => simp only [erase, h .worked (by decide), h .reads (by decide), cond_true]
  | board e => exact (erase_askNextWord (h.mono (by decide))).trans (erase_boardWord (h.mono (by decide)))

/-- Every field but those of a list. -/
abbrev allBut (l : List Fld) : Fld → Bool := fun f => !decide (f ∈ l)

/-! A successful start in parts (R174) -/

/-- The state of a successful start with the layout taken and the stores replaced. -/
def State.startStores (s : State) (rs : List ReadWord) : State :=
  State.replaceStores { s with startResult := .ok, layout := (directoryOf (valuesOf rs)).layout, reads := [] }
    (classesOfTable ((valuesOf rs).drop wordsBeforeTables)) (curvesOfTable ((valuesOf rs).drop wordsBeforeTables))

/-- Then the seats that the start retires are retired, and the floor rules settled. -/
def State.startSeats (s : State) (rs : List ReadWord) : State :=
  State.startFloorRules ((s.startStores rs).retiring.foldl State.retire (s.startStores rs)) (directoryOf (valuesOf rs))

/-- Then RUNNING is entered, delivered to every block. -/
def State.startEntered (s : State) (rs : List ReadWord) : State :=
  (s.startSeats rs).enterRunning (directoryOf (valuesOf rs)) ((startablePage (nth (valuesOf rs) directoryWords)).getD .free)
    ((startablePage (nth (valuesOf rs) (directoryWords + 1))).getD .free)

/-- Last, the retired seats are published and STARTED is raised. -/
theorem succeedStart_eq (s : State) (rs : List ReadWord) :
    s.succeedStart rs = State.raise ((s.startStores rs).retiring.foldl State.publishChange (s.startEntered rs)) .started := rfl

theorem erase_startSeats {rs : List ReadWord} (h : Opens k [.roster, .seats, .links, .carriers, .floorLimit, .floorPolicy]) :
    erase k (s.startSeats rs) = erase k (s.startStores rs) := by
  have e : ∀ (t : State) d, erase k (t.startFloorRules d) = erase k t := fun t d => by
    simp only [erase, State.startFloorRules, h .floorLimit (by decide), h .floorPolicy (by decide), cond_true]
  exact (e _ _).trans (erase_foldl (fun _ _ => erase_retire (h.mono (by decide))) _ _)

theorem erase_publishStart {rs : List ReadWord} (h : Opens k (.causes :: fPub)) :
    erase k (s.succeedStart rs) = erase k (s.startEntered rs) := by
  rw [succeedStart_eq]
  exact (erase_raise (h.mono (by decide))).trans (erase_foldl (fun _ _ => erase_publishChange (h.mono (by decide))) _ _)

/-- Entering RUNNING, and what comes after, changes the layout no more. -/
theorem succeedStart_layout (rs : List ReadWord) : (s.succeedStart rs).layout = (directoryOf (valuesOf rs)).layout := by
  rw [erase_keeps_layout (erase_publishStart (k := allBut [.layout]) (by decide)) rfl]
  unfold State.startEntered
  rw [erase_keeps_layout (erase_enterRunning (k := allBut [.layout]) (by decide)) rfl,
    erase_keeps_layout (erase_startSeats (k := allBut [.layout]) (by decide)) rfl]
  rfl

theorem enterRunning_part (s : State) (d : Directory) (a b : PageState) : (s.enterRunning d a b).part = .running := by
  unfold State.enterRunning; dsimp only
  rw [erase_keeps_part (erase_settleChangeList (k := allBut [.part]) (by decide)) rfl,
    erase_keeps_part (erase_startOrders (k := allBut [.part]) (by decide)) rfl,
    erase_keeps_part (erase_writeFloorHeader (k := allBut [.part]) (by decide)) rfl,
    erase_keeps_part (erase_startEvaluation (k := allBut [.part]) (by decide)) rfl,
    erase_keeps_part (erase_startLinks (k := allBut [.part]) (by decide)) rfl]

theorem succeedStart_part (rs : List ReadWord) : (s.succeedStart rs).part = .running := by
  rw [erase_keeps_part (erase_publishStart (k := allBut [.part]) (by decide)) rfl]
  exact enterRunning_part _ _ _ _

theorem settleChangeList_capacity (s : State) (n : Nat) : (s.settleChangeList n).capacity = n := by
  unfold State.settleChangeList; dsimp only
  generalize (512 : Nat) = m
  rw [erase_keeps_capacity (erase_notifyChanges (k := allBut [.capacity]) (by decide)) rfl,
    erase_keeps_capacity (erase_writeTaken (k := allBut [.capacity]) (by decide)) rfl,
    erase_keeps_capacity (erase_writeOwed (k := allBut [.capacity]) (by decide)) rfl,
    erase_keeps_capacity (erase_writeFill (k := allBut [.capacity]) (by decide)) rfl,
    erase_keeps_capacity (erase_appendOwed (k := allBut [.capacity]) (by decide) _ _) rfl]

theorem succeedStart_capacity (rs : List ReadWord) : (s.succeedStart rs).capacity = (directoryOf (valuesOf rs)).capacity := by
  rw [erase_keeps_capacity (erase_publishStart (k := allBut [.capacity]) (by decide)) rfl]
  exact settleChangeList_capacity _ _

theorem succeedStart_startResult (rs : List ReadWord) : (s.succeedStart rs).startResult = .ok := by
  rw [erase_keeps_startResult (erase_publishStart (k := allBut [.startResult]) (by decide)) rfl]
  unfold State.startEntered
  rw [erase_keeps_startResult (erase_enterRunning (k := allBut [.startResult]) (by decide)) rfl,
    erase_keeps_startResult (erase_startSeats (k := allBut [.startResult]) (by decide)) rfl]
  rfl

/-- The words that CHECKING has read when it ends (R173). -/
def State.startReads (s : State) : List ReadWord := (s.readOn nextStartRead startWords).reads

/-- The state in which a start is judged: the words read, and the setup handed over (R24, R46, R173). -/
def State.startJudged (s : State) : State := (s.readOn nextStartRead startWords).takeSetup s.startReads

/-- CHECKING ends with a successful start or with the code of the first failing check. -/
theorem endChecking_eq (s : State) : s.endChecking =
    if startCode s.startReads = .ok then s.startJudged.succeedStart s.startReads else s.startJudged.failStart (startCode s.startReads) :=
  rfl

/-! The part state (O15) -/

theorem enterStopping_part (s : State) : s.enterStopping.part = .stopping := by
  rw [enterStopping_eq]
  rw [erase_keeps_part (erase_quietLines (k := allBut [.part]) (by decide)) rfl,
    erase_keeps_part (erase_publishVisible (k := allBut [.part]) (by decide)) rfl]
  rfl

theorem mayHalt_iff : s.mayHalt = true ↔ s.part = .stopping ∧ s.linesQuiet = true ∧ s.orderQuiet = true ∧ s.boardWrites = [] := by
  simp [State.mayHalt, and_assoc]

/-- The changes of the part state by a command, as R171 to R176 give them. -/
def PartMoves (s t : State) (c : Instr) : Prop :=
  c = .powerOnReset ∧ t.part = .clearing
    ∨ c = .clearingDone ∧ s.part = .clearing ∧ t.part = .halted
    ∨ controlField c = 1 ∧ s.part = .halted ∧ t.part = .checking
    ∨ c = .checkingEnd ∧ s.part = .checking ∧ (t.part = .halted ∧ t.startResult ≠ .ok ∨ t.part = .running ∧ t.startResult = .ok)
    ∨ controlField c = 2 ∧ s.part = .running ∧ t.part = .stopping
    ∨ c = .stoppingEnd ∧ s.part = .stopping ∧ t.part = .halted ∧ s.linesQuiet = true ∧ s.orderQuiet = true ∧ s.boardWrites = []
    ∨ controlField c = 3 ∧ s.part ≠ .clearing ∧ t.part = .halted

/-- RUN, STOP and SOFT RESET move the part state as their command field gives. -/
theorem part_run {x : BitVec 7} (h : exec (.run x) s = .next t) : t.part = s.part ∨ s.part = .halted ∧ t.part = .checking := by
  rw [exec_run] at h; cases h
  split
  · exact .inl rfl
  split
  · exact .inr ⟨by assumption, rfl⟩
  · exact .inl rfl

theorem part_stop {x : BitVec 7} (h : exec (.stop x) s = .next t) : t.part = s.part ∨ s.part = .running ∧ t.part = .stopping := by
  rw [exec_stop] at h; cases h
  split
  · exact .inl rfl
  split
  · exact .inr ⟨by assumption, enterStopping_part _⟩
  · exact .inl rfl

theorem part_softReset {x : BitVec 7} (h : exec (.softReset x) s = .next t) :
    t.part = s.part ∨ s.part ≠ .clearing ∧ t.part = .halted := by
  rw [exec_softReset] at h; cases h
  split
  · exact .inl rfl
  · exact .inr ⟨by assumption, rfl⟩

theorem part_exec (he : exec c s = .next t) : t.part = s.part ∨ PartMoves s t c := by
  by_cases hf : Fld.part ∈ fieldsOf c
  case neg =>
    refine .inl (erase_keeps_part (erase_exec (k := allBut [.part]) (fun f hc => ?_) he) rfl)
    have : f ≠ .part := fun e => hf (e ▸ hc)
    simpa [allBut] using this
  cases c
  case powerOnReset => cases he; exact .inr (.inl ⟨rfl, rfl⟩)
  case clearingDone =>
    cases he; split
    · rw [endClearing_frame]; exact .inr (.inr (.inl ⟨rfl, by assumption, rfl⟩))
    · exact .inl rfl
  case run x => exact (part_run he).imp_right fun h => .inr (.inr (.inl ⟨rfl, h⟩))
  case stop x => exact (part_stop he).imp_right fun h => .inr (.inr (.inr (.inr (.inl ⟨rfl, h⟩))))
  case softReset x => exact (part_softReset he).imp_right fun h => .inr (.inr (.inr (.inr (.inr (.inr ⟨rfl, h⟩)))))
  case registerWrite r v =>
    cases r
    case control =>
      rw [exec_control] at he
      split at he
      · exact .inl (erase_keeps_part (erase_exec (k := allBut [.part]) (c := .setCauseEnables _) (by simp [Opens, fieldsOf]) he) rfl)
      split at he
      · next hc => exact (part_run he).imp_right fun h => .inr (.inr (.inl ⟨hc, h⟩))
      split at he
      · next hc => exact (part_stop he).imp_right fun h => .inr (.inr (.inr (.inr (.inl ⟨hc, h⟩))))
      · next h0 h1 h2 =>
        have hc : field v 0 2 = 3 := by
          have : field v 0 2 < 4 := Nat.mod_lt _ (by decide)
          omega
        exact (part_softReset he).imp_right fun h => .inr (.inr (.inr (.inr (.inr (.inr ⟨hc, h⟩)))))
    all_goals exact absurd hf (by simp [fieldsOf])
  case checkingEnd =>
    cases he; split
    · refine .inr (.inr (.inr (.inr (.inl ⟨rfl, by assumption, ?_⟩))))
      rw [endChecking_eq]; split
      · exact .inr ⟨succeedStart_part _, succeedStart_startResult _⟩
      · exact .inl ⟨rfl, by assumption⟩
    · exact .inl rfl
  case stoppingEnd =>
    cases he
    cases hm : s.mayHalt with
    | true =>
      obtain ⟨hp, h⟩ := mayHalt_iff.1 hm
      exact .inr (.inr (.inr (.inr (.inr (.inr (.inl ⟨rfl, hp, by simp, h⟩))))))
    | false => exact .inl (by simp)
  all_goals exact absurd hf (by simp [fieldsOf])

/-- Settles O15: the part state is written by six commands and by a CONTROL write alone. -/
theorem partStateChanges : Obligations.PartStateChanges := by
  unfold Obligations.PartStateChanges
  intro s t h hne
  obtain ⟨-, ha⟩ | ⟨c, rest, hp, he⟩ := step_cases h
  · exact absurd (erase_keeps_part (erase_access (k := allBut [.part]) (by decide) ha) rfl) hne
  · exact ⟨c, rest, hp, (part_exec he).resolve_left hne⟩

/-! The part clock (O16) -/

theorem exec_partClockTick (s : State) :
    exec .partClockTick s = .next { s with clock := if s.part = .running then s.clock + 1 else s.clock } := rfl

theorem clock_exec (he : exec c s = .next t) : t.clock = s.clock
    ∨ c = .partClockTick ∧ s.part = .running ∨ t.clock = 0 ∧ (c = .powerOnReset ∨ controlField c = 3 ∧ s.part ≠ .clearing) := by
  have kept : ∀ {d : Instr}, Fld.clock ∉ fieldsOf d → exec d s = .next t → t.clock = s.clock := fun {d} hf he => by
    refine erase_keeps_clock (erase_exec (k := allBut [.clock]) (fun f hc => ?_) he) rfl
    have : f ≠ .clock := fun e => hf (e ▸ hc)
    simpa [allBut] using this
  have softReset : ∀ x, exec (.softReset x) s = .next t → t.clock = s.clock ∨ t.clock = 0 ∧ s.part ≠ .clearing := fun x h => by
    rw [exec_softReset] at h; cases h
    split
    · exact .inl rfl
    · exact .inr ⟨rfl, by assumption⟩
  by_cases hf : Fld.clock ∈ fieldsOf c
  case neg => exact .inl (kept hf he)
  cases c
  case powerOnReset => cases he; exact .inr (.inr ⟨rfl, .inl rfl⟩)
  case softReset x => exact (softReset x he).imp_right fun h => .inr ⟨h.1, .inr ⟨rfl, h.2⟩⟩
  case partClockTick =>
    cases he
    by_cases hp : s.part = .running
    · exact .inr (.inl ⟨rfl, hp⟩)
    · exact .inl (if_neg hp)
  case registerWrite r v =>
    cases r
    case control =>
      by_cases hc : field v 0 2 = 3
      · rw [exec_control, if_neg (by omega), if_neg (by omega), if_neg (by omega)] at he
        exact (softReset _ he).imp_right fun h => .inr ⟨h.1, .inr ⟨hc, h.2⟩⟩
      · have h4 : field v 0 2 < 4 := Nat.mod_lt _ (by decide)
        rw [exec_control] at he
        split at he
        · exact .inl (kept (by simp [fieldsOf]) he)
        split at he
        · exact .inl (kept (by simp [fieldsOf]) he)
        split at he
        · exact .inl (kept (by simp [fieldsOf]) he)
        · omega
    all_goals exact absurd hf (by simp [fieldsOf])
  all_goals exact absurd hf (by simp [fieldsOf])

/-- Settles O16: the tick, and no other command but a reset, writes the clock. -/
theorem partClock : Obligations.PartClock := by
  unfold Obligations.PartClock
  refine ⟨fun s hp => ⟨_, exec_partClockTick s, ?_, rfl⟩, fun s hp => ?_, fun s t h hne => ?_⟩
  · simp [hp, BitVec.toNat_add]
  · rw [exec_partClockTick, if_neg hp]
  · obtain ⟨-, ha⟩ | ⟨c, rest, hp, he⟩ := step_cases h
    · exact absurd (erase_keeps_clock (erase_access (k := allBut [.clock]) (by decide) ha) rfl) hne
    · exact ⟨c, rest, hp, (clock_exec he).resolve_left hne⟩

/-! The layout (O13) -/

/-- A directory that passes its checks gives a sound layout (R173). -/
theorem sound_of_failure_none {d : Directory} (h : d.failure = none) :
    1 ≤ d.layout.seatCount ∧ d.layout.seatCount ≤ 512 ∧ 16 ≤ d.capacity ∧ d.capacity ≤ 512
      ∧ (∀ r ∈ d.regions, r.1 + r.2 ≤ ramWords) ∧ allApart d.regions = true := by
  unfold Directory.failure at h
  split at h
  · cases h
  next h1 =>
  split at h
  · cases h
  next h2 =>
  split at h
  · cases h
  next h3 =>
  split at h
  · cases h
  next h4 =>
  refine ⟨by omega, by omega, by omega, by omega, fun r hr => ?_, by simpa using h4⟩
  have := h3
  simp only [List.any_eq_true, not_exists, not_and, decide_eq_true_eq] at this
  have := this r hr
  omega

/-- A start that is OK has passed the checks of its directory. -/
theorem failure_none_of_startCode_ok {rs : List ReadWord} (h : startCode rs = .ok) : (directoryOf (valuesOf rs)).failure = none := by
  have ne : ∀ (d : Directory), d.failure ≠ some .ok := fun d => by
    unfold Directory.failure
    repeat' split
    all_goals simp
  unfold startCode at h; dsimp only at h
  split at h
  · cases h
  split at h
  · next hc => subst h; exact absurd hc (ne _)
  · assumption

theorem layoutLaw_of_idle (h1 : t.part ≠ .running) (h2 : t.part ≠ .stopping) : t.layoutLaw := fun h => absurd h (by simp [h1, h2])

/-- The layout law looks at the part state, the layout and the capacity. -/
theorem layoutLaw_congr (hs : s.layoutLaw) (h1 : t.part = .running ∨ t.part = .stopping → s.part = .running ∨ s.part = .stopping)
    (h2 : t.layout = s.layout) (h3 : t.capacity = s.capacity) : t.layoutLaw := fun h => by
  have := hs (h1 h)
  simpa only [State.layoutSound, State.regions, h2, h3] using this

theorem layoutLaw_of_erase (hs : s.layoutLaw) (h : erase (allBut [.part, .layout, .capacity]) t = erase (allBut [.part, .layout, .capacity]) s) :
    t.layoutLaw :=
  layoutLaw_congr hs (by rw [erase_keeps_part h rfl]; exact id) (erase_keeps_layout h rfl) (erase_keeps_capacity h rfl)

theorem layoutLaw_endChecking : s.endChecking.layoutLaw := by
  rw [endChecking_eq]
  split
  · next hc =>
    intro _
    obtain ⟨h1, h2, h3, h4, h5, h6⟩ := sound_of_failure_none (failure_none_of_startCode_ok hc)
    have hr : (s.startJudged.succeedStart s.startReads).regions = (directoryOf (valuesOf s.startReads)).regions := by
      unfold State.regions
      rw [succeedStart_layout, succeedStart_capacity]; rfl
    unfold State.layoutSound
    rw [hr, succeedStart_layout, succeedStart_capacity]
    exact ⟨h1, h2, h3, h4, h5, h6⟩
  · exact layoutLaw_of_idle (by simp [State.failStart]) (by simp [State.failStart])

theorem layoutLaw_exec (hs : s.layoutLaw) (he : exec c s = .next t) : t.layoutLaw := by
  have run : ∀ {x}, exec (.run x) s = .next t → t.layoutLaw := fun {x} h => by
    have := erase_exec (k := allBut [.layout, .capacity]) (c := .run x) (by simp [Opens, fieldsOf]) h
    refine layoutLaw_congr hs (fun hp => ?_) (erase_keeps_layout this rfl) (erase_keeps_capacity this rfl)
    rcases part_run h with e | ⟨-, e⟩ <;> simp_all
  have stop : ∀ {x}, exec (.stop x) s = .next t → t.layoutLaw := fun {x} h => by
    have := erase_exec (k := allBut [.layout, .capacity]) (c := .stop x) (by simp [Opens, fieldsOf]) h
    refine layoutLaw_congr hs (fun hp => ?_) (erase_keeps_layout this rfl) (erase_keeps_capacity this rfl)
    rcases part_stop h with e | ⟨e, -⟩ <;> simp_all
  have softReset : ∀ {x}, exec (.softReset x) s = .next t → t.layoutLaw := fun {x} h => by
    rw [exec_softReset] at h; cases h
    split
    · exact hs
    · exact layoutLaw_of_idle (by simp [State.softReset]) (by simp [State.softReset])
  cases c
  case powerOnReset => cases he; exact layoutLaw_of_idle (by simp [State.powerOn, State.reset]) (by simp [State.powerOn, State.reset])
  case clearingDone =>
    cases he; split
    · rw [endClearing_frame]; exact layoutLaw_of_idle (by simp) (by simp)
    · exact hs
  case run x => exact run he
  case stop x => exact stop he
  case softReset x => exact softReset he
  case registerWrite r v =>
    cases r
    case control =>
      rcases exec_control_cases he with h | h | h | h
      · exact layoutLaw_of_erase hs (erase_exec (c := .setCauseEnables _) (by simp [Opens, fieldsOf]) h)
      · exact run h
      · exact stop h
      · exact softReset h
    all_goals exact layoutLaw_of_erase hs (erase_exec (by simp [Opens, fieldsOf]) he)
  case checkingEnd =>
    cases he; split
    · exact layoutLaw_endChecking
    · exact hs
  case stoppingEnd =>
    cases he
    refine layoutLaw_congr hs (fun hp => ?_) rfl rfl
    cases hm : s.mayHalt <;> simp_all
  all_goals exact layoutLaw_of_erase hs (erase_exec (by simp [Opens, fieldsOf]) he)

/-- Settles O13: a start alone puts a layout in force, and it has checked it. -/
theorem stepKeepsLayoutLaw : Obligations.StepKeepsLayoutLaw := by
  unfold Obligations.StepKeepsLayoutLaw
  intro s t hs h
  exact step_keeps (P := State.layoutLaw) (fun _ _ h => h)
    (fun _ _ hs ha => layoutLaw_of_erase hs (erase_access (by decide) ha)) (fun _ _ _ hs he => layoutLaw_exec hs he) hs h

end Sys2Proof.Machine
end

section
/-! PROOFS. What the operations on seats, links and carriers leave, said once, field by field. -/

namespace Sys2Proof.Machine

variable {s t : State} {i j : Seat} {l : LinkId}

/-! One seat's shares -/

@[simp] theorem seat_setCtx (x : Context) : (s.setCtx i x).seat j = if j = i then { s.seat i with ctx := x } else s.seat j :=
  State.seat_setSeat ..
@[simp] theorem seat_setMonitors (x : Vector Monitor 8) :
    (s.setMonitors i x).seat j = if j = i then { s.seat i with monitors := x } else s.seat j := State.seat_setSeat ..
@[simp] theorem seat_setTracker (x : Tracker) :
    (s.setTracker i x).seat j = if j = i then { s.seat i with tracker := x } else s.seat j := State.seat_setSeat ..
@[simp] theorem seat_setEstimator (x : Estimator) :
    (s.setEstimator i x).seat j = if j = i then { s.seat i with estimator := x } else s.seat j := State.seat_setSeat ..
@[simp] theorem seat_setChannel (x : MuteChannel) :
    (s.setChannel i x).seat j = if j = i then { s.seat i with channel := x } else s.seat j := State.seat_setSeat ..
@[simp] theorem seat_setBoard (x : BoardSeat) :
    (s.setBoard i x).seat j = if j = i then { s.seat i with board := x } else s.seat j := State.seat_setSeat ..
@[simp] theorem seat_setIntent (x : Intent) : (s.setIntent i x).seat j =
    if j = i then { s.seat i with channel := { (s.seat i).channel with intent := x } } else s.seat j := State.seat_setSeat ..

@[simp] theorem setCtx_clock (x : Context) : (s.setCtx i x).clock = s.clock := rfl
@[simp] theorem setCtx_generations (x : Context) : (s.setCtx i x).generations = s.generations := rfl
@[simp] theorem setMonitors_clock (x : Vector Monitor 8) : (s.setMonitors i x).clock = s.clock := rfl
@[simp] theorem setMonitors_generations (x : Vector Monitor 8) : (s.setMonitors i x).generations = s.generations := rfl
@[simp] theorem setTracker_clock (x : Tracker) : (s.setTracker i x).clock = s.clock := rfl
@[simp] theorem setTracker_generations (x : Tracker) : (s.setTracker i x).generations = s.generations := rfl
@[simp] theorem setEstimator_clock (x : Estimator) : (s.setEstimator i x).clock = s.clock := rfl
@[simp] theorem setEstimator_generations (x : Estimator) : (s.setEstimator i x).generations = s.generations := rfl
@[simp] theorem setChannel_clock (x : MuteChannel) : (s.setChannel i x).clock = s.clock := rfl
@[simp] theorem setChannel_generations (x : MuteChannel) : (s.setChannel i x).generations = s.generations := rfl
@[simp] theorem setBoard_clock (x : BoardSeat) : (s.setBoard i x).clock = s.clock := rfl
@[simp] theorem setBoard_generations (x : BoardSeat) : (s.setBoard i x).generations = s.generations := rfl
@[simp] theorem setIntent_clock (x : Intent) : (s.setIntent i x).clock = s.clock := rfl
@[simp] theorem setIntent_generations (x : Intent) : (s.setIntent i x).generations = s.generations := rfl
@[simp] theorem restartEstimator_clock : (s.restartEstimator i).clock = s.clock := rfl
@[simp] theorem restartEstimator_generations : (s.restartEstimator i).generations = s.generations := rfl
@[simp] theorem withdraw_clock : (s.withdraw i).clock = s.clock := rfl
@[simp] theorem withdraw_generations : (s.withdraw i).generations = s.generations := rfl
@[simp] theorem leaveRoster_clock : (s.leaveRoster i).clock = s.clock := rfl
@[simp] theorem leaveRoster_generations : (s.leaveRoster i).generations = s.generations := rfl

/-- The generation of a seat's curve depends on the curve and the generations alone. -/
theorem seatGeneration_congr (h1 : (t.seat i).ctx.curve = (s.seat i).ctx.curve) (h2 : t.generations = s.generations) :
    t.seatGeneration i = s.seatGeneration i := by simp only [State.seatGeneration, h1, h2]

/-! Links -/

theorem link_place : (s.place i).link l = if l = (s.seat i).ctx.link then placeOn (s.link l) i else s.link l := by
  simp only [State.place, State.link_setLink]
  split
  · next h => rw [h]
  · rfl

theorem link_withdraw :
    (s.withdraw i).link l = if l = (s.seat i).ctx.link then cancelOn (withdrawFrom (s.link l) i) i else s.link l := by
  simp only [State.withdraw, State.link_setLink]
  split
  · next h => rw [h]
  · rfl

theorem link_cancelFrame : (s.cancelFrame i).link l = if l = (s.seat i).ctx.link then cancelOn (s.link l) i else s.link l := by
  simp only [State.cancelFrame, State.link_setLink]
  split
  · next h => rw [h]
  · rfl

@[simp] theorem seat_place : (s.place i).seat j = s.seat j := rfl
@[simp] theorem seat_withdraw : (s.withdraw i).seat j = s.seat j := rfl
@[simp] theorem seat_cancelFrame : (s.cancelFrame i).seat j = s.seat j := rfl

/-! The issue of an intent (R129) -/

/-- A mute channel whose intent is issued. -/
def issuedChannel (c : MuteChannel) : MuteChannel := { c with state := .sending, attempt := .first, deadline := none }

theorem seat_issue : (s.issue i).seat j =
    if j = i then { s.seat i with channel := issuedChannel (s.seat i).channel } else s.seat j := by
  unfold State.issue; dsimp only
  rw [seat_cancelFrame]
  split <;> simp [issuedChannel]

/-- A link on which a seat's intent is issued, while the part runs or not. -/
def issuedOn (running : Prop) [Decidable running] (k : Link) (i : Seat) : Link := cancelOn (if running then placeOn k i else k) i

theorem link_issue : (s.issue i).link l =
    if l = (s.seat i).ctx.link then issuedOn (s.part = .running) (s.link l) i else s.link l := by
  have hc : ∀ x : MuteChannel, ((s.setChannel i x).seat i).ctx = (s.seat i).ctx := fun x => by rw [seat_setChannel, if_pos rfl]
  have hk : ∀ x : MuteChannel, (s.setChannel i x).link l = s.link l := fun _ => rfl
  unfold State.issue issuedOn; dsimp only
  rw [link_cancelFrame]
  split
  · next hp => simp only [seat_place, link_place, hc, hk]; split <;> rfl
  · next hp => simp only [hc, hk]

@[simp] theorem issue_part : (s.issue i).part = s.part := erase_keeps_part (erase_issue (k := allBut [.part]) (by decide)) rfl
@[simp] theorem issue_roster : (s.issue i).roster = s.roster := erase_keeps_roster (erase_issue (k := allBut [.roster]) (by decide)) rfl
@[simp] theorem issue_carriers : (s.issue i).carriers = s.carriers :=
  erase_keeps_carriers (erase_issue (k := allBut [.carriers]) (by decide)) rfl
@[simp] theorem issue_clock : (s.issue i).clock = s.clock := erase_keeps_clock (erase_issue (k := allBut [.clock]) (by decide)) rfl
@[simp] theorem issue_generations : (s.issue i).generations = s.generations :=
  erase_keeps_generations (erase_issue (k := allBut [.generations]) (by decide)) rfl

/-! The roster (R121) -/

theorem seat_leaveRoster : (s.leaveRoster i).seat j =
    if j = i then { s.seat i with channel := { (s.seat i).channel with intent := .muted } } else s.seat j := seat_setIntent _

@[simp] theorem leaveRoster_roster : (s.leaveRoster i).roster = s.roster.erase i := rfl
@[simp] theorem link_leaveRoster : (s.leaveRoster i).link l = s.link l := rfl

theorem seat_takeFloor : (s.takeFloor i).seat j =
    if j = i then { s.seat i with channel := { intent := .muted, state := .sending, attempt := .first, deadline := none } }
    else s.seat j := by
  rw [State.takeFloor, seat_issue]
  split
  · rw [seat_leaveRoster, if_pos rfl]; rfl
  · next h => rw [seat_leaveRoster, if_neg h]

theorem seat_giveFloor : (s.giveFloor i).seat j =
    if j = i then { s.seat i with channel := { intent := .opened, state := .sending, attempt := .first, deadline := none } }
    else s.seat j := by
  rw [State.giveFloor, seat_issue]
  split
  · rw [seat_setIntent, if_pos rfl]; rfl
  · next h => rw [seat_setIntent, if_neg h]; rfl

@[simp] theorem takeFloor_roster : (s.takeFloor i).roster = s.roster.erase i := issue_roster
@[simp] theorem giveFloor_roster : (s.giveFloor i).roster = s.roster ++ [i] := issue_roster

theorem link_takeFloor : (s.takeFloor i).link l =
    if l = (s.seat i).ctx.link then issuedOn (s.part = .running) (s.link l) i else s.link l := by
  rw [State.takeFloor, link_issue, seat_leaveRoster, if_pos rfl]; rfl

theorem link_giveFloor : (s.giveFloor i).link l =
    if l = (s.seat i).ctx.link then issuedOn (s.part = .running) (s.link l) i else s.link l := by
  rw [State.giveFloor, link_issue, seat_setIntent, if_pos rfl]; rfl

/-! Re-initialisation (R9) -/

/-- A seat re-initialised at a reading of the clock, with the generation of its curve. -/
def freshSeat (x : SeatState) (now : Clock) (gen : Word) : SeatState :=
  { x with
    ctx := freshContext x.ctx now
    monitors := Vector.replicate 8 clearMonitor
    tracker := freshTracker now
    estimator := restartedEstimator gen
    channel := { x.channel with intent := .muted } }

theorem seat_restartEstimator : (s.restartEstimator i).seat j = if j = i then { s.seat i with
    estimator := restartedEstimator (s.seatGeneration i)
    monitors := ((s.seat i).monitors.set condLow clearMonitor).set condCritical clearMonitor } else s.seat j := by
  unfold State.restartEstimator State.clearBatteryMonitors
  simp only [seat_setMonitors, seat_setEstimator]
  split <;> simp

theorem seat_reinitialise : (s.reinitialise i).seat j =
    if j = i then freshSeat (s.seat i) s.clock (s.seatGeneration i) else s.seat j := by
  have hg : ((s.leaveRoster i).withdraw i).seatGeneration i = s.seatGeneration i :=
    seatGeneration_congr (by rw [seat_withdraw, seat_leaveRoster, if_pos rfl]) (by simp)
  unfold State.reinitialise State.clearMonitors; dsimp only
  simp only [seat_setCtx, seat_setTracker, seat_setMonitors, seat_restartEstimator, seat_withdraw, seat_leaveRoster, hg,
    setTracker_clock, setMonitors_clock, restartEstimator_clock, withdraw_clock, leaveRoster_clock, if_true]
  split <;> rfl

theorem link_reinitialise : (s.reinitialise i).link l =
    if l = (s.seat i).ctx.link then cancelOn (withdrawFrom (s.link l) i) i else s.link l := by
  have h : (s.reinitialise i).links = ((s.leaveRoster i).withdraw i).links := by
    unfold State.reinitialise; dsimp only
    rw [erase_keeps_links (erase_setCtx (k := allBut [.links]) (by decide)) rfl,
      erase_keeps_links (erase_setTracker (k := allBut [.links]) (by decide)) rfl,
      erase_keeps_links (erase_clearMonitors (k := allBut [.links]) (by decide)) rfl,
      erase_keeps_links (erase_restartEstimator (k := allBut [.links]) (by decide)) rfl]
  have : (s.reinitialise i).link l = ((s.leaveRoster i).withdraw i).link l := by simp only [State.link, h]
  rw [this, link_withdraw, seat_leaveRoster, if_pos rfl, link_leaveRoster]

@[simp] theorem reinitialise_roster : (s.reinitialise i).roster = s.roster.erase i := by
  have h : (s.reinitialise i).roster = (s.leaveRoster i).roster := by
    unfold State.reinitialise; dsimp only
    rw [erase_keeps_roster (erase_setCtx (k := allBut [.roster]) (by decide)) rfl,
      erase_keeps_roster (erase_setTracker (k := allBut [.roster]) (by decide)) rfl,
      erase_keeps_roster (erase_clearMonitors (k := allBut [.roster]) (by decide)) rfl,
      erase_keeps_roster (erase_restartEstimator (k := allBut [.roster]) (by decide)) rfl,
      erase_keeps_roster (erase_withdraw (k := allBut [.roster]) (by decide)) rfl]
  exact h
@[simp] theorem reinitialise_carriers : (s.reinitialise i).carriers = s.carriers :=
  erase_keeps_carriers (erase_reinitialise (k := allBut [.carriers]) (by decide)) rfl
@[simp] theorem reinitialise_part : (s.reinitialise i).part = s.part :=
  erase_keeps_part (erase_reinitialise (k := allBut [.part]) (by decide)) rfl
@[simp] theorem reinitialise_clock : (s.reinitialise i).clock = s.clock :=
  erase_keeps_clock (erase_reinitialise (k := allBut [.clock]) (by decide)) rfl
@[simp] theorem reinitialise_generations : (s.reinitialise i).generations = s.generations :=
  erase_keeps_generations (erase_reinitialise (k := allBut [.generations]) (by decide)) rfl
@[simp] theorem carrier_reinitialise (c : Channel) : (s.reinitialise i).carrier l c = s.carrier l c := by
  simp only [State.carrier, reinitialise_carriers]

/-! Carriers (R10, R12) -/

@[simp] theorem seat_freeCarrier : (s.freeCarrier i).seat j = s.seat j := by
  unfold State.freeCarrier; dsimp only; split <;> rfl
@[simp] theorem link_freeCarrier : (s.freeCarrier i).link l = s.link l := by
  unfold State.freeCarrier; dsimp only; split <;> rfl
@[simp] theorem freeCarrier_roster : (s.freeCarrier i).roster = s.roster := by
  unfold State.freeCarrier; dsimp only; split <;> rfl
@[simp] theorem freeCarrier_part : (s.freeCarrier i).part = s.part := by
  unfold State.freeCarrier; dsimp only; split <;> rfl
@[simp] theorem freeCarrier_generations : (s.freeCarrier i).generations = s.generations := by
  unfold State.freeCarrier; dsimp only; split <;> rfl
@[simp] theorem freeCarrier_clock : (s.freeCarrier i).clock = s.clock := by
  unfold State.freeCarrier; dsimp only; split <;> rfl

theorem carrier_freeCarrier (c : Channel) : (s.freeCarrier i).carrier l c =
    if (s.seat i).ctx.active = true ∧ l = (s.seat i).ctx.link ∧ c = (s.seat i).ctx.channel then none else s.carrier l c := by
  unfold State.freeCarrier; dsimp only
  split
  · next ha => rw [State.carrier_setCarrier]; simp [ha]
  · next ha => simp [ha]

/-! Publication -/

theorem seat_publishChange : (s.publishChange i).seat j =
    if j = i ∧ s.publishes i = true then { s.seat i with board := changedNow (s.seat i).board s.clock } else s.seat j := by
  unfold State.publishChange
  split
  · next h =>
    have e : ∀ (x : State) (es : List BoardEntry), ({ x with boardWrites := es } : State).seat j = x.seat j := fun _ _ => rfl
    dsimp only
    rw [e, seat_setBoard]
    simp [h, changedNow]
  · next h => simp [h]

@[simp] theorem publishChange_part : (s.publishChange i).part = s.part :=
  erase_keeps_part (erase_publishChange (k := allBut [.part]) (by decide)) rfl
@[simp] theorem publishChange_layout : (s.publishChange i).layout = s.layout :=
  erase_keeps_layout (erase_publishChange (k := allBut [.layout]) (by decide)) rfl
@[simp] theorem publishChange_clock : (s.publishChange i).clock = s.clock :=
  erase_keeps_clock (erase_publishChange (k := allBut [.clock]) (by decide)) rfl
@[simp] theorem publishChange_links : (s.publishChange i).links = s.links :=
  erase_keeps_links (erase_publishChange (k := allBut [.links]) (by decide)) rfl
@[simp] theorem publishChange_roster : (s.publishChange i).roster = s.roster :=
  erase_keeps_roster (erase_publishChange (k := allBut [.roster]) (by decide)) rfl
@[simp] theorem publishChange_carriers : (s.publishChange i).carriers = s.carriers :=
  erase_keeps_carriers (erase_publishChange (k := allBut [.carriers]) (by decide)) rfl
@[simp] theorem link_publishChange : (s.publishChange i).link l = s.link l := by simp [State.link]
@[simp] theorem carrier_publishChange (c : Channel) : (s.publishChange i).carrier l c = s.carrier l c := by simp [State.carrier]

/-! Loading a seat (R9 to R12) -/

/-- The context that a record gives to a re-initialised seat. -/
def loadedContext (r : SeatRecord) (now : Clock) : Context :=
  { active := r.active, locked := r.locked, priority := r.priority, cls := r.cls, curve := r.curve, link := r.link,
    channel := r.channel, txId := r.txId, sample := none, lastReport := now, foreignSeen := false, silence := .noCause }

/-- A seat's state once a record has been loaded, before its publication. -/
def loadedSeat (x : SeatState) (r : SeatRecord) (now : Clock) (gen : Word) : SeatState :=
  { ctx := loadedContext r now
    monitors := Vector.replicate 8 clearMonitor
    tracker := freshTracker now
    estimator := restartedEstimator gen
    channel := if r.active then { intent := .muted, state := .sending, attempt := .first, deadline := none } else settledChannel
    board := x.board }

/-- A load before its header words and its publication. -/
def State.loadConfig (s : State) (i : Seat) (r : SeatRecord) : State :=
  let t := (s.reinitialise i).freeCarrier i
  let t := t.setCtx i (withRecord (t.seat i).ctx r)
  let t := if r.active then t.setCarrier r.link r.channel (some i) else t
  let t := t.recordGeneration i
  if r.active then (t.setIntent i .muted).issue i else t.setChannel i settledChannel

theorem applyRecord_eq (s : State) (i : Seat) (r : SeatRecord) :
    s.applyRecord i r = (floorHeaderIfChanged s (s.loadConfig i r)).publishChange i := rfl

/-- A re-initialised seat takes the configuration of a record, and its carrier. -/
def State.configure (s : State) (i : Seat) (r : SeatRecord) : State :=
  let t := s.setCtx i (withRecord (s.seat i).ctx r)
  (if r.active then t.setCarrier r.link r.channel (some i) else t).recordGeneration i

theorem seat_configure (r : SeatRecord) : (s.configure i r).seat j = if j = i then { s.seat i with
    ctx := withRecord (s.seat i).ctx r
    estimator := { (s.seat i).estimator with genSeen := s.generations[r.curve] } } else s.seat j := by
  unfold State.configure; dsimp only
  generalize hu : s.setCtx i (withRecord (s.seat i).ctx r) = u
  have huj : ∀ j, u.seat j = if j = i then { s.seat i with ctx := withRecord (s.seat i).ctx r } else s.seat j := fun j => by
    subst hu; exact seat_setCtx _
  have hgen : u.generations = s.generations := by subst hu; rfl
  have hseat : ∀ j, (if r.active then u.setCarrier r.link r.channel (some i) else u).seat j = u.seat j := fun j => by split <;> rfl
  have hgen' : (if r.active then u.setCarrier r.link r.channel (some i) else u).generations = s.generations := by
    rw [← hgen]; split <;> rfl
  simp only [State.recordGeneration, State.seatGeneration, seat_setEstimator, hseat, hgen', huj, if_true]
  split <;> rfl

theorem carrier_configure (r : SeatRecord) (c : Channel) : (s.configure i r).carrier l c =
    if r.active = true ∧ l = r.link ∧ c = r.channel then some i else s.carrier l c := by
  unfold State.configure; dsimp only
  split
  · next ha =>
    simp only [ha, true_and]
    exact State.carrier_setCarrier ..
  · next ha => rw [if_neg fun h => ha h.1]; rfl

@[simp] theorem link_configure (r : SeatRecord) : (s.configure i r).link l = s.link l := by
  unfold State.configure; dsimp only; split <;> rfl
@[simp] theorem configure_part (r : SeatRecord) : (s.configure i r).part = s.part := by
  unfold State.configure; dsimp only; split <;> rfl
@[simp] theorem configure_roster (r : SeatRecord) : (s.configure i r).roster = s.roster := by
  unfold State.configure; dsimp only; split <;> rfl

/-- A seat re-initialised, freed of its carrier and configured anew. -/
def State.configured (s : State) (i : Seat) (r : SeatRecord) : State := ((s.reinitialise i).freeCarrier i).configure i r

theorem loadConfig_eq (s : State) (i : Seat) (r : SeatRecord) : s.loadConfig i r =
    if r.active then ((s.configured i r).setIntent i .muted).issue i else (s.configured i r).setChannel i settledChannel := rfl

theorem seat_configured (r : SeatRecord) : (s.configured i r).seat j = if j = i then { s.seat i with
    ctx := loadedContext r s.clock
    monitors := Vector.replicate 8 clearMonitor
    tracker := freshTracker s.clock
    estimator := restartedEstimator s.generations[r.curve]
    channel := { (s.seat i).channel with intent := .muted } } else s.seat j := by
  simp only [State.configured, seat_configure, seat_freeCarrier, seat_reinitialise, freeCarrier_generations, reinitialise_generations,
    if_true]
  split <;> rfl

theorem link_configured (r : SeatRecord) : (s.configured i r).link l =
    if l = (s.seat i).ctx.link then cancelOn (withdrawFrom (s.link l) i) i else s.link l := by
  rw [State.configured, link_configure, link_freeCarrier, link_reinitialise]

theorem carrier_freed (c : Channel) : ((s.reinitialise i).freeCarrier i).carrier l c =
    if (s.seat i).ctx.active = true ∧ l = (s.seat i).ctx.link ∧ c = (s.seat i).ctx.channel then none else s.carrier l c := by
  rw [carrier_freeCarrier, seat_reinitialise, if_pos rfl, carrier_reinitialise]; rfl

theorem carrier_configured (r : SeatRecord) (c : Channel) : (s.configured i r).carrier l c =
    if r.active = true ∧ l = r.link ∧ c = r.channel then some i
    else if (s.seat i).ctx.active = true ∧ l = (s.seat i).ctx.link ∧ c = (s.seat i).ctx.channel then none else s.carrier l c := by
  rw [State.configured, carrier_configure, carrier_freed]

theorem configured_part (r : SeatRecord) : (s.configured i r).part = s.part := by simp [State.configured]
theorem configured_roster (r : SeatRecord) : (s.configured i r).roster = s.roster.erase i := by simp [State.configured]

theorem seat_loadConfig (r : SeatRecord) : (s.loadConfig i r).seat j =
    if j = i then loadedSeat (s.seat i) r s.clock s.generations[r.curve] else s.seat j := by
  rw [loadConfig_eq]
  split
  · next ha =>
    simp only [seat_issue, seat_setIntent, seat_configured]
    split <;> simp [loadedSeat, ha, issuedChannel]
  · next ha =>
    simp only [seat_setChannel, seat_configured]
    split <;> simp [loadedSeat, ha]

/-- The link that a seat has left by a re-initialisation. -/
theorem link_loadConfig (r : SeatRecord) : (s.loadConfig i r).link l =
    if r.active = true ∧ l = r.link then issuedOn (s.part = .running) ((s.configured i r).link l) i else (s.configured i r).link l := by
  rw [loadConfig_eq]
  split
  · next ha =>
    simp only [link_issue, seat_setIntent, seat_configured, if_true, ha, true_and]
    have hp : ((s.configured i r).setIntent i .muted).part = s.part := configured_part r
    simp only [hp]; rfl
  · next ha => simp [ha]; rfl

theorem carrier_loadConfig (r : SeatRecord) (c : Channel) : (s.loadConfig i r).carrier l c = (s.configured i r).carrier l c := by
  rw [loadConfig_eq]
  split
  · simp only [State.carrier, issue_carriers]; rfl
  · rfl

theorem loadConfig_roster (r : SeatRecord) : (s.loadConfig i r).roster = s.roster.erase i := by
  rw [loadConfig_eq]
  split
  · rw [issue_roster]; exact configured_roster r
  · exact configured_roster r

/-- The header words of the roster leave seats, links and carriers alone. -/
@[simp] theorem seat_floorHeaderIfChanged : (floorHeaderIfChanged s t).seat j = t.seat j := by
  simp only [State.seat, erase_keeps_seats (erase_floorHeaderIfChanged (s := t) (t := s) (k := allBut [.seats]) (by decide)) rfl]
@[simp] theorem link_floorHeaderIfChanged : (floorHeaderIfChanged s t).link l = t.link l := by
  simp only [State.link, erase_keeps_links (erase_floorHeaderIfChanged (s := t) (t := s) (k := allBut [.links]) (by decide)) rfl]
@[simp] theorem carrier_floorHeaderIfChanged (c : Channel) : (floorHeaderIfChanged s t).carrier l c = t.carrier l c := by
  simp only [State.carrier, erase_keeps_carriers (erase_floorHeaderIfChanged (s := t) (t := s) (k := allBut [.carriers]) (by decide)) rfl]
@[simp] theorem floorHeaderIfChanged_roster : (floorHeaderIfChanged s t).roster = t.roster :=
  erase_keeps_roster (erase_floorHeaderIfChanged (s := t) (t := s) (k := allBut [.roster]) (by decide)) rfl

theorem link_applyRecord (r : SeatRecord) : (s.applyRecord i r).link l = (s.loadConfig i r).link l := by
  rw [applyRecord_eq]; simp
theorem carrier_applyRecord (r : SeatRecord) (c : Channel) : (s.applyRecord i r).carrier l c = (s.configured i r).carrier l c := by
  rw [applyRecord_eq]; simp [carrier_loadConfig]
theorem applyRecord_roster (r : SeatRecord) : (s.applyRecord i r).roster = s.roster.erase i := by
  rw [applyRecord_eq]; simp [loadConfig_roster]

/-- The seats after a load; the board share of the loaded one follows its publication. -/
theorem seat_applyRecord (r : SeatRecord) : ∃ b : BoardSeat, ∀ j, (s.applyRecord i r).seat j =
    if j = i then { loadedSeat (s.seat i) r s.clock s.generations[r.curve] with board := b } else s.seat j := by
  rw [applyRecord_eq]
  generalize hu : floorHeaderIfChanged s (s.loadConfig i r) = u
  have huj : ∀ j, u.seat j = if j = i then loadedSeat (s.seat i) r s.clock s.generations[r.curve] else s.seat j := fun j => by
    subst hu; rw [seat_floorHeaderIfChanged, seat_loadConfig]
  refine ⟨((u.publishChange i).seat i).board, fun j => ?_⟩
  simp only [seat_publishChange, huj]
  by_cases hj : j = i
  · subst j; by_cases hp : u.publishes i = true <;> simp [hp]
  · simp [hj]

/-! Retiring a seat (R18) -/

/-- A seat's state once a start has retired it. -/
def retiredSeat (x : SeatState) (now : Clock) (gen : Word) : SeatState :=
  { freshSeat x now gen with ctx := { freshContext x.ctx now with active := false }, channel := settledChannel }

theorem seat_retire : (s.retire i).seat j =
    if j = i then retiredSeat (s.seat i) s.clock (s.seatGeneration i) else s.seat j := by
  unfold State.retire; dsimp only
  simp only [seat_setChannel, seat_setCtx, seat_freeCarrier, seat_reinitialise]
  split <;> rfl

/-- A seat made inactive, its mute channel settled. -/
def State.deactivate (s : State) (i : Seat) : State :=
  (s.setCtx i { (s.seat i).ctx with active := false }).setChannel i settledChannel

theorem retire_eq (s : State) (i : Seat) : s.retire i = ((s.reinitialise i).freeCarrier i).deactivate i := rfl

@[simp] theorem link_deactivate : (s.deactivate i).link l = s.link l := rfl
@[simp] theorem carrier_deactivate (c : Channel) : (s.deactivate i).carrier l c = s.carrier l c := rfl
@[simp] theorem deactivate_roster : (s.deactivate i).roster = s.roster := rfl

theorem link_retire : (s.retire i).link l =
    if l = (s.seat i).ctx.link then cancelOn (withdrawFrom (s.link l) i) i else s.link l := by
  rw [retire_eq, link_deactivate, link_freeCarrier, link_reinitialise]

theorem carrier_retire (c : Channel) : (s.retire i).carrier l c =
    if (s.seat i).ctx.active = true ∧ l = (s.seat i).ctx.link ∧ c = (s.seat i).ctx.channel then none else s.carrier l c := by
  rw [retire_eq, carrier_deactivate, carrier_freed]

@[simp] theorem retire_roster : (s.retire i).roster = s.roster.erase i := by rw [retire_eq]; simp
@[simp] theorem retire_clock : (s.retire i).clock = s.clock :=
  erase_keeps_clock (erase_retire (k := allBut [.clock]) (by decide)) rfl
@[simp] theorem retire_layout : (s.retire i).layout = s.layout :=
  erase_keeps_layout (erase_retire (k := allBut [.layout]) (by decide)) rfl
@[simp] theorem retire_generations : (s.retire i).generations = s.generations :=
  erase_keeps_generations (erase_retire (k := allBut [.generations]) (by decide)) rfl

end Sys2Proof.Machine
end

section
/-! PROOFS. The work of the seat orders, said once as loads and acknowledgements of seats, and the law of the Carrier Map. -/

namespace Sys2Proof.Machine

variable {s t : State} {c : Instr} {p : Seat → Prop}

/-! Loads and acknowledgements (R7, R17, R76, R78) -/

/-- The Order Unit's own fields, with the fields that its reads and its answers touch. -/
abbrev fUnit : List Fld := [.reads, .causes, .faultLatch, .worked, .lift, .ram, .badParity, .suspended, .pageA, .pageB, .posting,
  .takings]

/-- All fields but the Order Unit's own. -/
abbrev unitSide : Fld → Bool := fun f => decide (f ∈ fUnit)

/-- `t` follows from `s` by loads of seats that `p` allows, acknowledgements of active seats, and the unit's own work. -/
inductive SeatWork (p : Seat → Prop) : State → State → Prop where
  | other {s t : State} (h : erase unitSide t = erase unitSide s) : SeatWork p s t
  | load (s : State) (i : Seat) (r : SeatRecord) (hp : p i) (h : s.recordRefusal i r = none) : SeatWork p s (s.applyRecord i r)
  | ack (s : State) (i : Seat) (mask : Byte) (h : (s.seat i).ctx.active = true) : SeatWork p s (s.acknowledgeSeat i mask)
  | trans {s t u : State} (h1 : SeatWork p s t) (h2 : SeatWork p t u) : SeatWork p s u

theorem SeatWork.refl (s : State) : SeatWork p s s := .other rfl

theorem SeatWork.mono {p' : Seat → Prop} (hp : ∀ i, p i → p' i) (h : SeatWork p s t) : SeatWork p' s t := by
  induction h with
  | other h => exact .other h
  | load s i r hi h => exact .load s i r (hp i hi) h
  | ack s i mask h => exact .ack s i mask h
  | trans _ _ ih1 ih2 => exact ih1.trans ih2

/-- Seat work and then a change of the unit's own fields. -/
theorem SeatWork.after {s t u : State} (h : SeatWork p s t) (h' : erase unitSide u = erase unitSide t) : SeatWork p s u :=
  h.trans (.other h')

/-- Seat work keeps what loads, acknowledgements and the unit's own work keep. -/
theorem SeatWork.keeps {P : State → Prop} (ho : ∀ s t, P s → erase unitSide t = erase unitSide s → P t)
    (hl : ∀ s i r, P s → p i → s.recordRefusal i r = none → P (s.applyRecord i r))
    (ha : ∀ s i mask, P s → (s.seat i).ctx.active = true → P (s.acknowledgeSeat i mask)) (h : SeatWork p s t) (hs : P s) : P t := by
  induction h with
  | other h => exact ho _ _ hs h
  | load s i r hp h => exact hl s i r hs hp h
  | ack s i mask h => exact ha s i mask hs h
  | trans _ _ ih1 ih2 => exact ih2 (ih1 hs)

theorem seatWork_loadSeatWork {o : Slot} (hp : ∀ i, s.seatOf o.seat = some i → p i) : SeatWork p s (loadSeatWork o s).1 := by
  unfold loadSeatWork; split
  · exact .refl s
  next i hi =>
  split
  · exact .refl s
  dsimp only; split
  · exact .refl s
  split
  · exact .refl s
  split
  · exact .refl s
  · next hr => exact .load s i _ (hp i hi) hr

theorem seatWork_loadOneOfRange {i : Seat} {b : Bulk} (hp : p i) : SeatWork p s (loadOneOfRange i (s, b)).1 := by
  have judge : ∀ u : State, SeatWork p u (judgeOneOfRange i (u, b)).1 := fun u => by
    unfold judgeOneOfRange; dsimp only; split
    · exact .refl u
    split
    · exact .refl u
    · next hr => exact .load u i _ hp hr
  unfold loadOneOfRange; dsimp only; split
  · exact .other (erase_with_reads (by decide))
  · exact ((SeatWork.other (erase_readRecord (by decide))).trans (judge _)).after (erase_with_reads (by decide))

theorem seatWork_bulkSeat (q : State × Bulk) (n : Nat) (hp : ∀ i : Seat, i.val = n → p i) : SeatWork p q.1 (bulkSeat q n).1 := by
  obtain ⟨s, b⟩ := q
  unfold bulkSeat; split
  · exact .refl s
  next i hi =>
  have hin : i.val = n := by
    unfold seatOfNat at hi; split at hi <;> cases hi; rfl
  dsimp only; split
  · exact seatWork_loadOneOfRange (hp i hin)
  · unfold ackOneOfAll; dsimp only; split
    · next ha => exact .ack s i _ ha
    · exact .refl s

theorem seatWork_foldl (l : List Nat) (hp : ∀ n ∈ l, ∀ i : Seat, i.val = n → p i) (q : State × Bulk) :
    SeatWork p q.1 (l.foldl bulkSeat q).1 := by
  induction l generalizing q with
  | nil => exact .refl _
  | cons n l ih =>
    exact (seatWork_bulkSeat q n (hp n List.mem_cons_self)).trans (ih (fun m hm => hp m (List.mem_cons_of_mem _ hm)) _)

theorem seatWork_workSlice {w : PageWork} {b : Bulk} (hp : ∀ i : Seat, i.val < b.sliceEnd → p i) : SeatWork p s (s.workSlice w b) := by
  have hs : SeatWork p s (s.slice b).1 := seatWork_foldl _ (fun n hn i hi => hp i (by
    rw [List.mem_range'_1] at hn; omega)) (s, b)
  unfold State.workSlice; dsimp only; split
  · exact hs.after (erase_finishOrder (by decide))
  · exact hs.after (erase_with_worked (by decide))

/-- The seats that a bulk order in hand may visit in its slice. -/
def Bulk.visits (b : Bulk) (i : Seat) : Prop := i.val < b.stop ∨ b.atBoundary = false ∧ i.val < b.sliceEnd

theorem seatWork_bulkOn {w : PageWork} {b : Bulk} (hp : ∀ i, b.visits i → p i) : SeatWork p s (s.bulkOn w b) := by
  unfold State.bulkOn; split
  · split
    · exact .other (erase_boundaryCut (by decide) (by assumption))
    split
    · exact .other (erase_suspend (by decide))
    · refine SeatWork.trans (.other (erase_with_reads (x := []) (by decide))) (seatWork_workSlice fun i hi => hp i (.inl ?_))
      simp only [Bulk.opened] at hi; omega
  · next hb => exact seatWork_workSlice fun i hi => hp i (.inr ⟨by simpa using hb, hi⟩)

/-- Working a slot is the unit's own work, then its order's, then the unit's own again. -/
theorem workSlot_rel {R : State → State → Prop} {takes : Word → Bool} {work : PageWork → Slot → State → State × Option OrderEnd}
    (trans : ∀ s t u, R s t → R t u → R s u) (own : ∀ s t, erase unitSide t = erase unitSide s → R s t)
    (hw : ∀ w o t, t.layout = s.layout → R t (work w o t).1) : R s (workSlot takes work s) := by
  unfold workSlot; split
  · exact own _ _ rfl
  split
  · rename_i w _ _
    have he : erase unitSide (s.enterSlot w) = erase unitSide s := erase_enterSlot (by decide)
    have hl : (s.enterSlot w).layout = s.layout := erase_keeps_layout he rfl
    refine trans _ _ _ (own _ _ he) ?_
    generalize s.enterSlot w = u at hl
    unfold workEntered; dsimp only
    split
    · exact own _ _ (erase_finishOrder (by decide))
    split
    · exact own _ _ (erase_finishOrder (by decide))
    split <;> rename_i heq
    · have := hw { w with begun := true } (slotOf (valuesOf (u.reads.take 3))) u hl
      rw [heq] at this; exact trans _ _ _ this (own _ _ (erase_finishOrder (by decide)))
    · have := hw { w with begun := true } (slotOf (valuesOf (u.reads.take 3))) u hl
      rw [heq] at this; exact this
  · exact own _ _ rfl

theorem seatWork_workSlot {takes : Word → Bool} {work : PageWork → Slot → State → State × Option OrderEnd}
    (hw : ∀ w o t, t.layout = s.layout → SeatWork p t (work w o t).1) : SeatWork p s (workSlot takes work s) :=
  workSlot_rel (fun _ _ _ => .trans) (fun _ _ => .other) hw

/-- A law that the unit's own work and an order's keep is kept by working a slot. -/
theorem workSlot_keeps {P : State → Prop} {takes : Word → Bool} {work : PageWork → Slot → State → State × Option OrderEnd}
    (own : ∀ s t, erase unitSide t = erase unitSide s → P s → P t) (hw : ∀ w o t, P t → P (work w o t).1) (hs : P s) :
    P (workSlot takes work s) :=
  workSlot_rel (R := fun s t => P s → P t) (fun _ _ _ h1 h2 h => h2 (h1 h)) own (fun w o t _ => hw w o t) hs

theorem seatOf_lt {w : Word} {i : Seat} (h : s.seatOf w = some i) : i.val < s.layout.seatCount := by
  unfold State.seatOf at h
  split at h
  · split at h
    · cases h; assumption
    · cases h
  · cases h

theorem seatWork_loadSeat (hp : ∀ i : Seat, i.val < s.layout.seatCount → p i) (he : exec .loadSeat s = .next t) : SeatWork p s t := by
  cases he
  exact seatWork_workSlot fun _ o u hl => seatWork_loadSeatWork fun i hi => hp i (hl ▸ seatOf_lt hi)

theorem seatWork_bulkSlice (hp : ∀ w b i, s.worked = some w → w.bulk = some b → b.visits i → p i) (he : exec .bulkSlice s = .next t) :
    SeatWork p s t := by
  cases he
  split
  · exact .refl s
  next w hw =>
  split
  · exact .refl s
  next b hb =>
  split
  · exact seatWork_bulkOn fun i => hp w b i hw hb
  · exact .refl s

theorem seatWork_share {w : PageWork} {b : Bulk} (hp : ∀ i, b.visits i → p i) (hr : s.shareReady b = true) :
    SeatWork p s { (bulkSeat (s, b) b.cursor).1 with
      worked := some { w with bulk := some { (bulkSeat (s, b) b.cursor).2 with cursor := b.cursor + 1 } } } := by
  simp only [State.shareReady, Bool.and_eq_true, beq_iff_eq, Bool.not_eq_true', decide_eq_true_eq, Option.isNone_iff_eq_none] at hr
  obtain ⟨⟨⟨-, hb⟩, hc⟩, -⟩ := hr
  exact (seatWork_bulkSeat (s, b) b.cursor fun i hi => hp i (.inr ⟨hb, by omega⟩)).after (erase_with_worked (by decide))

/-! Laws that look at a part of the state alone -/

/-- What a coarse frame keeps, a finer one keeps. -/
theorem erase_mono {k k' : Fld → Bool} (h : ∀ f, k f = true → k' f = true) (he : erase k t = erase k s) : erase k' t = erase k' s := by
  have e : ∀ (f : Fld) {α : Type} (a b : α), (bif k' f then a else bif k f then a else b) = bif k' f then a else b := fun f _ a b => by
    cases h1 : k' f
    · rw [Bool.eq_false_iff.2 fun h2 => Bool.eq_false_iff.1 h1 (h f h2)]; rfl
    · rfl
  have fold : ∀ u : State, erase k' (erase k u) = erase k' u := fun u => by simp only [erase, e]
  rw [← fold t, he, fold]

/-- The same, for frames given by lists. -/
theorem erase_widen {k k' : Fld → Bool} (h : (allFields.all fun f => !k f || k' f) = true) (he : erase k t = erase k s) :
    erase k' t = erase k' s :=
  erase_mono (fun f hf => by simpa [hf] using List.all_eq_true.mp h f (mem_allFields f)) he

/-- The law `P` looks at the fields of `L` and, in the seats, at the shares that `q` does not name. -/
def LooksAt (P : State → Prop) (L : List Fld) (q : SFld → Bool) : Prop :=
  ∀ s t : State, erase (allBut L) t = erase (allBut L) s → SeatFrame q s t → P s → P t

section
variable {P : State → Prop} {L : List Fld} {q : SFld → Bool}

/-- An event that leaves those fields and the seats alone keeps the law. -/
theorem LooksAt.still (hP : LooksAt P L q) (h : erase (allBut (.seats :: L)) t = erase (allBut (.seats :: L)) s) (hs : P s) : P t :=
  hP s t (erase_mono (fun f hf => by simp only [allBut, List.mem_cons, Bool.not_eq_true', decide_eq_false_iff_not, not_or] at hf ⊢
                                     exact hf.2) h)
    (.of_erase (erase_mono (fun f hf => by simpa [allBut, noSeats, List.mem_cons] using fun e => by simp [e, allBut] at hf) h)) hs

/-- A command that leaves them alone keeps the law. -/
theorem LooksAt.exec (hP : LooksAt P L q) (h1 : (fieldsOf c).all (allBut L) = true) (h2 : (sharesOf c).all q = true)
    (he : exec c s = .next t) (hs : P s) : P t :=
  hP s t (erase_exec (opens_of_all h1) he) (seatFrame_exec (sopens_of_all h2) he) hs

/-- The commands but the resets and the register writes, which do what the other commands do. -/
def Instr.own : Instr → Bool
  | .powerOnReset | .softReset _ | .registerWrite _ _ => false
  | _ => true

/-- What the resets and the other commands keep, every command keeps. -/
theorem exec_keeps (h1 : P s.powerOn) (h2 : P s.softReset) (hs : P s) (hc : ∀ c, Instr.own c = true → exec c s = .next t → P t)
    (he : exec c s = .next t) : P t := by
  have softReset : ∀ {x}, Machine.exec (.softReset x) s = .next t → P t := fun {x} h => by
    rw [exec_softReset] at h; cases h
    split
    · exact hs
    · exact h2
  cases c
  case powerOnReset => cases he; exact h1
  case softReset => exact softReset he
  case registerWrite r v =>
    cases r
    case control =>
      rcases exec_control_cases he with h | h | h | h
      · exact hc _ rfl h
      · exact hc _ rfl h
      · exact hc _ rfl h
      · exact softReset h
    case status => exact hc (.statusWrite v) rfl he
    case faultKind => exact hc (.faultKindWrite v) rfl he
    case faultAddress => cases he; exact hs
    case ident => cases he; exact hs
  all_goals exact hc _ rfl he

/-- The fields that the accesses of the part's own change, less what the share of a bulk order changes. -/
abbrev fOwnAccess : List Fld := [.seats, .ram, .badParity, .clearNext, .reads, .causes, .faultLatch, .worked, .boardWrites, .changeList, .writePos,
  .fillCount, .owedCount]

/-- A law that looks at no field of the accesses and at no list flag is kept by them, if seat work keeps it. -/
theorem LooksAt.access (hP : LooksAt P L q) (hL : fOwnAccess.all (allBut L) = true) (hq : qList.all q = true)
    (hw : ∀ w b, s.worked = some w → w.bulk = some b → SeatWork b.visits s t → P t) (ha : Access s t) (hs : P s) : P t := by
  have hL := opens_of_all hL
  have hq := sopens_of_all hq
  cases ha with
  | idle => exact hs
  | clear =>
    exact hP _ _ ((erase_with_clearNext (hL _ (by decide))).trans (erase_putWord (hL.mono (by decide)))) (.of_seats rfl) hs
  | read a => exact hP _ _ (erase_readOne (hL.mono (by decide))) (.of_erase (erase_readOne (by decide))) hs
  | begin w => exact hP _ _ (erase_beginSlot (hL.mono (by decide))) (.of_erase (erase_beginSlot (by decide))) hs
  | share w b hw1 hb _ hr => exact hw w b hw1 hb (seatWork_share (fun _ h => h) hr)
  | opening w b =>
    exact hP s _ (by simp only [erase, hL .worked (by decide), hL .reads (by decide), cond_true]) (.of_seats rfl) hs
  | board e =>
    exact hP _ _ ((erase_askNextWord (hL.mono (by decide))).trans (erase_boardWord (hL.mono (by decide))))
      ((seatFrame_boardWord hq).trans (.of_erase (erase_askNextWord (by decide)))) hs

end

/-! The steps of a successful start -/

theorem foldl_keeps {α : Type} {P : State → Prop} {f : State → α → State} (hf : ∀ s a, P s → P (f s a)) :
    ∀ (l : List α) (s : State), P s → P (l.foldl f s)
  | [], _, h => h
  | a :: l, s, h => foldl_keeps hf l (f s a) (hf s a h)

/-- What retirements and the floor rules of a start keep. -/
theorem startSeats_keeps {P : State → Prop} {rs : List ReadWord} (hr : ∀ t i, P t → P (t.retire i))
    (hf : ∀ (t : State) ws, P t → P (t.startFloorRules (directoryOf ws))) (h : P (s.startStores rs)) : P (s.startSeats rs) :=
  hf _ _ (foldl_keeps hr _ _ h)

/-- What the publications and the cause at the end of a start keep. -/
theorem succeedStart_keeps {P : State → Prop} {rs : List ReadWord} (hp : ∀ t i, P t → P (t.publishChange i))
    (hr : ∀ t : State, P t → P (t.raise .started)) (h : P (s.startEntered rs)) : P (s.succeedStart rs) := by
  rw [succeedStart_eq]; exact hr _ (foldl_keeps hp _ _ h)

/-- The fields that a start changes outside its retirements and its floor rules. -/
abbrev fStarted : List Fld := [.scanPeriod, .refreshInterval, .startResult, .layout, .classes, .curves, .generations] ++ fEnter ++ [.causes, .boardWrites]

/-- A law that looks at no field of a start and at no list flag is kept by the end of CHECKING, if retirements and the floor
rules of a start keep it. -/
theorem LooksAt.endChecking {P : State → Prop} {L : List Fld} {q : SFld → Bool} (hP : LooksAt P L q)
    (hL : fStarted.all (allBut L) = true) (hq : qList.all q = true) (hr : ∀ t i, P t → P (t.retire i))
    (hf : ∀ (t : State) ws, P t → P (t.startFloorRules (directoryOf ws))) (hs : P s) : P s.endChecking := by
  have hL := opens_of_all hL
  have hq := sopens_of_all hq
  have hj : P s.startJudged :=
    hP _ _ ((erase_takeSetup (hL.mono (by decide))).trans (erase_readOn (hL.mono (by decide)) _ _))
      (.of_erase ((erase_takeSetup (by decide)).trans (erase_readOn (by decide) _ _))) hs
  rw [endChecking_eq]; split
  · have h1 : P (s.startJudged.startStores s.startReads) := by
      refine hP s.startJudged _ ?_ (.of_seats rfl) hj
      simp only [erase, State.startStores, State.replaceStores, hL .startResult (by decide), hL .layout (by decide),
        hL .reads (by decide), hL .classes (by decide), hL .curves (by decide), hL .generations (by decide), cond_true]
    have h2 : P (s.startJudged.startSeats s.startReads) := startSeats_keeps hr hf h1
    have h3 : P (s.startJudged.startEntered s.startReads) :=
      hP _ _ (erase_enterRunning (hL.mono (by decide))) (seatFrame_enterRunning hq) h2
    refine succeedStart_keeps (fun t i h => ?_) (fun t h => ?_) h3
    · exact hP _ _ (erase_publishChange (hL.mono (by decide))) (seatFrame_publishChange (hq.mono (by decide))) h
    · exact hP _ _ (erase_raise (hL.mono (by decide))) (.of_seats rfl) h
  · exact hP _ _ (erase_failStart (hL.mono (by decide))) (.of_seats rfl) hj

/-! The Carrier Map (O6) -/

/-- The law looks at the Carrier Map and at the active flag and the carrier of each seat. -/
theorem carrierLaw_of_frame {q : SFld → Bool} (hs : s.carrierLaw) (h : t.carriers = s.carriers) (hq : SeatFrame q s t)
    (h1 : q .active = false) (h2 : q .link = false) (h3 : q .channel = false) : t.carrierLaw := fun l c i => by
  rw [hq.active i h1, hq.link i h2, hq.channel i h3]
  simpa only [State.carrier, h] using hs l c i

/-- The shares that the law of the Carrier Map looks at. -/
abbrev qCarrier : SFld → Bool := fun f => f != .active && f != .link && f != .channel

theorem carrierLaw_retire (hs : s.carrierLaw) (i : Seat) : (s.retire i).carrierLaw := fun l c j => by
  rw [carrier_retire, seat_retire]
  by_cases hj : j = i
  · subst j
    have := hs l c i
    simp only [if_true, retiredSeat]
    split
    · simp
    · next h => rw [this]; simp only [Bool.false_eq_true, false_and, iff_false]; rintro ⟨ha, rfl, rfl⟩; exact h ⟨ha, rfl, rfl⟩
  · rw [if_neg hj]
    split
    · next h =>
      obtain ⟨ha, rfl, rfl⟩ := h
      have hi := (hs _ _ i).2 ⟨ha, rfl, rfl⟩
      rw [← hs, hi]
      simpa using fun e => hj e.symm
    · exact hs l c j

/-- A record that passes its checks names a carrier that is free, or the seat's own. -/
theorem carrier_of_recordRefusal {i j : Seat} {r : SeatRecord} (h : s.recordRefusal i r = none) (ha : r.active = true)
    (hc : s.carrier r.link r.channel = some j) : j = i := by
  unfold State.recordRefusal at h
  rw [if_neg (by simp [ha])] at h
  split at h
  · cases h
  rw [hc] at h; dsimp only at h
  split at h
  · assumption
  · cases h

theorem carrierLaw_applyRecord {i : Seat} {r : SeatRecord} (hs : s.carrierLaw) (hr : s.recordRefusal i r = none) :
    (s.applyRecord i r).carrierLaw := fun l c j => by
  obtain ⟨b, hseat⟩ := seat_applyRecord (s := s) (i := i) r
  rw [carrier_applyRecord, hseat, carrier_configured]
  by_cases hj : j = i
  · subst j
    simp only [if_true, loadedSeat, loadedContext]
    split
    · next h => obtain ⟨ha, rfl, rfl⟩ := h; simp [ha]
    · next h =>
      have hn : ¬ (r.active = true ∧ r.link = l ∧ r.channel = c) := fun ⟨h1, h2, h3⟩ => h ⟨h1, h2.symm, h3.symm⟩
      simp only [hn, iff_false]
      split
      · simp
      · next h' => rw [hs]; rintro ⟨h1, h2, h3⟩; exact h' ⟨h1, h2.symm, h3.symm⟩
  · rw [if_neg hj]
    split
    · next h =>
      obtain ⟨ha, rfl, rfl⟩ := h
      rw [← hs]
      refine ⟨fun e => absurd (Option.some.inj e).symm hj, fun e => absurd (carrier_of_recordRefusal hr ha e) hj⟩
    split
    · next h =>
      obtain ⟨ha, rfl, rfl⟩ := h
      rw [← hs, (hs _ _ i).2 ⟨ha, rfl, rfl⟩]
      simpa using fun e => hj e.symm
    · exact hs l c j

theorem carrierLaw_seatWork (h : SeatWork p s t) (hs : s.carrierLaw) : t.carrierLaw := by
  refine h.keeps (P := State.carrierLaw) (fun s t hs he => ?_) (fun s i r hs _ hr => carrierLaw_applyRecord hs hr)
    (fun s i mask hs _ => ?_) hs
  · exact carrierLaw_of_frame hs (erase_keeps_carriers he rfl) (q := qCarrier) (.of_seats (erase_keeps_seats he rfl)) rfl rfl rfl
  · exact carrierLaw_of_frame hs (erase_keeps_carriers (erase_acknowledgeSeat (k := allBut [.carriers]) (by decide)) rfl)
      (q := qCarrier) (seatFrame_acknowledgeSeat (by decide)) rfl rfl rfl

theorem carrierLaw_reset (h1 : t.carriers = State.reset.carriers) (h2 : t.seats = State.reset.seats) : t.carrierLaw := fun l c i => by
  simp [State.carrier, State.seat, h1, h2, State.reset, resetSeat, resetContext]

theorem carrierLaw_looksAt : LooksAt State.carrierLaw [.carriers] qCarrier := fun _ _ he hq hs =>
  carrierLaw_of_frame hs (erase_keeps_carriers he rfl) hq rfl rfl rfl

theorem carrierLaw_exec (hs : s.carrierLaw) (he : exec c s = .next t) : t.carrierLaw := by
  refine exec_keeps (P := State.carrierLaw) (carrierLaw_reset rfl rfl) (carrierLaw_reset rfl rfl) hs (fun c ho he => ?_) he
  cases c
  case checkingEnd =>
    cases he; split
    · exact carrierLaw_looksAt.endChecking rfl rfl (fun _ i h => carrierLaw_retire h i) (fun _ _ h => h) hs
    · exact hs
  case loadSeat => exact carrierLaw_seatWork (p := fun _ => True) (seatWork_loadSeat (fun _ _ => trivial) he) hs
  case bulkSlice => exact carrierLaw_seatWork (p := fun _ => True) (seatWork_bulkSlice (fun _ _ _ _ _ _ => trivial) he) hs
  case powerOnReset | softReset | registerWrite => cases ho
  all_goals exact carrierLaw_looksAt.exec rfl rfl he hs

/-- Settles O6: loads and retirements write the Carrier Map with the seat that they configure; nothing else does. -/
theorem stepKeepsCarrierLaw : Obligations.StepKeepsCarrierLaw := by
  unfold Obligations.StepKeepsCarrierLaw
  intro s t hs h
  exact step_keeps (P := State.carrierLaw) (fun _ _ h => h)
    (fun _ _ hs ha => carrierLaw_looksAt.access rfl rfl (fun _ _ _ _ h => carrierLaw_seatWork h hs) ha hs)
    (fun _ _ _ hs he => carrierLaw_exec hs he) hs h

end Sys2Proof.Machine
end

section
/-! PROOFS. The laws of the monitors under every step (R60 to R66, R76 to R79). -/

namespace Sys2Proof.Machine

variable {s t : State} {c : Instr} {i : Seat} {m : Monitor}

/-! One monitor -/

/-- A monitor in the state CLEAR with counter 0, as every monitor of an inactive seat is. -/
abbrev Monitor.idle (m : Monitor) : Prop := m.state = .clear ∧ m.n = 0

theorem lawful_clearMonitor : clearMonitor.lawful := by decide
theorem idle_clearMonitor : clearMonitor.idle := by decide

theorem lawful_acknowledged (h : m.lawful) : (acknowledged m).lawful := by
  obtain ⟨hn, ha, hr⟩ := h
  unfold acknowledged
  split <;> simp_all [Monitor.lawful]

theorem lawful_onsetAt {n k : Nat} (h : m.lawful) (hm : m.state = .clear ∨ m.state = .onset) (hn : n ≠ 0) : (onsetAt m n k).lawful := by
  obtain ⟨-, ha, hr⟩ := h
  unfold onsetAt
  rcases hm with hm | hm <;> split <;> simp_all [Monitor.lawful]

theorem lawful_easingAt {n k : Nat} {a : Bool} (hr : m.rep = true → a = false) (hn : n ≠ 0) :
    (easingAt m n k a).lawful := by
  unfold easingAt
  cases a <;> split <;> simp_all [Monitor.lawful]

theorem lawful_persist {r k : Nat} {v : Bool} (h : m.lawful) : (persist r k v m).lawful := by
  obtain ⟨hn, ha, hr⟩ := id h
  unfold persist
  split <;> rename_i hm
  · exact lawful_onsetAt h (.inl hm) (by decide)
  · exact h
  · exact lawful_onsetAt h (.inr hm) (Nat.succ_ne_zero _)
  · simp_all [Monitor.lawful]
  · exact h
  · exact lawful_easingAt (fun _ => rfl) (by decide)
  · exact h
  · exact lawful_easingAt (by simp_all) (by decide)
  · cases hk : m.ack <;> simp_all [Monitor.lawful]
  · exact lawful_easingAt (by simp_all) (Nat.succ_ne_zero _)
  · simp_all [Monitor.lawful]
  · exact h

theorem lawful_monitorAt {r k : Nat} {v : Option Bool} (h : m.lawful) : (monitorAt r k v m).lawful := by
  unfold monitorAt; split
  · exact lawful_clearMonitor
  split
  · exact h
  · exact lawful_persist h

/-! The monitors of a seat -/

/-- The law, closed to unfolding: its proofs go by the lemmas below. -/
@[irreducible] def State.MonitorsLawful (s : State) : Prop := s.monitorLaw

theorem monitors_law : s.MonitorsLawful ↔ s.monitorLaw := by unfold State.MonitorsLawful; rfl

/-- The law, monitor by monitor. -/
theorem monitors_iff : s.MonitorsLawful ↔
    ∀ (i : Seat) (c : Fin 8), (s.seat i).monitors[c].lawful ∧ ((s.seat i).ctx.active = false → (s.seat i).monitors[c].idle) := by
  have mem : ∀ (v : Vector Monitor 8) (p : Monitor → Prop), (∀ m ∈ v.toList, p m) ↔ ∀ c : Fin 8, p v[c] := fun v p => by
    simp only [Vector.mem_toList_iff, Vector.forall_mem_iff_forall_getElem]
    exact ⟨fun h c => h c.val c.isLt, fun h n hn => h ⟨n, hn⟩⟩
  simp only [monitors_law, State.monitorLaw, mem]
  exact ⟨fun h i c => ⟨(h i).1 c, fun ha => (h i).2 ha c⟩, fun h i => ⟨fun c => (h i c).1, fun ha c => (h i c).2 ha⟩⟩

/-- The shares that the law looks at. -/
abbrev qMonitor : SFld → Bool := fun f => f != .active && f != .monitors

theorem monitors_looksAt : LooksAt State.MonitorsLawful [] qMonitor := fun s t _ hq hs => by
  rw [monitors_iff] at hs ⊢
  intro i c
  rw [hq.active i rfl, hq.monitors i rfl]; exact hs i c

theorem monitors_of_seats (h : t.seats = s.seats) (hs : s.MonitorsLawful) : t.MonitorsLawful := by
  rw [monitors_iff] at hs ⊢
  simpa only [State.seat, h] using hs

/-- Where a seat changes, its monitors are lawful and, while it is inactive, idle; every other seat is as before. -/
theorem monitors_of_seat (hs : s.MonitorsLawful) (i : Seat) (ho : ∀ j, j ≠ i → (t.seat j).ctx.active = (s.seat j).ctx.active
      ∧ (t.seat j).monitors = (s.seat j).monitors)
    (hi : ∀ c : Fin 8, (t.seat i).monitors[c].lawful ∧ ((t.seat i).ctx.active = false → (t.seat i).monitors[c].idle)) : t.MonitorsLawful := by
  rw [monitors_iff] at hs ⊢
  intro j c
  by_cases hj : j = i
  · subst j; exact hi c
  · rw [(ho j hj).1, (ho j hj).2]; exact hs j c

/-- New monitors for one seat. -/
theorem monitors_setMonitors {ms : Vector Monitor 8} (hs : s.MonitorsLawful)
    (hi : ∀ c : Fin 8, ms[c].lawful ∧ ((s.seat i).ctx.active = false → ms[c].idle)) : (s.setMonitors i ms).MonitorsLawful :=
  monitors_of_seat hs i (fun j hj => by simp [seat_setMonitors, hj]) (by simpa [seat_setMonitors] using hi)

theorem monitors_publishVisible {b : State} {is : List Seat} (hs : s.MonitorsLawful) : (publishVisible b s is).MonitorsLawful :=
  monitors_looksAt _ _ (erase_publishVisible (by decide)) (seatFrame_publishVisible (by decide)) hs

theorem monitors_publishChange (hs : s.MonitorsLawful) : (s.publishChange i).MonitorsLawful :=
  monitors_looksAt _ _ (erase_publishChange (by decide)) (seatFrame_publishChange (by decide)) hs

theorem monitors_clearMonitors (hs : s.MonitorsLawful) : (s.clearMonitors i).MonitorsLawful :=
  monitors_setMonitors hs fun c => by
    rw [Fin.getElem_fin, Vector.getElem_replicate]; exact ⟨lawful_clearMonitor, fun _ => idle_clearMonitor⟩

theorem monitors_clearBatteryMonitors (hs : s.MonitorsLawful) : (s.clearBatteryMonitors i).MonitorsLawful :=
  monitors_setMonitors hs fun c => by
    have hc := monitors_iff.1 hs i c
    simp only [Fin.getElem_fin, Vector.getElem_set]
    split
    · exact ⟨lawful_clearMonitor, fun _ => idle_clearMonitor⟩
    split
    · exact ⟨lawful_clearMonitor, fun _ => idle_clearMonitor⟩
    · exact hc

theorem monitors_restartEstimator (hs : s.MonitorsLawful) : (s.restartEstimator i).MonitorsLawful :=
  monitors_clearBatteryMonitors (monitors_looksAt _ _ (erase_setEstimator (by decide)) (seatFrame_setEstimator (by decide)) hs)

theorem monitors_acknowledgeSeat {mask : Byte} (hs : s.MonitorsLawful) (ha : (s.seat i).ctx.active = true) :
    (s.acknowledgeSeat i mask).MonitorsLawful := by
  refine monitors_publishVisible (monitors_setMonitors hs fun c => ⟨?_, by simp [ha]⟩)
  have hc := (monitors_iff.1 hs i c).1
  simp only [ackMonitors, Fin.getElem_fin, Vector.getElem_mapFinIdx]
  split
  · exact lawful_acknowledged hc
  · exact hc

/-! Loads, retirements, reports and evaluations -/

theorem monitors_applyRecord {r : SeatRecord} (hs : s.MonitorsLawful) : (s.applyRecord i r).MonitorsLawful := by
  obtain ⟨b, h⟩ := seat_applyRecord (s := s) (i := i) r
  refine monitors_of_seat hs i (fun j hj => by simp [h, hj]) fun c => ?_
  simp only [h, if_true, loadedSeat, Fin.getElem_fin, Vector.getElem_replicate]
  exact ⟨lawful_clearMonitor, fun _ => idle_clearMonitor⟩

theorem monitors_retire (hs : s.MonitorsLawful) : (s.retire i).MonitorsLawful :=
  monitors_of_seat hs i (fun j hj => by simp [seat_retire, hj]) fun c => by
    simp only [seat_retire, if_true, retiredSeat, freshSeat, Fin.getElem_fin, Vector.getElem_replicate]
    exact ⟨lawful_clearMonitor, fun _ => idle_clearMonitor⟩

theorem monitors_seatWork {p : Seat → Prop} (h : SeatWork p s t) (hs : s.MonitorsLawful) : t.MonitorsLawful :=
  h.keeps (P := State.MonitorsLawful) (fun _ _ hs he => monitors_looksAt.still (erase_widen (by decide) he) hs)
    (fun _ _ _ hs _ _ => monitors_applyRecord hs) (fun _ _ _ hs ha => monitors_acknowledgeSeat hs ha) hs

theorem monitors_batteryArrival {fresh valid : Bool} {v : Nat} (hs : s.MonitorsLawful) :
    (s.batteryArrival i fresh valid v).MonitorsLawful := by
  have h : ∀ e, (s.setEstimator i e).MonitorsLawful := fun e =>
    monitors_looksAt _ _ (erase_setEstimator (by decide)) (seatFrame_setEstimator (by decide)) hs
  unfold State.batteryArrival
  dsimp only
  split
  · exact monitors_clearBatteryMonitors (h _)
  · exact h _

theorem monitors_acceptReport {r : Report} (hs : s.MonitorsLawful) : (s.acceptReport i r).MonitorsLawful := by
  unfold State.acceptReport
  refine monitors_looksAt _ _ (erase_muteArrival (by decide)) (seatFrame_muteArrival (by decide)) (monitors_batteryArrival ?_)
  refine monitors_looksAt _ _ (erase_setTracker (by decide)) (seatFrame_setTracker (by decide)) ?_
  exact monitors_looksAt _ _ (erase_setCtx (by decide)) (seatFrame_setSeat rfl) hs

theorem monitors_markForeign (hs : s.MonitorsLawful) : (s.setCtx i { (s.seat i).ctx with foreignSeen := true }).MonitorsLawful :=
  monitors_looksAt _ _ (erase_setCtx (by decide)) (seatFrame_setSeat rfl) hs

theorem monitors_judgeReport {l : LinkId} {r : Report} (hs : s.MonitorsLawful) : (s.judgeReport l r).MonitorsLawful := by
  unfold State.judgeReport; split
  · exact monitors_looksAt.still (erase_countDiscard (by decide)) hs
  split
  · exact monitors_publishVisible (monitors_acceptReport hs)
  · exact monitors_markForeign (monitors_looksAt.still (erase_countDiscard (by decide)) hs)

theorem monitors_takeReport {l : LinkId} (hs : s.MonitorsLawful) : (s.takeReport l).MonitorsLawful := by
  unfold State.takeReport; split
  · exact hs
  · exact monitors_judgeReport (monitors_of_seats (s := s) rfl hs)

theorem monitors_batteryWork {b : Bool} (hs : s.MonitorsLawful) : (s.batteryWork i b).MonitorsLawful := by
  have h : (s.generationCheck i).MonitorsLawful := by
    unfold State.generationCheck; split
    · exact hs
    · exact monitors_restartEstimator hs
  exact monitors_looksAt _ _ (erase_setEstimator (by decide)) (seatFrame_setEstimator (by decide)) h

theorem monitors_signalWork {b : Bool} (hs : s.MonitorsLawful) : (s.signalWork i b).MonitorsLawful := by
  unfold State.signalWork
  exact monitors_looksAt _ _ (erase_setTracker (by decide)) (seatFrame_setTracker (by decide)) hs

theorem monitors_blockWork {b : Bool} (hs : s.MonitorsLawful) : (s.blockWork i b).MonitorsLawful := by
  unfold State.blockWork
  refine monitors_looksAt _ _ (erase_deadlineCheck (by decide)) (seatFrame_deadlineCheck (by decide)) ?_
  refine monitors_batteryWork ?_
  refine monitors_signalWork ?_
  exact monitors_looksAt _ _ (erase_seatStoreWork (by decide)) (seatFrame_seatStoreWork (by decide)) hs

theorem monitors_monitorWork {b : Bool} (hs : s.MonitorsLawful) (ha : (s.seat i).ctx.active = true) : (s.monitorWork i b).MonitorsLawful :=
  monitors_setMonitors hs fun c => ⟨by
    simp only [Fin.getElem_fin, Vector.getElem_ofFn]
    exact lawful_monitorAt (monitors_iff.1 hs i c).1, by simp [ha]⟩

theorem monitors_judgeSeat (hs : s.MonitorsLawful) (ha : (s.seat i).ctx.active = true) : (s.judgeSeat i).MonitorsLawful := by
  have hb : (s.blockWork i (s.isSilent i)).MonitorsLawful := monitors_blockWork hs
  have hq : ((s.blockWork i (s.isSilent i)).seat i).ctx.active = true := by
    rw [(seatFrame_blockWork (q := fun f => f != .active) (by decide)).active i rfl, ha]
  unfold State.judgeSeat
  generalize s.blockWork i (s.isSilent i) = u at hb hq
  exact monitors_monitorWork hb hq

theorem nextActive_active {k : Nat} (h : s.nextActive k = some i) : (s.seat i).ctx.active = true := by
  have := List.find?_some h
  simp only [Bool.and_eq_true] at this
  exact this.2

theorem monitors_evaluate (hs : s.MonitorsLawful) (ha : (s.seat i).ctx.active = true) : (s.evaluate i).MonitorsLawful := by
  have h := monitors_judgeSeat hs ha
  unfold State.evaluate publishEvaluation
  split
  · split
    · exact monitors_looksAt.still (erase_publishRefresh (by decide)) h
    · exact h
  · exact monitors_publishChange h

theorem monitors_passOn (hs : s.MonitorsLawful) : s.passOn.MonitorsLawful := by
  unfold State.passOn; split
  · exact hs
  split
  · exact monitors_of_seats (s := s) rfl hs
  next j hj =>
  exact monitors_looksAt.still (erase_settlePass (by decide)) (monitors_of_seats (s := s.evaluate j) rfl (monitors_evaluate hs (nextActive_active hj)))

/-! Every step -/

theorem monitors_onActiveSeat {o : Slot} {work : Seat → State × OrderEnd}
    (hw : ∀ i, (s.seat i).ctx.active = true → (work i).1.MonitorsLawful) (hs : s.MonitorsLawful) : (onActiveSeat o s work).1.MonitorsLawful := by
  unfold onActiveSeat; split
  · exact hs
  split
  · exact hw _ (by assumption)
  · exact hs

theorem monitors_evaluateWhen {b : Bool} (hs : s.MonitorsLawful) : (s.evaluateWhen i b).MonitorsLawful := by
  unfold State.evaluateWhen; split
  · exact monitors_passOn hs
  · exact hs

theorem monitors_exec (hs : s.MonitorsLawful) (he : exec c s = .next t) : t.MonitorsLawful := by
  have reset : ∀ u : State, u.seats = State.reset.seats → u.MonitorsLawful := fun u h => monitors_iff.2 fun i c => by
    simp only [State.seat, h, State.reset, resetSeat, Fin.getElem_fin, Vector.getElem_replicate]
    exact ⟨lawful_clearMonitor, fun _ => idle_clearMonitor⟩
  have order : ∀ {takes work}, (∀ w o u, u.MonitorsLawful → (work w o u).1.MonitorsLawful) → (workSlot takes work s).MonitorsLawful := fun h =>
    workSlot_keeps (P := State.MonitorsLawful) (fun _ _ he => monitors_looksAt.still (erase_widen (by decide) he)) h hs
  refine exec_keeps (P := State.MonitorsLawful) (reset _ rfl) (reset _ rfl) hs (fun c ho he => ?_) he
  cases c
  case powerOnReset | softReset | registerWrite => cases ho
  case checkingEnd =>
    cases he; split
    · exact monitors_looksAt.endChecking rfl rfl (fun _ i h => monitors_retire h) (fun u _ h => monitors_of_seats (s := u) rfl h) hs
    · exact hs
  case loadSeat => exact monitors_seatWork (p := fun _ => True) (seatWork_loadSeat (fun _ _ => trivial) he) hs
  case bulkSlice => exact monitors_seatWork (p := fun _ => True) (seatWork_bulkSlice (fun _ _ _ _ _ _ => trivial) he) hs
  case reportTake l =>
    cases he; split
    · exact monitors_takeReport hs
    · exact hs
  case seatEvaluation =>
    cases he; split
    · exact monitors_passOn hs
    · exact hs
  case fadeWindowRollover => cases he; exact monitors_evaluateWhen hs
  case historySample => cases he; exact monitors_evaluateWhen hs
  case confirmationDeadlineExpiry => cases he; exact monitors_evaluateWhen hs
  case acknowledge =>
    cases he
    exact order fun _ _ _ hu => monitors_onActiveSeat (fun _ ha => monitors_acknowledgeSeat hu ha) hu
  case resetWarnings =>
    cases he
    refine order fun _ _ _ hu => monitors_onActiveSeat (fun _ _ => ?_) hu
    split
    · exact hu
    · exact monitors_publishVisible (monitors_clearMonitors hu)
  case restartEstimator =>
    cases he
    exact order fun _ _ _ hu => monitors_onActiveSeat (fun _ _ => monitors_publishVisible (monitors_restartEstimator hu)) hu
  all_goals exact monitors_looksAt.exec rfl rfl he hs

/-- Settles O8: the persistence table and acknowledgement keep each monitor lawful, and only active seats are evaluated or
acknowledged. -/
theorem stepKeepsMonitorLaw : Obligations.StepKeepsMonitorLaw := by
  unfold Obligations.StepKeepsMonitorLaw
  intro s t hs h
  rw [← monitors_law] at hs ⊢
  exact step_keeps (P := State.MonitorsLawful) (fun u _ h => monitors_of_seats (s := u) rfl h)
    (fun _ _ hs ha => monitors_looksAt.access rfl rfl (fun _ _ _ _ h => monitors_seatWork h hs) ha hs)
    (fun _ _ _ hs he => monitors_exec hs he) hs h

end Sys2Proof.Machine
end

section
/-! PROOFS. The law of the Floor Roster under every step (R118 to R126). -/

namespace Sys2Proof.Machine

variable {s t : State} {c : Instr} {i j : Seat}

/-- The shares that the law looks at. -/
abbrev qRoster : SFld → Bool := fun f => f != .active && f != .intent

theorem rosterLaw_looksAt : LooksAt State.rosterLaw [.floorLimit, .roster] qRoster := fun s t he hq hs => by
  simp only [State.rosterLaw, hq.active _ rfl, hq.intent _ rfl, erase_keeps_roster he rfl, erase_keeps_floorLimit he rfl]
  exact hs

/-- A seat leaves the roster and gets the intent MUTED; it alone may change, and may turn inactive. -/
theorem rosterLaw_erase (hs : s.rosterLaw) (hl : t.floorLimit = s.floorLimit) (hr : t.roster = s.roster.erase i)
    (hi : (t.seat i).channel.intent = .muted)
    (ho : ∀ j, j ≠ i → (t.seat j).ctx.active = (s.seat j).ctx.active ∧ (t.seat j).channel.intent = (s.seat j).channel.intent) :
    t.rosterLaw := by
  obtain ⟨h1, h8, hlen, hnd, hact, hint⟩ := hs
  have mem : ∀ j, j ∈ s.roster.erase i ↔ j ≠ i ∧ j ∈ s.roster := fun j => hnd.mem_erase_iff
  rw [State.rosterLaw, hl, hr]
  refine ⟨h1, h8, le_trans List.length_erase_le hlen, hnd.erase i, fun j hj => ?_, fun j => ?_⟩
  · obtain ⟨hne, hj⟩ := (mem j).1 hj
    rw [(ho j hne).1]; exact hact j hj
  · rw [mem]
    by_cases hj : j = i
    · subst j; simp [hi]
    · rw [(ho j hj).2, hint j]; simp [hj]

theorem rosterLaw_takeFloor (hs : s.rosterLaw) : (s.takeFloor i).rosterLaw :=
  rosterLaw_erase (i := i) hs (erase_keeps_floorLimit (erase_takeFloor (k := allBut [.floorLimit]) (by decide)) rfl) takeFloor_roster
    (by simp [seat_takeFloor]) (fun j hj => by simp [seat_takeFloor, hj])

theorem rosterLaw_giveFloor (hs : s.rosterLaw) (ha : (s.seat i).ctx.active = true) (hi : i ∉ s.roster)
    (hroom : s.roster.length < s.floorLimit) : (s.giveFloor i).rosterLaw := by
  obtain ⟨h1, h8, hlen, hnd, hact, hint⟩ := hs
  have hl : (s.giveFloor i).floorLimit = s.floorLimit :=
    erase_keeps_floorLimit (erase_giveFloor (k := allBut [.floorLimit]) (by decide)) rfl
  rw [State.rosterLaw, hl, giveFloor_roster]
  refine ⟨h1, h8, by simpa using hroom, by simpa [List.nodup_append] using ⟨hnd, fun a ha e => hi (e ▸ ha)⟩, fun j hj => ?_, fun j => ?_⟩
  · rw [seat_giveFloor]
    rcases List.mem_append.1 hj with hj | hj
    · split
      · exact ha
      · exact hact j hj
    · rw [if_pos (List.mem_singleton.1 hj)]; exact ha
  · rw [seat_giveFloor, List.mem_append, List.mem_singleton]
    by_cases hj : j = i
    · simp [hj]
    · simp [hj, hint j]

theorem rosterLaw_retire (hs : s.rosterLaw) : (s.retire i).rosterLaw :=
  rosterLaw_erase (i := i) hs (erase_keeps_floorLimit (erase_retire (k := allBut [.floorLimit]) (by decide)) rfl) retire_roster
    (by simp [seat_retire, retiredSeat, settledChannel]) (fun j hj => by simp [seat_retire, hj])

theorem loadedSeat_intent (x : SeatState) (r : SeatRecord) (now : Clock) (gen : Word) :
    (loadedSeat x r now gen).channel.intent = .muted := by
  cases h : r.active <;> simp [loadedSeat, h, settledChannel]

theorem rosterLaw_applyRecord {r : SeatRecord} (hs : s.rosterLaw) : (s.applyRecord i r).rosterLaw := by
  obtain ⟨b, h⟩ := seat_applyRecord (s := s) (i := i) r
  refine rosterLaw_erase (i := i) hs (erase_keeps_floorLimit (erase_applyRecord (k := allBut [.floorLimit]) (by decide)) rfl)
    (applyRecord_roster r) ?_ (fun j hj => by simp [h, hj])
  rw [h, if_pos rfl]; exact loadedSeat_intent (s.seat i) r s.clock s.generations[r.curve]

theorem rosterLaw_seatWork {p : Seat → Prop} (h : SeatWork p s t) (hs : s.rosterLaw) : t.rosterLaw :=
  h.keeps (P := State.rosterLaw) (fun _ _ hs he => rosterLaw_looksAt.still (erase_widen (by decide) he) hs)
    (fun _ _ _ hs _ _ => rosterLaw_applyRecord hs)
    (fun _ _ _ hs _ => rosterLaw_looksAt _ _ (erase_acknowledgeSeat (by decide)) (seatFrame_acknowledgeSeat (by decide)) hs) hs

/-! Floor orders -/

/-- The publications and the header words of a floor order. -/
theorem rosterLaw_shown {b : State} {is : List Seat} (hs : s.rosterLaw) : (publishVisible b s.writeFloorHeader is).rosterLaw :=
  rosterLaw_looksAt _ _ (erase_publishVisible (by decide)) (seatFrame_publishVisible (by decide))
    (rosterLaw_looksAt.still (erase_writeFloorHeader (by decide)) hs)

theorem rosterLaw_grantFloorWork {o : Slot} (hs : s.rosterLaw) : (grantFloorWork o s).1.rosterLaw := by
  unfold grantFloorWork
  split
  · exact hs
  next i _ =>
  split
  · exact hs
  next ha =>
  split
  · exact hs
  next hi =>
  have ha : (s.seat i).ctx.active = true := by simpa using ha
  have hi : i ∉ s.roster := by simpa using hi
  split
  · next hroom => exact rosterLaw_shown (rosterLaw_giveFloor hs ha hi hroom)
  split
  · next j _ hj =>
    have hj : j ∈ s.roster := List.mem_of_find?_eq_some hj
    have hpos := List.length_pos_of_mem hj
    have hlen := hs.2.2.1
    have hl : (s.takeFloor j).floorLimit = s.floorLimit :=
      erase_keeps_floorLimit (erase_takeFloor (k := allBut [.floorLimit]) (by decide)) rfl
    refine rosterLaw_shown (rosterLaw_giveFloor (rosterLaw_takeFloor hs) ?_ ?_ ?_)
    · rw [seat_takeFloor]; split
      · next e => exact e ▸ ha
      · exact ha
    · rw [takeFloor_roster]; exact fun h => hi (List.mem_of_mem_erase h)
    · rw [takeFloor_roster, hl, List.length_erase_of_mem hj]; omega
  · exact hs

theorem rosterLaw_revokeFloorWork {o : Slot} (hs : s.rosterLaw) : (revokeFloorWork o s).1.rosterLaw := by
  unfold revokeFloorWork; split
  · exact hs
  split
  · exact hs
  split
  · exact hs
  · exact rosterLaw_shown (rosterLaw_takeFloor hs)

theorem rosterLaw_clearFloorWork {o : Slot} (hs : s.rosterLaw) : (clearFloorWork o s).1.rosterLaw :=
  rosterLaw_looksAt _ _ (erase_publishVisible (by decide)) (seatFrame_publishVisible (by decide))
    (rosterLaw_looksAt.still (erase_floorHeaderIfChanged (by decide))
      (foldl_keeps (P := State.rosterLaw) (fun _ _ h => rosterLaw_takeFloor h) _ _ hs))

theorem clampTo_bounds {lo hi x : Nat} (h : lo ≤ hi) : lo ≤ clampTo lo hi x ∧ clampTo lo hi x ≤ hi := by
  unfold clampTo; split
  · exact ⟨le_rfl, h⟩
  split <;> omega

/-- A limit from 1 to 8 that leaves room for the members. -/
theorem rosterLaw_withRules {n : Nat} {p : FloorPolicy} (hs : s.rosterLaw) (hn : 1 ≤ n ∧ n ≤ 8) (hr : s.roster.length ≤ n) :
    State.rosterLaw { s with floorLimit := n, floorPolicy := p } := by
  obtain ⟨-, -, -, hrest⟩ := hs
  exact ⟨hn.1, hn.2, hr, hrest⟩

theorem rosterLaw_setFloorRulesWork {o : Slot} (hs : s.rosterLaw) : (setFloorRulesWork o s).1.rosterLaw := by
  unfold setFloorRulesWork; dsimp only
  split
  · exact hs
  · exact rosterLaw_looksAt.still (erase_writeFloorHeader (by decide))
      (rosterLaw_withRules hs (clampTo_bounds (by decide)) (by omega))

theorem rosterLaw_startFloorRules {ws : List Word} (hs : s.rosterLaw) : (s.startFloorRules (directoryOf ws)).rosterLaw := by
  have h8 : 1 ≤ (directoryOf ws).floorLimit ∧ (directoryOf ws).floorLimit ≤ 8 := clampTo_bounds (by decide)
  refine rosterLaw_withRules hs ?_ ?_
  · split
    · exact h8
    · exact ⟨hs.1, hs.2.1⟩
  · split
    · next he => simp [List.isEmpty_iff.1 he]
    · exact hs.2.2.1

/-! Every step -/

theorem rosterLaw_exec (hs : s.rosterLaw) (he : exec c s = .next t) : t.rosterLaw := by
  have reset : ∀ u : State, u.seats = State.reset.seats → u.roster = [] → u.floorLimit = 1 → u.rosterLaw := fun u h1 h2 h3 => by
    simp [State.rosterLaw, h2, h3, State.seat, h1, State.reset, resetSeat, settledChannel]
  have order : ∀ {kind work}, (∀ o u, u.rosterLaw → (work o u).1.rosterLaw) → (workOrder kind work s).rosterLaw := fun h =>
    workSlot_keeps (P := State.rosterLaw) (fun _ _ he => rosterLaw_looksAt.still (erase_widen (by decide) he)) (fun _ o u => h o u) hs
  refine exec_keeps (P := State.rosterLaw) (reset _ rfl rfl rfl) (reset _ rfl rfl rfl) hs (fun c ho he => ?_) he
  cases c
  case powerOnReset | softReset | registerWrite => cases ho
  case checkingEnd =>
    cases he; split
    · exact rosterLaw_looksAt.endChecking rfl rfl (fun _ i h => rosterLaw_retire h) (fun _ _ h => rosterLaw_startFloorRules h) hs
    · exact hs
  case loadSeat => exact rosterLaw_seatWork (p := fun _ => True) (seatWork_loadSeat (fun _ _ => trivial) he) hs
  case bulkSlice => exact rosterLaw_seatWork (p := fun _ => True) (seatWork_bulkSlice (fun _ _ _ _ _ _ => trivial) he) hs
  case grantFloor => cases he; exact order fun _ _ => rosterLaw_grantFloorWork
  case revokeFloor => cases he; exact order fun _ _ => rosterLaw_revokeFloorWork
  case clearFloor => cases he; exact order fun _ _ => rosterLaw_clearFloorWork
  case setFloorRules => cases he; exact order fun _ _ => rosterLaw_setFloorRulesWork
  all_goals exact rosterLaw_looksAt.exec rfl rfl he hs

/-- Settles O7: a seat joins or leaves the roster with its intent, joins only while there is room, and leaves it when it turns
inactive. -/
theorem stepKeepsRosterLaw : Obligations.StepKeepsRosterLaw := by
  unfold Obligations.StepKeepsRosterLaw
  intro s t hs h
  exact step_keeps (P := State.rosterLaw) (fun _ _ h => h)
    (fun _ _ hs ha => rosterLaw_looksAt.access rfl rfl (fun _ _ _ _ h => rosterLaw_seatWork h hs) ha hs)
    (fun _ _ _ hs he => rosterLaw_exec hs he) hs h

end Sys2Proof.Machine
end

section
/-! PROOFS. Events that change one seat alone, and the law of active and inactive seats under every step (R3, R7, R12, R128). -/

namespace Sys2Proof.Machine

variable {s t u : State} {c : Instr} {i j : Seat} {C : Seat → Prop}

/-! Events of one seat -/

theorem seatsKept.trans (h1 : seatsKept s t C) (h2 : seatsKept t u C) : seatsKept s u C := fun j hj => (h2 j hj).trans (h1 j hj)

theorem seatsKept_of_seats (h : t.seats = s.seats) : seatsKept s t C := fun j _ => by simp only [State.seat, h]

theorem seatsKept_of_erase (h : erase noSeats t = erase noSeats s) : seatsKept s t C := seatsKept_of_seats (erase_keeps_seats h rfl)

theorem seatsKept_setSeat {x : SeatState} : seatsKept s (s.setSeat i x) (· = i) := fun j hj => by
  rw [State.seat_setSeat, if_neg hj]

theorem seatsKept_issue : seatsKept s (s.issue i) (· = i) := fun j hj => by rw [seat_issue, if_neg hj]

theorem seatsKept_publishChange : seatsKept s (s.publishChange i) (· = i) := fun j hj => by
  rw [seat_publishChange, if_neg fun h => hj h.1]

theorem seatsKept_publishVisible {b : State} : seatsKept s (publishVisible b s [i]) (· = i) := by
  show seatsKept s (if b.picture i = s.picture i then s else s.publishChange i) (· = i)
  split
  · exact seatsKept_of_seats rfl
  · exact seatsKept_publishChange

theorem seatsKept_restartEstimator : seatsKept s (s.restartEstimator i) (· = i) := seatsKept_setSeat.trans seatsKept_setSeat

theorem seatsKept_batteryArrival {f b : Bool} {n : Nat} : seatsKept s (s.batteryArrival i f b n) (· = i) := by
  unfold State.batteryArrival; dsimp only; split
  · exact seatsKept_setSeat.trans seatsKept_setSeat
  · exact seatsKept_setSeat

theorem seatsKept_muteArrival {f m : Bool} : seatsKept s (s.muteArrival i f m) (· = i) := by
  unfold State.muteArrival; dsimp only; split
  · exact seatsKept_issue.trans seatsKept_setSeat
  · exact seatsKept_setSeat

theorem seatsKept_acceptReport {r : Report} : seatsKept s (s.acceptReport i r) (· = i) := by
  unfold State.acceptReport; dsimp only
  refine seatsKept.trans ?_ seatsKept_muteArrival
  refine seatsKept.trans ?_ seatsKept_batteryArrival
  exact seatsKept_setSeat.trans seatsKept_setSeat

theorem seatsKept_muteCompletion : seatsKept s (s.muteCompletion i) (· = i) := by
  unfold State.muteCompletion; dsimp only; split
  · exact seatsKept_setSeat
  · exact seatsKept_of_seats rfl

theorem seatsKept_deadlineCheck : seatsKept s (s.deadlineCheck i) (· = i) := by
  unfold State.deadlineCheck; dsimp only; split
  · split
    · split
      · exact seatsKept_setSeat.trans (seatsKept_of_seats rfl)
      · exact seatsKept_setSeat
    · exact seatsKept_setSeat
  · exact seatsKept_of_seats rfl

theorem seatsKept_batteryWork {b : Bool} : seatsKept s (s.batteryWork i b) (· = i) := by
  unfold State.batteryWork State.generationCheck; dsimp only
  refine seatsKept.trans (t := if (s.seat i).estimator.genSeen = s.seatGeneration i then s else s.restartEstimator i) ?_ seatsKept_setSeat
  split
  · exact seatsKept_of_seats rfl
  · exact seatsKept_restartEstimator

theorem seatsKept_judgeSeat : seatsKept s (s.judgeSeat i) (· = i) := by
  unfold State.judgeSeat State.blockWork
  refine seatsKept.trans ?_ seatsKept_setSeat
  refine seatsKept.trans ?_ seatsKept_deadlineCheck
  refine seatsKept.trans ?_ seatsKept_batteryWork
  exact seatsKept_setSeat.trans seatsKept_setSeat

theorem seatsKept_evaluate : seatsKept s (s.evaluate i) (· = i) := by
  refine seatsKept.trans seatsKept_judgeSeat ?_
  unfold State.evaluate publishEvaluation; split
  · split
    · exact seatsKept_of_erase (erase_publishRefresh (k := noSeats) (by decide))
    · exact seatsKept_of_seats rfl
  · exact seatsKept_publishChange

theorem seatsKept_leaveRoster : seatsKept s (s.leaveRoster i) (· = i) := fun j hj => by rw [seat_leaveRoster, if_neg hj]
theorem seatsKept_takeFloor : seatsKept s (s.takeFloor i) (· = i) := fun j hj => by rw [seat_takeFloor, if_neg hj]
theorem seatsKept_giveFloor : seatsKept s (s.giveFloor i) (· = i) := fun j hj => by rw [seat_giveFloor, if_neg hj]

/-! Retiring several seats -/

/-- Each of the retired seats is retired once; the others are as before. -/
theorem seat_foldl_retire (l : List Seat) (hl : l.Nodup) : ∀ s : State, (l.foldl State.retire s).seat j =
    if j ∈ l then retiredSeat (s.seat j) s.clock (s.seatGeneration j) else s.seat j := by
  induction l with
  | nil => exact fun _ => rfl
  | cons i l ih =>
    intro s
    obtain ⟨hi, hl⟩ := List.nodup_cons.1 hl
    rw [List.foldl_cons, ih hl]
    by_cases hj : j = i
    · subst j; rw [if_neg hi, seat_retire, if_pos rfl, if_pos List.mem_cons_self]
    · have e : (s.retire i).seat j = s.seat j := by rw [seat_retire, if_neg hj]
      rw [e, retire_clock, seatGeneration_congr (congrArg (fun x : SeatState => x.ctx.curve) e) retire_generations]
      simp only [List.mem_cons, hj, false_or]

theorem nodup_allSeats : allSeats.Nodup := List.nodup_finRange 512

/-! The law of active and inactive seats (O14) -/

/-- What an active and an inactive seat is. -/
abbrev State.seatLawAt (s : State) (i : Seat) : Prop := if (s.seat i).ctx.active
    then i.val < s.layout.seatCount ∧ (s.seat i).ctx.txId ≠ 0 ∧ (s.seat i).ctx.txId ≠ 0xFFFF#16
    else (s.seat i).ctx.sample = none ∧ (s.seat i).ctx.silence = .noCause ∧ (s.seat i).channel = settledChannel

/-- The shares that the law looks at. -/
abbrev qSeat : SFld → Bool := fun f => decide (f ∈ [SFld.locked, .link, .channel, .ctxRest, .monitors, .tracker, .estimator, .listed,
  .relistDue, .owed, .boardRest])

/-- The law, one seat at a time. It is not unfolded where its seats are those of a long event. -/
@[irreducible] def State.SeatsLawful (s : State) : Prop := ∀ i, s.seatLawAt i

theorem seatsLawful_iff : s.SeatsLawful ↔ ∀ i, s.seatLawAt i := by unfold State.SeatsLawful; rfl

theorem State.SeatsLawful.at (h : s.SeatsLawful) (i : Seat) : s.seatLawAt i := seatsLawful_iff.1 h i

theorem State.SeatsLawful.congr (h : s.SeatsLawful) (h1 : t.seats = s.seats) (h2 : t.layout = s.layout) : t.SeatsLawful :=
  seatsLawful_iff.2 fun i => by
    have e : t.seat i = s.seat i := by simp only [State.seat, h1]
    rw [State.seatLawAt, e, h2]; exact h.at i

theorem seatLaw_looksAt : LooksAt State.SeatsLawful [.layout] qSeat := fun s t he hq hs => seatsLawful_iff.2 fun i => by
  have h := hs.at i
  rw [State.seatLawAt, hq.active i rfl, hq.txId i rfl, hq.sample i rfl, hq.silence i rfl, hq.muteChannel i rfl rfl rfl, erase_keeps_layout he rfl]
  exact h

theorem seatLawAt_congr (hl : t.layout = s.layout) (h : t.seat j = s.seat j) (hs : s.seatLawAt j) : t.seatLawAt j := by
  rw [State.seatLawAt, h, hl]; exact hs

/-- Events of active seats that leave them active, with their transmitters, keep the law. -/
theorem seatLaw_of_active (hs : s.SeatsLawful) (hl : t.layout = s.layout) (ho : seatsKept s t C)
    (hi : ∀ i, C i → (s.seat i).ctx.active = true ∧ (t.seat i).ctx.active = (s.seat i).ctx.active
      ∧ (t.seat i).ctx.txId = (s.seat i).ctx.txId) : t.SeatsLawful := seatsLawful_iff.2 fun j => by
  by_cases hj : C j
  · obtain ⟨ha, ha', hx⟩ := hi j hj
    have h := hs.at j
    rw [State.seatLawAt, ha', hx, if_pos ha, hl]
    rwa [State.seatLawAt, if_pos ha] at h
  · exact seatLawAt_congr hl (ho j hj) (hs.at j)

/-- The same for one seat, in terms of frames. -/
theorem seatLaw_of_frame {k : Fld → Bool} {q : SFld → Bool} (hs : s.SeatsLawful) (hk : erase k t = erase k s) (hk' : k .layout = false)
    (hq : SeatFrame q s t) (h1 : q .active = false) (h2 : q .txId = false) (ho : seatsKept s t (· = i)) (ha : (s.seat i).ctx.active = true) :
    t.SeatsLawful :=
  seatLaw_of_active hs (erase_keeps_layout hk hk') ho (fun j hj => by subst hj; exact ⟨ha, hq.active _ h1, hq.txId _ h2⟩)

/-- Every frame but that of the active flag and the transmitter. -/
abbrev qKeepsActive : SFld → Bool := fun f => f != .active && f != .txId

theorem seatLaw_issue (hs : s.SeatsLawful) (ha : (s.seat i).ctx.active = true) : (s.issue i).SeatsLawful :=
  seatLaw_of_frame hs (erase_issue (k := allBut [.layout]) (by decide)) rfl (seatFrame_issue (q := qKeepsActive) (by decide)) rfl rfl
    seatsKept_issue ha

theorem seatLaw_takeFloor (hs : s.SeatsLawful) (ha : (s.seat i).ctx.active = true) : (s.takeFloor i).SeatsLawful :=
  seatLaw_of_frame hs (erase_takeFloor (k := allBut [.layout]) (by decide)) rfl (seatFrame_takeFloor (q := qKeepsActive) (by decide)) rfl rfl
    seatsKept_takeFloor ha

theorem seatLaw_giveFloor (hs : s.SeatsLawful) (ha : (s.seat i).ctx.active = true) : (s.giveFloor i).SeatsLawful :=
  seatLaw_of_frame hs (erase_giveFloor (k := allBut [.layout]) (by decide)) rfl (seatFrame_giveFloor (q := qKeepsActive) (by decide)) rfl rfl
    seatsKept_giveFloor ha

theorem takeFloor_active : ((s.takeFloor i).seat j).ctx.active = (s.seat j).ctx.active := by
  rw [seat_takeFloor]; split
  · next e => rw [e]
  · rfl

/-- The publications and the header words of a floor order. -/
theorem seatLaw_shown {b : State} {is : List Seat} (hs : s.SeatsLawful) : (publishVisible b s.writeFloorHeader is).SeatsLawful :=
  seatLaw_looksAt _ _ (erase_publishVisible (by decide)) (seatFrame_publishVisible (by decide))
    (seatLaw_looksAt.still (erase_writeFloorHeader (by decide)) hs)

theorem seatLaw_grantFloorWork {o : Slot} (hs : s.SeatsLawful) (hr : s.rosterLaw) : (grantFloorWork o s).1.SeatsLawful := by
  unfold grantFloorWork
  split
  · exact hs
  split
  · exact hs
  next ha =>
  have ha := by simpa using ha
  split
  · exact hs
  split
  · exact seatLaw_shown (seatLaw_giveFloor hs ha)
  split
  · next j _ hj =>
    have hj := hr.2.2.2.2.1 j (List.mem_of_find?_eq_some hj)
    exact seatLaw_shown (seatLaw_giveFloor (seatLaw_takeFloor hs hj) (by rw [takeFloor_active]; exact ha))
  · exact hs

theorem seatLaw_revokeFloorWork {o : Slot} (hs : s.SeatsLawful) (hr : s.rosterLaw) : (revokeFloorWork o s).1.SeatsLawful := by
  unfold revokeFloorWork; split
  · exact hs
  split
  · exact hs
  next hi =>
  split
  · exact hs
  · exact seatLaw_shown (seatLaw_takeFloor hs (hr.2.2.2.2.1 _ (by simpa using hi)))

theorem seatLaw_clearFloorWork {o : Slot} (hs : s.SeatsLawful) (hr : s.rosterLaw) : (clearFloorWork o s).1.SeatsLawful := by
  have take : ∀ (l : List Seat) (u : State), (∀ i ∈ l, (u.seat i).ctx.active = true) → u.SeatsLawful → (l.foldl State.takeFloor u).SeatsLawful := by
    intro l
    induction l with
    | nil => exact fun _ _ h => h
    | cons i l ih =>
      intro u ha hu
      exact ih _ (fun j hj => by rw [takeFloor_active]; exact ha j (List.mem_cons_of_mem _ hj))
        (seatLaw_takeFloor hu (ha i List.mem_cons_self))
  refine seatLaw_looksAt _ _ (erase_publishVisible (by decide)) (seatFrame_publishVisible (by decide)) ?_
  refine seatLaw_looksAt.still (erase_floorHeaderIfChanged (by decide)) ?_
  exact take _ _ (fun i hi => hr.2.2.2.2.1 i (List.mem_filter.1 hi).1) hs

/-- A record that passes its checks spells a transmitter ID of 1 to FFFEh. -/
theorem txId_of_recordRefusal {r : SeatRecord} (h : s.recordRefusal i r = none) (ha : r.active = true) :
    r.txId ≠ 0 ∧ r.txId ≠ 0xFFFF#16 := by
  unfold State.recordRefusal at h
  rw [if_neg (by simp [ha])] at h
  split at h
  · cases h
  · next hc => exact ⟨fun e => hc (.inr (.inl e)), fun e => hc (.inr (.inr e))⟩

theorem seatLaw_applyRecord {r : SeatRecord} (hs : s.SeatsLawful) (hi : i.val < s.layout.seatCount) (hr : s.recordRefusal i r = none) :
    (s.applyRecord i r).SeatsLawful := seatsLawful_iff.2 fun j => by
  obtain ⟨b, hseat⟩ := seat_applyRecord (s := s) (i := i) r
  have hl : (s.applyRecord i r).layout = s.layout := erase_keeps_layout (erase_applyRecord (k := allBut [.layout]) (by decide)) rfl
  by_cases hj : j = i
  · subst j
    rw [State.seatLawAt, hseat, if_pos rfl, hl]
    cases ha : r.active
    · simp [loadedSeat, loadedContext, ha]
    · simpa [loadedSeat, loadedContext, ha] using ⟨hi, txId_of_recordRefusal hr ha⟩
  · exact seatLawAt_congr hl (by rw [hseat, if_neg hj]) (hs.at j)

/-- Seat work on seats below the seat count. -/
theorem seatLaw_seatWork (h : SeatWork (fun i => i.val < s.layout.seatCount) s t) (hs : s.SeatsLawful) : t.SeatsLawful := by
  refine (h.keeps (P := fun u => u.SeatsLawful ∧ u.layout = s.layout) ?_ ?_ ?_ ⟨hs, rfl⟩).1
  · exact fun u v hu he => ⟨seatLaw_looksAt.still (erase_widen (by decide) he) hu.1, (erase_keeps_layout he rfl).trans hu.2⟩
  · exact fun u i r hu hi hr => ⟨seatLaw_applyRecord hu.1 (hu.2 ▸ hi) hr,
      (erase_keeps_layout (erase_applyRecord (k := allBut [.layout]) (by decide)) rfl).trans hu.2⟩
  · exact fun u i mask hu _ => ⟨seatLaw_looksAt _ _ (erase_acknowledgeSeat (by decide)) (seatFrame_acknowledgeSeat (by decide)) hu.1,
      (erase_keeps_layout (erase_acknowledgeSeat (k := allBut [.layout]) (by decide)) rfl).trans hu.2⟩

/-- A bulk order in hand visits seats below the seat count alone (R149). -/
theorem visits_lt {w : PageWork} {b : Bulk} (hs : s.pageLaw) (hw : s.worked = some w) (hb : w.bulk = some b) {i : Seat} (hi : b.visits i) :
    i.val < s.layout.seatCount := by
  obtain ⟨-, -, hwork, -⟩ := hs
  obtain ⟨⟨-, -, hbulk⟩, -⟩ := hwork w hw
  obtain ⟨-, -, hstop, -, -, hslice⟩ := hbulk b hb
  rcases hi with hi | ⟨hi, hi'⟩
  · omega
  · rcases hslice with h | ⟨-, -, h⟩
    · simp [hi] at h
    · omega

theorem seatLaw_markForeign (hs : s.SeatsLawful) : (s.setCtx i { (s.seat i).ctx with foreignSeen := true }).SeatsLawful :=
  seatLaw_looksAt _ _ (erase_setCtx (by decide)) (seatFrame_setSeat rfl) hs

theorem seatLaw_takeReport {l : LinkId} (hs : s.SeatsLawful) (hc : s.carrierLaw) : (s.takeReport l).SeatsLawful := by
  have judge : ∀ (u : State) r, u.SeatsLawful → u.carrierLaw → (u.judgeReport l r).SeatsLawful := fun u r hu hc => by
    unfold State.judgeReport; split
    · exact seatLaw_looksAt.still (erase_countDiscard (by decide)) hu
    next j hj =>
    split
    · refine seatLaw_looksAt _ _ (erase_publishVisible (by decide)) (seatFrame_publishVisible (by decide)) ?_
      exact seatLaw_of_frame hu (erase_acceptReport (k := allBut [.layout]) (by decide)) rfl
        (seatFrame_acceptReport (q := qKeepsActive) (by decide)) rfl rfl seatsKept_acceptReport ((hc l r.channel j).1 hj).1
    · exact seatLaw_markForeign (seatLaw_looksAt.still (erase_countDiscard (by decide)) hu)
  unfold State.takeReport; split
  · exact hs
  · exact judge _ _ (hs.congr rfl rfl) hc

/-- An inactive seat's mute channel is SETTLED, so a frame's completion finds an active one. -/
theorem active_of_channel (hs : s.SeatsLawful) (h : (s.seat i).channel.state ≠ .settled) : (s.seat i).ctx.active = true := by
  by_contra ha
  have := hs.at i
  rw [State.seatLawAt, if_neg ha] at this
  exact h (by rw [this.2.2]; rfl)

theorem seatLaw_completeFrame {l : LinkId} (hs : s.SeatsLawful) : (s.completeFrame l).SeatsLawful := by
  unfold State.completeFrame; split
  · next f _ =>
    have h1 : (s.setLink l { s.link l with tx := .spacing }).SeatsLawful := hs.congr rfl rfl
    dsimp only; split
    · exact h1
    · refine seatLaw_looksAt _ _ (erase_publishVisible (by decide)) (seatFrame_publishVisible (by decide)) ?_
      generalize s.setLink l { s.link l with tx := .spacing } = u at h1
      by_cases hc : (u.seat f.seat).channel.state = .sending
      · exact seatLaw_of_frame h1 (erase_muteCompletion (k := allBut [.layout]) (by decide)) rfl
          (seatFrame_muteCompletion (q := qKeepsActive) (by decide)) rfl rfl seatsKept_muteCompletion
          (active_of_channel h1 (by rw [hc]; decide))
      · unfold State.muteCompletion; dsimp only; rw [if_neg hc]; exact h1
  · exact hs

theorem seatLaw_passOn (hs : s.SeatsLawful) : s.passOn.SeatsLawful := by
  unfold State.passOn; split
  · exact hs
  split
  · exact hs.congr rfl rfl
  next j hj =>
  refine seatLaw_looksAt.still (erase_settlePass (by decide)) ?_
  have h : (s.evaluate j).SeatsLawful := seatLaw_of_frame hs (erase_evaluate (k := allBut [.layout]) (by decide)) rfl
    (seatFrame_evaluate (q := qKeepsActive) (by decide)) rfl rfl seatsKept_evaluate (nextActive_active hj)
  exact seatLaw_looksAt.still (erase_with_pass rfl) h

theorem seatLaw_evaluateWhen {b : Bool} (hs : s.SeatsLawful) : (s.evaluateWhen i b).SeatsLawful := by
  unfold State.evaluateWhen; split
  · exact seatLaw_passOn hs
  · exact hs

theorem seatLaw_enterStopping (hs : s.SeatsLawful) : s.enterStopping.SeatsLawful := by
  have h : s.stopBlocks.SeatsLawful := seatsLawful_iff.2 fun j => by
    have hj : s.stopBlocks.seat j = { s.seat j with channel := stoppedChannel (s.seat j).channel } := seat_stopChannels j
    have hl : s.stopBlocks.layout = s.layout := rfl
    have := hs.at j
    rw [State.seatLawAt, hj, hl]
    rw [State.seatLawAt] at this
    by_cases ha : (s.seat j).ctx.active = true
    · rwa [if_pos ha] at this ⊢
    · rw [if_neg ha] at this ⊢
      exact ⟨this.1, this.2.1, by rw [this.2.2]; rfl⟩
  rw [enterStopping_eq]
  exact seatLaw_looksAt.still (erase_quietLines (by decide))
    (seatLaw_looksAt _ _ (erase_publishVisible (by decide)) (seatFrame_publishVisible (by decide)) h)

/-! A start -/

theorem mem_retiring : j ∈ s.retiring ↔ s.retires j = true := by simp [State.retiring, List.mem_finRange]

/-- The seats of a start once it has retired those that do not fit. -/
theorem seat_startSeats {rs : List ReadWord} : (s.startSeats rs).seat j = if (s.startStores rs).retires j = true
    then retiredSeat (s.seat j) s.clock ((s.startStores rs).seatGeneration j) else s.seat j := by
  have floor : ∀ (u : State) d, (u.startFloorRules d).seat j = u.seat j := fun _ _ => rfl
  have nodup : (s.startStores rs).retiring.Nodup := nodup_allSeats.filter _
  have hseat : (s.startStores rs).seat j = s.seat j := rfl
  have hclock : (s.startStores rs).clock = s.clock := rfl
  rw [State.startSeats, floor, seat_foldl_retire _ nodup, hseat, hclock]
  simp only [mem_retiring]

theorem startSeats_layout {rs : List ReadWord} : (s.startSeats rs).layout = (s.startStores rs).layout :=
  erase_keeps_layout (erase_startSeats (k := allBut [.layout]) (by decide)) rfl

/-- Of the seats below the new count the start keeps those it does not retire, and every retired one is inactive. -/
theorem seatLaw_startSeats {rs : List ReadWord} (hs : s.SeatsLawful) : (s.startSeats rs).SeatsLawful := by
  refine seatsLawful_iff.2 fun j => ?_
  rw [State.seatLawAt, startSeats_layout, seat_startSeats]
  have h := hs.at j
  cases hr : (s.startStores rs).retires j
  · rw [State.seatLawAt] at h
    simp only [Bool.false_eq_true, if_false]
    by_cases ha : (s.seat j).ctx.active = true
    · rw [if_pos ha] at h ⊢
      have hseat : (s.startStores rs).seat j = s.seat j := rfl
      simp only [State.retires, hseat, ha, Bool.true_and, Bool.or_eq_false_iff, decide_eq_false_iff_not, Nat.not_le] at hr
      exact ⟨hr.1, h.2⟩
    · rwa [if_neg ha] at h ⊢
  · rw [if_pos rfl, if_neg (by simp [retiredSeat])]
    exact ⟨rfl, rfl, rfl⟩

theorem seatLaw_endChecking (hs : s.SeatsLawful) : s.endChecking.SeatsLawful := by
  have hj : s.startJudged.SeatsLawful := seatLaw_looksAt.still
    ((erase_takeSetup (by decide)).trans (erase_readOn (by decide) _ _)) hs
  rw [endChecking_eq]; split
  · have h3 : (s.startJudged.startEntered s.startReads).SeatsLawful :=
      seatLaw_looksAt _ _ (erase_enterRunning (by decide)) (seatFrame_enterRunning (by decide)) (seatLaw_startSeats hj)
    refine succeedStart_keeps (P := State.SeatsLawful) (fun t i h => ?_) (fun t h => seatLaw_looksAt.still (erase_raise (by decide)) h) h3
    exact seatLaw_looksAt _ _ (erase_publishChange (by decide)) (seatFrame_publishChange (by decide)) h
  · exact hj.congr rfl rfl

/-! Every step -/

theorem seatLaw_exec (hs : s.SeatsLawful) (hc : s.carrierLaw) (hr : s.rosterLaw) (hp : s.pageLaw) (he : exec c s = .next t) : t.SeatsLawful := by
  have reset : ∀ u : State, u.seats = State.reset.seats → u.SeatsLawful := fun u h => seatsLawful_iff.2 fun i => by
    have hi : u.seat i = resetSeat := by simp [State.seat, h, State.reset]
    rw [State.seatLawAt, hi]; exact ⟨rfl, rfl, rfl⟩
  have order : ∀ {kind work}, (∀ o (u : State), u.SeatsLawful → u.rosterLaw → (work o u).1.SeatsLawful) → (∀ o (u : State), u.rosterLaw → (work o u).1.rosterLaw) →
      (workOrder kind work s).SeatsLawful := fun h h' =>
    (workSlot_keeps (P := fun u => u.SeatsLawful ∧ u.rosterLaw)
      (fun _ _ he hu => ⟨seatLaw_looksAt.still (erase_widen (by decide) he) hu.1, rosterLaw_looksAt.still (erase_widen (by decide) he) hu.2⟩)
      (fun _ o u hu => ⟨h o u hu.1 hu.2, h' o u hu.2⟩) ⟨hs, hr⟩).1
  refine exec_keeps (P := State.SeatsLawful) (reset _ rfl) (reset _ rfl) hs (fun c ho he => ?_) he
  cases c
  case powerOnReset | softReset | registerWrite => cases ho
  case stop x =>
    have hs' : State.SeatsLawful { s with enables := x } := hs.congr rfl rfl
    rw [exec_stop] at he; cases he
    split
    · exact hs
    split
    · exact seatLaw_enterStopping hs'
    · exact hs'
  case checkingEnd =>
    cases he; split
    · exact seatLaw_endChecking hs
    · exact hs
  case loadSeat => exact seatLaw_seatWork (seatWork_loadSeat (fun _ h => h) he) hs
  case bulkSlice => exact seatLaw_seatWork (seatWork_bulkSlice (fun _ _ _ hw hb => visits_lt hp hw hb) he) hs
  case reportTake l =>
    cases he; split
    · exact seatLaw_takeReport hs hc
    · exact hs
  case commandFrameCompletion l => cases he; exact seatLaw_completeFrame hs
  case seatEvaluation =>
    cases he; split
    · exact seatLaw_passOn hs
    · exact hs
  case fadeWindowRollover => cases he; exact seatLaw_evaluateWhen hs
  case historySample => cases he; exact seatLaw_evaluateWhen hs
  case confirmationDeadlineExpiry => cases he; exact seatLaw_evaluateWhen hs
  case grantFloor => cases he; exact order (fun _ _ => seatLaw_grantFloorWork) fun _ _ => rosterLaw_grantFloorWork
  case revokeFloor => cases he; exact order (fun _ _ => seatLaw_revokeFloorWork) fun _ _ => rosterLaw_revokeFloorWork
  case clearFloor => cases he; exact order (fun _ _ => seatLaw_clearFloorWork) fun _ _ => rosterLaw_clearFloorWork
  all_goals exact seatLaw_looksAt.exec rfl rfl he hs

/-- Settles O14: seats turn active by a load below the seat count and inactive with all that the law asks; what else touches
these shares meets active seats, by the Carrier Map, the roster or their mute channels. -/
theorem stepKeepsSeatLaw : Obligations.StepKeepsSeatLaw := by
  unfold Obligations.StepKeepsSeatLaw
  intro s t hs hc hr hp h
  have hs := seatsLawful_iff.2 hs
  refine seatsLawful_iff.1 ?_
  obtain ⟨-, ha⟩ | ⟨c, rest, -, he⟩ := step_cases h
  · exact seatLaw_looksAt.access rfl rfl (fun w b hw hb hwork => seatLaw_seatWork (hwork.mono fun i => visits_lt hp hw hb) hs) ha hs
  · exact seatLaw_exec (s := { s with pending := rest }) (hs.congr rfl rfl) hc hr hp he

end Sys2Proof.Machine
end

section
/-! PROOFS. The downlink queue, the deferred set and the frame in flight of one link (R36 to R40). -/

namespace Sys2Proof.Machine

variable {k k' : Link} {i j : Seat} {p p' : Seat → Prop} {l l' : List Seat}

/-! The deferred set -/

theorem mem_deferIn : j ∈ deferIn i l ↔ j = i ∨ j ∈ l := by
  induction l with
  | nil => simp [deferIn]
  | cons x xs ih =>
    unfold deferIn; split
    · simp
    · simp only [List.mem_cons, ih]; tauto

theorem pairwise_deferIn (h : l.Pairwise (· < ·)) (hi : i ∉ l) : (deferIn i l).Pairwise (· < ·) := by
  induction l with
  | nil => simp [deferIn]
  | cons x xs ih =>
    obtain ⟨hx, hxs⟩ := List.pairwise_cons.1 h
    have hne : i ≠ x := fun e => hi (e ▸ List.mem_cons_self)
    have hi : i ∉ xs := fun h => hi (List.mem_cons_of_mem _ h)
    unfold deferIn; split
    · next hlt => exact List.pairwise_cons.2 ⟨fun y hy => by
        rcases List.mem_cons.1 hy with rfl | hy
        · exact hlt
        · exact lt_trans hlt (hx y hy), h⟩
    · next hlt =>
      refine List.pairwise_cons.2 ⟨fun y hy => ?_, ih hxs hi⟩
      rcases mem_deferIn.1 hy with rfl | hy
      · exact lt_of_le_of_ne (not_lt.1 hlt) (Ne.symm hne)
      · exact hx y hy

/-! What the law says of one link -/

/-- The seats that wait for a link: its queue, then its deferred set. -/
def Link.waiting (k : Link) : List Seat := k.queue ++ k.deferred

/-- The law of the downlink queues for one link, whose seats must meet `p` (R36, R37, R40). -/
structure Link.Lawful (p : Seat → Prop) (k : Link) : Prop where
  short : k.queue.length ≤ 16
  nodup : k.waiting.Nodup
  sorted : k.deferred.Pairwise (· < ·)
  full : k.deferred ≠ [] → k.queue.length = 16
  waits : ∀ i ∈ k.waiting, p i
  flight : ∀ f, k.tx = .sending f → f.cancelled = false → p f.seat ∧ f.seat ∉ k.waiting

/-- Seat i does not wait for the link, and has no frame in flight that delivers. -/
structure Link.Free (k : Link) (i : Seat) : Prop where
  waits : i ∉ k.waiting
  flight : ∀ f, k.tx = .sending f → f.seat = i → f.cancelled = true

theorem Link.Lawful.congr (h : k.Lawful p) (h1 : k'.queue = k.queue) (h2 : k'.deferred = k.deferred) (h3 : k'.tx = k.tx) :
    k'.Lawful p := by
  have hw : k'.waiting = k.waiting := by simp only [Link.waiting, h1, h2]
  obtain ⟨a, b, c, d, e, f⟩ := h
  exact ⟨h1 ▸ a, hw ▸ b, h2 ▸ c, by rw [h1, h2]; exact d, hw ▸ e, by rw [h3, hw]; exact f⟩

/-- The seats of the link meet another property, when all of them but a free one do. -/
theorem Link.Lawful.mono (h : k.Lawful p) (hp : ∀ j, p j → p' j ∨ k.Free j) : k.Lawful p' := by
  have kept : ∀ j, p j → ¬ k.Free j → p' j := fun j hj hf => (hp j hj).resolve_right hf
  obtain ⟨a, b, c, d, e, f⟩ := h
  refine ⟨a, b, c, d, fun j hj => kept j (e j hj) fun hf => hf.waits hj, fun g hg hc => ?_⟩
  obtain ⟨hg1, hg2⟩ := f g hg hc
  exact ⟨kept _ hg1 fun hf => absurd (hf.flight g hg rfl) (by simp [hc]), hg2⟩

/-- A link on which nothing waits and no frame delivers. -/
theorem Link.lawful_of_quiet (h1 : k.queue = []) (h2 : k.deferred = []) (h3 : ∀ f, k.tx = .sending f → f.cancelled = true) : k.Lawful p := by
  have hw : k.waiting = [] := by simp [Link.waiting, h1, h2]
  refine ⟨by simp [h1], by simp [hw], by simp [h2], by simp [h2], by simp [hw], fun f hf hc => ?_⟩
  rw [h3 f hf] at hc; cases hc

/-! Placing a seat (R36) -/

@[simp] theorem placeOn_tx : (placeOn k i).tx = k.tx := by
  unfold placeOn; split
  · rfl
  split <;> rfl

theorem mem_waiting_placeOn : j ∈ (placeOn k i).waiting ↔ j = i ∨ j ∈ k.waiting := by
  unfold placeOn Link.waiting
  split
  · next h =>
    rw [Bool.or_eq_true, List.contains_iff_mem, List.contains_iff_mem] at h
    constructor
    · exact .inr
    · rintro (rfl | hj)
      · exact List.mem_append.2 h
      · exact hj
  split
  · simp only [List.mem_append, List.mem_singleton]; tauto
  · simp only [List.mem_append, mem_deferIn]; tauto

/-- A placed seat that meets `p`, and has no frame in flight that delivers, leaves the link lawful. -/
theorem Link.Lawful.placeOn (h : k.Lawful p) (hi : p i) (hf : ∀ f, k.tx = .sending f → f.cancelled = false → f.seat ≠ i) :
    (placeOn k i).Lawful p := by
  have waits : ∀ j ∈ (Machine.placeOn k i).waiting, p j := fun j hj => by
    rcases mem_waiting_placeOn.1 hj with rfl | hj
    · exact hi
    · exact h.waits j hj
  have flight : ∀ f, (Machine.placeOn k i).tx = .sending f → f.cancelled = false →
      p f.seat ∧ f.seat ∉ (Machine.placeOn k i).waiting := fun f hk hc => by
    rw [placeOn_tx] at hk
    obtain ⟨h1, h2⟩ := h.flight f hk hc
    exact ⟨h1, fun hm => (mem_waiting_placeOn.1 hm).elim (hf f hk hc) h2⟩
  obtain ⟨short, nodup, sorted, full, -, -⟩ := h
  by_cases hw : i ∈ k.waiting
  · have hk : Machine.placeOn k i = k := by
      unfold Machine.placeOn
      rw [if_pos (by simpa [Link.waiting] using hw)]
    rw [hk] at waits flight ⊢
    exact ⟨short, nodup, sorted, full, waits, flight⟩
  · have hq : i ∉ k.queue := fun h => hw (List.mem_append_left _ h)
    have hd : i ∉ k.deferred := fun h => hw (List.mem_append_right _ h)
    have hk : Machine.placeOn k i = if k.queue.length < queueSize then { k with queue := k.queue ++ [i] }
        else { k with deferred := deferIn i k.deferred } := by
      unfold Machine.placeOn
      rw [if_neg (by simp [hq, hd])]
    by_cases hl : k.queue.length < queueSize
    · have hempty : k.deferred = [] := by
        by_contra hne
        have := full hne
        rw [queueSize] at hl; omega
      rw [hk, if_pos hl] at waits flight ⊢
      refine ⟨by rw [List.length_append, List.length_singleton]; exact hl, ?_, sorted, fun hne => absurd hempty hne, waits, flight⟩
      simpa [Link.waiting, hempty, List.nodup_append] using ⟨(List.nodup_append.1 nodup).1, fun a ha e => hq (e ▸ ha)⟩
    · rw [hk, if_neg hl] at waits flight ⊢
      have hlen : k.queue.length = 16 := le_antisymm short (not_lt.1 hl)
      have hs := pairwise_deferIn sorted hd
      refine ⟨short, ?_, hs, fun _ => hlen, waits, flight⟩
      rw [Link.waiting, List.nodup_append]
      obtain ⟨n1, n2, n3⟩ := List.nodup_append.1 nodup
      refine ⟨n1, hs.imp fun h => ne_of_lt h, fun a ha b hb e => ?_⟩
      rcases mem_deferIn.1 hb with rfl | hb
      · exact hq (e ▸ ha)
      · exact n3 a ha b hb e

/-! Cancelling a frame (R40) -/

@[simp] theorem cancelOn_queue : (cancelOn k i).queue = k.queue := by
  unfold cancelOn; split
  · split <;> rfl
  · rfl
@[simp] theorem cancelOn_deferred : (cancelOn k i).deferred = k.deferred := by
  unfold cancelOn; split
  · split <;> rfl
  · rfl

/-- The frames in flight once that of seat i has been cancelled. -/
theorem cancelOn_flight {f : Frame} (h : (cancelOn k i).tx = .sending f) (hc : f.cancelled = false) : k.tx = .sending f ∧ f.seat ≠ i := by
  unfold cancelOn at h
  split at h
  · split at h
    · cases h; cases hc
    · next g hg hne => rw [hg] at h; cases h; exact ⟨hg, hne⟩
  · next hk => exact absurd h (hk f)

theorem Link.Lawful.cancelOn (h : k.Lawful p) : (cancelOn k i).Lawful p := by
  have hw : (Machine.cancelOn k i).waiting = k.waiting := by simp [Link.waiting]
  obtain ⟨short, nodup, sorted, full, waits, flight⟩ := h
  refine ⟨by simpa using short, hw ▸ nodup, by simpa using sorted, by simpa using full, hw ▸ waits, fun f hf hc => ?_⟩
  rw [hw]; exact flight f (cancelOn_flight hf hc).1 hc

/-- Placing and cancelling do not meet: the one looks at the lists, the other at the transmitter. -/
theorem placeOn_cancelOn : placeOn (cancelOn k i) i = cancelOn (placeOn k i) i := by
  unfold placeOn cancelOn
  cases hk : k.tx with
  | sending f =>
    by_cases hf : f.seat = i
    · simp only [hf, if_true]; split
      · simp [hk, hf]
      split <;> simp [hf]
    · simp only [hf, if_false]; split
      · simp [hk, hf]
      split <;> simp [hk, hf]
  | idle | spacing =>
    dsimp only; split
    · simp [hk]
    split <;> simp [hk]

/-- The issue of an intent to a seat that meets `p` leaves the link lawful (R129). -/
theorem Link.Lawful.issuedOn {r : Prop} [Decidable r] (h : k.Lawful p) (hi : p i) : (issuedOn r k i).Lawful p := by
  unfold Machine.issuedOn
  split
  · rw [← placeOn_cancelOn]
    exact h.cancelOn.placeOn hi fun f hf hc => (cancelOn_flight hf hc).2
  · exact h.cancelOn

/-! Withdrawing a seat (R9, R37) -/

@[simp] theorem refill_tx : (refill k).tx = k.tx := by unfold refill; split <;> rfl

/-- The arbiter moves the head of the deferred set to the end of the queue; those who wait stay. -/
theorem waiting_refill : (refill k).waiting = k.waiting := by
  unfold refill Link.waiting; split
  · rfl
  · next h => simp [h]

theorem mem_waiting_withdrawFrom (h : k.waiting.Nodup) : j ∈ (withdrawFrom k i).waiting ↔ j ≠ i ∧ j ∈ k.waiting := by
  obtain ⟨n1, n2, n3⟩ := List.nodup_append.1 h
  unfold withdrawFrom
  split
  · next hq =>
    have hq := List.contains_iff_mem.1 hq
    have hd : i ∉ k.deferred := fun hd => n3 i hq i hd rfl
    rw [waiting_refill]
    simp only [Link.waiting, List.mem_append, n1.mem_erase_iff]
    constructor
    · rintro (⟨a, b⟩ | hj)
      · exact ⟨a, .inl b⟩
      · exact ⟨fun e => hd (e ▸ hj), .inr hj⟩
    · rintro ⟨a, b | b⟩
      · exact .inl ⟨a, b⟩
      · exact .inr b
  · next hq =>
    have hq : i ∉ k.queue := fun h => hq (List.contains_iff_mem.2 h)
    simp only [Link.waiting, List.mem_append, n2.mem_erase_iff]
    constructor
    · rintro (hj | ⟨a, b⟩)
      · exact ⟨fun e => hq (e ▸ hj), .inl hj⟩
      · exact ⟨a, .inr b⟩
    · rintro ⟨a, b | b⟩
      · exact .inl b
      · exact .inr ⟨a, b⟩

@[simp] theorem withdrawFrom_tx : (withdrawFrom k i).tx = k.tx := by unfold withdrawFrom; split <;> simp

/-- The lists after the head of the queue, or any entry of it, has left and the arbiter has filled the room. -/
theorem refill_lists {q : List Seat} (hd : k.deferred.Pairwise (· < ·)) (hn : (q ++ k.deferred).Nodup) (hq : q.length + 1 ≤ 16)
    (hf : k.deferred ≠ [] → q.length + 1 = 16) :
    (refill { k with queue := q }).queue.length ≤ 16 ∧ (refill { k with queue := q }).waiting.Nodup
      ∧ (refill { k with queue := q }).deferred.Pairwise (· < ·)
      ∧ ((refill { k with queue := q }).deferred ≠ [] → (refill { k with queue := q }).queue.length = 16) := by
  refine ⟨?_, by rw [waiting_refill]; exact hn, ?_, ?_⟩
  · unfold refill; split
    · simp only; omega
    · simp only [List.length_append, List.length_singleton]; omega
  · unfold refill; split
    · next h => exact hd
    · next d ds h =>
      dsimp only at h
      rw [h] at hd; exact (List.pairwise_cons.1 hd).2
  · unfold refill; split
    · next h => exact fun hne => absurd h hne
    · next d ds h =>
      intro _
      dsimp only at h
      have := hf (by rw [h]; exact List.cons_ne_nil _ _)
      simpa using this

theorem Link.Lawful.withdrawFrom (h : k.Lawful p) : (withdrawFrom k i).Lawful p := by
  have mem := fun j => mem_waiting_withdrawFrom (k := k) (i := i) (j := j) h.nodup
  have waits : ∀ j ∈ (Machine.withdrawFrom k i).waiting, p j := fun j hj => h.waits j ((mem j).1 hj).2
  have flight : ∀ f, (Machine.withdrawFrom k i).tx = .sending f → f.cancelled = false →
      p f.seat ∧ f.seat ∉ (Machine.withdrawFrom k i).waiting := fun f hk hc => by
    rw [withdrawFrom_tx] at hk
    obtain ⟨h1, h2⟩ := h.flight f hk hc
    exact ⟨h1, fun hm => h2 ((mem _).1 hm).2⟩
  obtain ⟨short, nodup, sorted, full, -, -⟩ := h
  obtain ⟨n1, n2, n3⟩ := List.nodup_append.1 nodup
  by_cases hq : i ∈ k.queue
  · have hk : Machine.withdrawFrom k i = refill { k with queue := k.queue.erase i } := by
      unfold Machine.withdrawFrom; rw [if_pos (List.contains_iff_mem.2 hq)]
    have hlen := List.length_erase_of_mem hq
    have hpos := List.length_pos_of_mem hq
    have lists := refill_lists (k := k) (q := k.queue.erase i) sorted
      (nodup.sublist (List.Sublist.append List.erase_sublist (List.Sublist.refl _))) (by omega)
      (fun hne => by have := full hne; omega)
    rw [hk] at waits flight ⊢
    obtain ⟨l1, l2, l3, l4⟩ := lists
    exact ⟨l1, l2, l3, l4, waits, flight⟩
  · have hk : Machine.withdrawFrom k i = { k with deferred := k.deferred.erase i } := by
      unfold Machine.withdrawFrom; rw [if_neg (fun h => hq (List.contains_iff_mem.1 h))]
    rw [hk] at waits flight ⊢
    refine ⟨short, ?_, sorted.sublist List.erase_sublist, fun hne => full fun e => hne ?_, waits, flight⟩
    · exact nodup.sublist (List.Sublist.append (List.Sublist.refl _) List.erase_sublist)
    · dsimp only; rw [e]; rfl

/-- A seat that has been withdrawn, its frame cancelled, is free of the link. -/
theorem Link.Lawful.free_withdrawn (h : k.Lawful p) : (Machine.cancelOn (Machine.withdrawFrom k i) i).Free i := by
  refine ⟨?_, fun f hf hi => ?_⟩
  · have hw : (Machine.cancelOn (Machine.withdrawFrom k i) i).waiting = (Machine.withdrawFrom k i).waiting := by simp [Link.waiting]
    rw [hw, mem_waiting_withdrawFrom h.nodup]
    exact fun hm => hm.1 rfl
  · by_contra hc
    exact (cancelOn_flight hf (by simpa using hc)).2 hi

/-! Taking the queue's head (R37, R38) -/

/-- The transmitter takes the queue's head; an uncancelled frame in flight is then for a seat that no longer waits. -/
theorem Link.Lawful.transmit {rest : List Seat} {f : Frame} (h : k.Lawful p) (hq : k.queue = i :: rest) (hf : f.seat = i) :
    (refill { k with queue := rest, tx := .sending f }).Lawful p := by
  obtain ⟨short, nodup, sorted, full, waits, -⟩ := h
  rw [Link.waiting, hq, List.cons_append] at nodup waits
  rw [hq, List.length_cons] at short full
  obtain ⟨hi, hn⟩ := List.nodup_cons.1 nodup
  obtain ⟨l1, l2, l3, l4⟩ := refill_lists (k := { k with tx := .sending f }) (q := rest) sorted hn short full
  have hw : (refill { k with queue := rest, tx := .sending f }).waiting = rest ++ k.deferred := waiting_refill
  refine ⟨l1, l2, l3, l4, fun j hj => ?_, fun g hg _ => ?_⟩
  · rw [hw] at hj; exact waits j (List.mem_cons_of_mem _ hj)
  · rw [refill_tx] at hg; cases hg
    rw [hw, hf]
    exact ⟨waits i List.mem_cons_self, hi⟩

end Sys2Proof.Machine
end

section
/-! PROOFS. The law of the downlink queues and deferred sets under every step (R36 to R40, R129, R130). -/

namespace Sys2Proof.Machine

variable {s t u : State} {c : Instr} {i j : Seat} {l : LinkId}

/-! The law, link by link -/

/-- Seat i may wait for link l: it is active, on the link, and its mute channel is SENDING (R36). -/
def State.MayWait (s : State) (l : LinkId) (i : Seat) : Prop :=
  (s.seat i).ctx.active = true ∧ (s.seat i).ctx.link = l ∧ (s.seat i).channel.state = .sending

/-- The law, one link at a time. It is not unfolded where its links are those of a long event. -/
@[irreducible] def State.DownlinksLawful (s : State) : Prop := ∀ l, (s.link l).Lawful (s.MayWait l)

theorem downlinksLawful_iff : s.DownlinksLawful ↔ ∀ l, (s.link l).Lawful (s.MayWait l) := by unfold State.DownlinksLawful; rfl

theorem State.DownlinksLawful.at (h : s.DownlinksLawful) (l : LinkId) : (s.link l).Lawful (s.MayWait l) := downlinksLawful_iff.1 h l

theorem downlinkLaw_iff : s.downlinkLaw ↔ s.DownlinksLawful := by
  rw [downlinksLawful_iff]
  refine forall_congr' fun l => ⟨fun ⟨⟨h1, h2, h3, h4, h5⟩, h6⟩ => ⟨h1, h2, h3, h4, h5, fun f hf hc => ?_⟩,
    fun h => ⟨⟨h.short, h.nodup, h.sorted, h.full, h.waits⟩, ?_⟩⟩
  · simp only [State.flightLawful, hf] at h6
    obtain ⟨a, b, c, d⟩ := h6 hc
    exact ⟨⟨a, b, c⟩, d⟩
  · unfold State.flightLawful
    split
    · next f hf =>
      intro hc
      obtain ⟨⟨a, b, c⟩, d⟩ := h.flight f hf hc
      exact ⟨a, b, c, d⟩
    · trivial

/-! Events that leave the lists alone -/

/-- The queues, the deferred sets and the transmitters are as before. -/
def ListsKept (s t : State) : Prop := ∀ l, (t.link l).queue = (s.link l).queue ∧ (t.link l).deferred = (s.link l).deferred
  ∧ (t.link l).tx = (s.link l).tx

theorem ListsKept.trans (h1 : ListsKept s t) (h2 : ListsKept t u) : ListsKept s u := fun l => by
  obtain ⟨a, b, c⟩ := h1 l
  obtain ⟨a', b', c'⟩ := h2 l
  exact ⟨a'.trans a, b'.trans b, c'.trans c⟩

theorem listsKept_of_links (h : t.links = s.links) : ListsKept s t := fun l => by simp [State.link, h]

theorem listsKept_of_erase {k : Fld → Bool} (h : erase k t = erase k s) (hk : k .links = false) : ListsKept s t :=
  listsKept_of_links (erase_keeps_links h hk)

theorem listsKept_setLink {x : Link} (h1 : x.queue = (s.link l).queue) (h2 : x.deferred = (s.link l).deferred)
    (h3 : x.tx = (s.link l).tx) : ListsKept s (s.setLink l x) := fun m => by
  rw [State.link_setLink]; split
  · subst m; exact ⟨h1, h2, h3⟩
  · exact ⟨rfl, rfl, rfl⟩

theorem State.link_map (f : Link → Link) (l : LinkId) : ({ s with links := s.links.map f } : State).link l = f (s.link l) := by
  simp [State.link]

theorem listsKept_countLink (n : Fin 11) : ListsKept s (s.countLink l n) := fun m => by
  rw [link_countLink]; split
  · subst m; exact ⟨rfl, rfl, rfl⟩
  · exact ⟨rfl, rfl, rfl⟩

theorem listsKept_countDiscard (n : Fin 11) : ListsKept s (s.countDiscard l n) := fun m => by
  rw [link_countDiscard]; split
  · subst m; exact ⟨rfl, rfl, rfl⟩
  · exact ⟨rfl, rfl, rfl⟩

theorem listsKept_linkHeard : ListsKept s (s.linkHeard l) := by
  unfold State.linkHeard; dsimp only; split
  · exact ListsKept.trans (t := s.setLink l { s.link l with state := .up, timer := some s.clock })
      (listsKept_setLink rfl rfl rfl) (listsKept_of_links rfl)
  · exact listsKept_setLink rfl rfl rfl
  · exact listsKept_of_links rfl

theorem listsKept_linkLost : ListsKept s (s.linkLost l) :=
  ListsKept.trans (t := s.setLink l { s.link l with state := .down, timer := none }) (listsKept_setLink rfl rfl rfl)
    (listsKept_of_links rfl)

theorem listsKept_holdReport (r : Option Report) : ListsKept s (s.setLink l { s.link l with slot := r }) :=
  listsKept_setLink rfl rfl rfl

theorem listsKept_goodFrame (r : Run) : ListsKept s (s.goodFrame l r) := by
  unfold State.goodFrame
  have h : ListsKept s (s.countLink l ctrGood) := listsKept_countLink ctrGood
  dsimp only; split
  · exact (h.trans (listsKept_holdReport _)).trans listsKept_linkHeard
  · exact h.trans listsKept_linkHeard

theorem listsKept_gapOn : ListsKept s (s.gapOn l) := by
  have run : ListsKept s (s.endRun l) := by
    refine (listsKept_setLink (l := l) (x := { s.link l with assembler := .idle, run := emptyRun }) rfl rfl rfl).trans ?_
    unfold State.endRun; dsimp only; split
    · exact listsKept_countDiscard _
    · exact listsKept_goodFrame _
  unfold State.gapOn; split
  · exact listsKept_setLink rfl rfl rfl
  · exact listsKept_of_links rfl
  · exact run
  · exact run

theorem listsKept_assemble (k : Link) (b : RunByte) :
    (assemble k b).queue = k.queue ∧ (assemble k b).deferred = k.deferred ∧ (assemble k b).tx = k.tx := by
  unfold assemble; split <;> exact ⟨rfl, rfl, rfl⟩

theorem listsKept_quietLines : ListsKept s s.quietLines := by
  unfold State.quietLines; split
  · intro l
    rw [link_writeLinkSummary]
    simp [State.link]
  · exact listsKept_of_links rfl

theorem listsKept_clearMaskedCounts (mask : Byte) : ListsKept s (s.clearMaskedCounts mask) := by
  have one : ∀ (v : State) (m : LinkId), ListsKept v (v.clearLinkCounts m) := fun v m =>
    ListsKept.trans (t := v.setLink m { v.link m with counters := Vector.replicate 11 0, errorsSeen := false })
      (listsKept_setLink rfl rfl rfl) fun n => by unfold State.clearLinkCounts; rw [link_putWords]; exact ⟨rfl, rfl, rfl⟩
  have all : ∀ (ms : List LinkId) (v : State),
      ListsKept v (ms.foldl (fun t l => if mask.getLsbD l.val then t.clearLinkCounts l else t) v) := by
    intro ms
    induction ms with
    | nil => exact fun v => listsKept_of_links rfl
    | cons m ms ih =>
      refine fun v => ListsKept.trans ?_ (ih _)
      dsimp only; split
      · exact one v m
      · exact listsKept_of_links rfl
  unfold State.clearMaskedCounts; dsimp only; split
  · exact listsKept_of_links rfl
  · exact (all _ _).trans (listsKept_of_links rfl)

/-- An event that keeps the lists, and every seat that may wait able to wait, keeps the law. -/
theorem State.DownlinksLawful.mono (hs : s.DownlinksLawful) (hk : ListsKept s t) (hw : ∀ l j, s.MayWait l j → t.MayWait l j) :
    t.DownlinksLawful := downlinksLawful_iff.2 fun l => by
  obtain ⟨h1, h2, h3⟩ := hk l
  exact ((hs.at l).congr h1 h2 h3).mono fun j hj => .inl (hw l j hj)

/-- The shares that the law looks at. -/
abbrev qDown : SFld → Bool := fun f => f != .active && f != .link && f != .chState

theorem mayWait_congr (h : t.seat j = s.seat j) : t.MayWait l j ↔ s.MayWait l j := by rw [State.MayWait, State.MayWait, h]

theorem mayWait_of_frame {q : SFld → Bool} (hq : SeatFrame q s t) (h1 : q .active = false) (h2 : q .link = false)
    (h3 : q .chState = false) : t.MayWait l j ↔ s.MayWait l j := by
  rw [State.MayWait, State.MayWait, hq.active j h1, hq.link j h2, hq.chState j h3]

theorem State.DownlinksLawful.frame (hs : s.DownlinksLawful) (hk : ListsKept s t) (hq : SeatFrame qDown s t) : t.DownlinksLawful :=
  hs.mono hk fun _ _ => (mayWait_of_frame hq rfl rfl rfl).2

theorem downlinks_looksAt : LooksAt State.DownlinksLawful [.links] qDown := fun _ _ he hq hs =>
  hs.frame (listsKept_of_erase he rfl) hq

/-! The issue of an intent (R129) -/

theorem mayWait_issue (h : s.MayWait l j) : (s.issue i).MayWait l j := by
  rw [State.MayWait, seat_issue]; split
  · next e => subst e; exact ⟨h.1, h.2.1, rfl⟩
  · exact h

theorem downlinks_issue (hs : s.DownlinksLawful) (ha : (s.seat i).ctx.active = true) : (s.issue i).DownlinksLawful :=
  downlinksLawful_iff.2 fun l => by
    have h := (hs.at l).mono (p' := (s.issue i).MayWait l) fun j hj => .inl (mayWait_issue hj)
    rw [link_issue]; split
    · next e => exact h.issuedOn (by rw [State.MayWait, seat_issue, if_pos rfl]; exact ⟨ha, e.symm, rfl⟩)
    · exact h

theorem downlinks_takeFloor (hs : s.DownlinksLawful) (ha : (s.seat i).ctx.active = true) : (s.takeFloor i).DownlinksLawful :=
  downlinks_issue (hs.frame (listsKept_of_links rfl) (seatFrame_leaveRoster (by decide))) (by
    rw [seat_leaveRoster, if_pos rfl]; exact ha)

theorem downlinks_giveFloor (hs : s.DownlinksLawful) (ha : (s.seat i).ctx.active = true) : (s.giveFloor i).DownlinksLawful :=
  downlinks_issue (hs.frame (listsKept_of_links rfl)
    (SeatFrame.trans (t := { s with roster := s.roster ++ [i] }) (.of_seats rfl) (seatFrame_setIntent (by decide)))) (by
    rw [seat_setIntent, if_pos rfl]; exact ha)

/-! A seat that turns free of every link -/

/-- The lists of every link are lawful, and seat i is free of them all: its channel may change. -/
theorem downlinks_of_free (h : ∀ l, (t.link l).Lawful (s.MayWait l) ∧ (t.link l).Free i) (ho : seatsKept s t (· = i)) :
    t.DownlinksLawful := downlinksLawful_iff.2 fun l => (h l).1.mono fun j hj => by
  by_cases e : j = i
  · exact .inr (e ▸ (h l).2)
  · exact .inl ((mayWait_congr (ho j e)).2 hj)

/-- Seat i is free of every link but its own. -/
theorem State.DownlinksLawful.free (hs : s.DownlinksLawful) (hl : l ≠ (s.seat i).ctx.link) : (s.link l).Free i :=
  ⟨fun hm => hl ((hs.at l).waits i hm).2.1.symm, fun f hf e => by
    by_contra hc
    have := ((hs.at l).flight f hf (by simpa using hc)).1.2.1
    rw [e] at this; exact hl this.symm⟩

/-! Loading a seat (R9 to R12) -/

/-- A re-initialised seat is free of every link. -/
theorem free_configured {r : SeatRecord} (hs : s.DownlinksLawful) (l : LinkId) :
    ((s.configured i r).link l).Lawful (s.MayWait l) ∧ ((s.configured i r).link l).Free i := by
  rw [link_configured]; split
  · exact ⟨(hs.at l).withdrawFrom.cancelOn, (hs.at l).free_withdrawn⟩
  · next hl => exact ⟨hs.at l, hs.free hl⟩

theorem downlinks_applyRecord {r : SeatRecord} (hs : s.DownlinksLawful) : (s.applyRecord i r).DownlinksLawful :=
  downlinksLawful_iff.2 fun l => by
    obtain ⟨b, hseat⟩ := seat_applyRecord (s := s) (i := i) r
    obtain ⟨hl, hfree⟩ := free_configured (i := i) (r := r) hs l
    have h : ((s.configured i r).link l).Lawful ((s.applyRecord i r).MayWait l) := hl.mono fun j hj => by
      by_cases e : j = i
      · exact .inr (e ▸ hfree)
      · exact .inl ((mayWait_congr (by rw [hseat, if_neg e])).2 hj)
    rw [link_applyRecord, link_loadConfig]; split
    · next ha =>
      refine h.issuedOn ?_
      rw [State.MayWait, hseat, if_pos rfl]
      simp [loadedSeat, loadedContext, ha]
    · exact h

theorem downlinks_seatWork {p : Seat → Prop} (h : SeatWork p s t) (hs : s.DownlinksLawful) : t.DownlinksLawful :=
  h.keeps (P := State.DownlinksLawful) (fun _ _ hs he => downlinks_looksAt.still (erase_widen (by decide) he) hs)
    (fun _ _ _ hs _ _ => downlinks_applyRecord hs)
    (fun _ _ _ hs _ => downlinks_looksAt _ _ (erase_acknowledgeSeat (by decide)) (seatFrame_acknowledgeSeat (by decide)) hs) hs

/-! Reports -/

theorem mayWait_confirmed {m : Bool} (h : s.MayWait l j) :
    (s.setChannel i (confirmed (s.seat i).channel m)).MayWait l j := by
  rw [State.MayWait, seat_setChannel]; split
  · next e =>
    subst e
    obtain ⟨h1, h2, h3⟩ := h
    refine ⟨h1, h2, ?_⟩
    simp [confirmed, h3]
  · exact h

theorem downlinks_muteArrival {f m : Bool} (hs : s.DownlinksLawful) : (s.muteArrival i f m).DownlinksLawful := by
  unfold State.muteArrival; dsimp only; split
  · next h =>
    rw [Bool.and_eq_true] at h
    exact (downlinks_issue hs h.2).mono (listsKept_of_links rfl) fun _ _ => mayWait_confirmed
  · exact hs.mono (listsKept_of_links rfl) fun _ _ => mayWait_confirmed

theorem downlinks_markForeign (hs : s.DownlinksLawful) :
    (s.setCtx i { (s.seat i).ctx with foreignSeen := true }).DownlinksLawful :=
  downlinks_looksAt _ _ (erase_setCtx (by decide)) (seatFrame_setSeat rfl) hs

theorem downlinks_takeReport (hs : s.DownlinksLawful) : (s.takeReport l).DownlinksLawful := by
  have judge : ∀ (u : State) r, u.DownlinksLawful → (u.judgeReport l r).DownlinksLawful := fun u r hu => by
    unfold State.judgeReport; split
    · exact hu.frame (listsKept_countDiscard _) (.of_erase (erase_countDiscard (by decide)))
    next j _ =>
    split
    · refine downlinks_looksAt _ _ (erase_publishVisible (by decide)) (seatFrame_publishVisible (by decide)) ?_
      unfold State.acceptReport
      refine downlinks_muteArrival ?_
      refine downlinks_looksAt _ _ (erase_batteryArrival (by decide)) (seatFrame_batteryArrival (by decide)) ?_
      refine downlinks_looksAt _ _ (erase_setTracker (by decide)) (seatFrame_setTracker (by decide)) ?_
      exact downlinks_looksAt _ _ (erase_setCtx (by decide)) (seatFrame_setSeat rfl) hu
    · exact downlinks_markForeign (hu.frame (listsKept_countDiscard _) (.of_erase (erase_countDiscard (by decide))))
  unfold State.takeReport; split
  · exact hs
  · exact judge _ _ (hs.frame (listsKept_setLink rfl rfl rfl) (.of_seats rfl))

/-! The transmitter (R38, R39) -/

theorem downlinks_transmit (hs : s.DownlinksLawful) : (s.transmit l).DownlinksLawful := by
  unfold State.transmit; dsimp only; split
  · next i rest _ _ _ hq =>
    refine downlinksLawful_iff.2 fun m => ?_
    rw [State.link_setLink]; split
    · next e => subst e; exact (hs.at m).transmit hq rfl
    · exact hs.at m
  · exact hs

theorem downlinks_completeFrame (hs : s.DownlinksLawful) : (s.completeFrame l).DownlinksLawful := by
  unfold State.completeFrame; split
  · next f hf =>
    have spaced : ∀ m, ((s.setLink l { s.link l with tx := .spacing }).link m).Lawful (s.MayWait m) := fun m => by
      rw [State.link_setLink]; split
      · next e =>
        subst e
        obtain ⟨h1, h2, h3, h4, h5, -⟩ := hs.at m
        exact ⟨h1, h2, h3, h4, h5, fun g hg => by cases hg⟩
      · exact hs.at m
    dsimp only; split
    · exact downlinksLawful_iff.2 spaced
    · next hc =>
      have hc : f.cancelled = false := by simpa using hc
      refine downlinks_looksAt _ _ (erase_publishVisible (by decide)) (seatFrame_publishVisible (by decide)) ?_
      obtain ⟨hwait, hnot⟩ := (hs.at l).flight f hf hc
      have free : ∀ m, ((s.setLink l { s.link l with tx := .spacing }).link m).Free f.seat := fun m => by
        rw [State.link_setLink]; split
        · next e => subst e; exact ⟨hnot, fun g hg => by cases hg⟩
        · next e => exact hs.free (hwait.2.1 ▸ e)
      refine downlinks_of_free (s := s) (i := f.seat) (fun m => ?_) ?_
      · have hlink : ((s.setLink l { s.link l with tx := .spacing }).muteCompletion f.seat).link m
            = (s.setLink l { s.link l with tx := .spacing }).link m := by
          unfold State.muteCompletion; dsimp only; split <;> rfl
        rw [hlink]; exact ⟨spaced m, free m⟩
      · exact (seatsKept_of_seats (s := s) rfl).trans seatsKept_muteCompletion
  · exact hs

theorem downlinks_endSpacing (hs : s.DownlinksLawful) : (s.endSpacing l).DownlinksLawful := by
  unfold State.endSpacing; split
  · have h : (s.setLink l { s.link l with tx := .idle }).DownlinksLawful := downlinksLawful_iff.2 fun m => by
      rw [State.link_setLink]; split
      · next e =>
        subst e
        obtain ⟨h1, h2, h3, h4, h5, -⟩ := hs.at m
        exact ⟨h1, h2, h3, h4, h5, fun g hg => by cases hg⟩
      · exact hs.at m
    exact h.frame listsKept_quietLines (.of_erase (erase_quietLines (by decide)))
  · exact hs

/-! Evaluations (R132) -/

theorem downlinks_deadlineCheck (hs : s.DownlinksLawful) (ha : (s.seat i).ctx.active = true) : (s.deadlineCheck i).DownlinksLawful := by
  unfold State.deadlineCheck; dsimp only; split
  · next hd =>
    have hwait : (s.seat i).channel.state = .awaiting := by
      simp only [State.deadlineExpired, Bool.and_eq_true, beq_iff_eq] at hd; exact hd.1
    have idle : ∀ l, ¬ s.MayWait l i := fun l h => by
      have h3 := h.2.2; rw [hwait] at h3; cases h3
    have mono : ∀ (x : MuteChannel) l j, s.MayWait l j → (s.setChannel i x).MayWait l j := fun x l j h => by
      have e : j ≠ i := fun e => idle l (e ▸ h)
      exact (mayWait_congr (by rw [seat_setChannel, if_neg e])).2 h
    split
    · have h1 := hs.mono (t := s.setChannel i { (s.seat i).channel with state := .sending, attempt := .second, deadline := none })
        (listsKept_of_links rfl) (mono _)
      split
      · refine downlinksLawful_iff.2 fun l => ?_
        rw [link_place]
        split
        · next e =>
          refine (h1.at l).placeOn ?_ fun f hf hc => ?_
          · rw [seat_setChannel, if_pos rfl] at e
            rw [State.MayWait, seat_setChannel, if_pos rfl]
            exact ⟨ha, e.symm, rfl⟩
          · intro e
            have hw := ((hs.at l).flight f hf hc).1
            rw [e] at hw
            exact idle l hw
        · exact h1.at l
      · exact h1
    · exact hs.mono (listsKept_of_links rfl) (mono _)
  · exact hs

theorem seatFrame_signalWork {q : SFld → Bool} {b : Bool} (h : SOpens q [.tracker]) : SeatFrame q s (s.signalWork i b) :=
  seatFrame_setTracker h

theorem downlinks_passOn (hs : s.DownlinksLawful) : s.passOn.DownlinksLawful := by
  unfold State.passOn; split
  · exact hs
  split
  · exact hs.frame (listsKept_of_links rfl) (.of_seats rfl)
  next j hj =>
  have hblocks : (((s.seatStoreWork j (s.isSilent j)).signalWork j (s.isSilent j)).batteryWork j (s.isSilent j)).DownlinksLawful := by
    refine downlinks_looksAt _ _ (erase_batteryWork (by decide)) (seatFrame_batteryWork (by decide)) ?_
    refine downlinks_looksAt _ _ (erase_signalWork (by decide)) (seatFrame_signalWork (by decide)) ?_
    exact downlinks_looksAt _ _ (erase_seatStoreWork (by decide)) (seatFrame_seatStoreWork (by decide)) hs
  have hact : ((((s.seatStoreWork j (s.isSilent j)).signalWork j (s.isSilent j)).batteryWork j (s.isSilent j)).seat j).ctx.active = true := by
    rw [(seatFrame_batteryWork (q := qDown) (by decide)).active j rfl, (seatFrame_signalWork (q := qDown) (by decide)).active j rfl,
      (seatFrame_seatStoreWork (q := qDown) (by decide)).active j rfl, nextActive_active hj]
  have hjudge : (s.judgeSeat j).DownlinksLawful :=
    downlinks_looksAt _ _ (erase_setMonitors (by decide)) (seatFrame_setMonitors (by decide)) (downlinks_deadlineCheck hblocks hact)
  have heval : (s.evaluate j).DownlinksLawful :=
    downlinks_looksAt _ _ (erase_publishEvaluation (by decide)) (seatFrame_publishEvaluation (by decide)) hjudge
  refine downlinks_looksAt.still (erase_settlePass (by decide)) ?_
  exact downlinks_looksAt.still (erase_with_pass rfl) heval

theorem downlinks_evaluateWhen {b : Bool} (hs : s.DownlinksLawful) : (s.evaluateWhen i b).DownlinksLawful := by
  unfold State.evaluateWhen; split
  · exact downlinks_passOn hs
  · exact hs

/-! Stop and start -/

theorem downlinks_enterStopping : s.enterStopping.DownlinksLawful := by
  have h : s.stopBlocks.DownlinksLawful := downlinksLawful_iff.2 fun l => by
    have hl : s.stopBlocks.link l = stoppedLink (s.link l) := State.link_map (s := s) stoppedLink l
    rw [hl]
    refine Link.lawful_of_quiet rfl rfl fun f hf => ?_
    unfold stoppedLink at hf; dsimp only at hf
    split at hf
    · cases hf; rfl
    · next h => exact absurd hf (h f)
  rw [enterStopping_eq]
  exact State.DownlinksLawful.frame (downlinks_looksAt _ _ (erase_publishVisible (by decide)) (seatFrame_publishVisible (by decide)) h)
    listsKept_quietLines (.of_erase (erase_quietLines (by decide)))

/-- The seats that an entry to RUNNING places on their links wait there lawfully. -/
theorem downlinks_placeSending (hs : s.DownlinksLawful) (hidle : ∀ l f, (s.link l).tx ≠ .sending f) : s.placeSending.DownlinksLawful := by
  have place : ∀ (is : List Seat) (u : State), u.DownlinksLawful → (∀ l f, (u.link l).tx ≠ .sending f) →
      (is.foldl (fun t i => if (t.seat i).ctx.active ∧ (t.seat i).channel.state = .sending then t.place i else t) u).DownlinksLawful := by
    intro is
    induction is with
    | nil => exact fun _ h _ => h
    | cons i is ih =>
      intro u hu hx
      rw [List.foldl_cons]
      split
      · next hi =>
        refine ih _ (downlinksLawful_iff.2 fun l => ?_) fun l f => ?_
        · rw [link_place]; split
          · next e => exact (hu.at l).placeOn ⟨hi.1, e.symm, hi.2⟩ fun f hf => absurd hf (hx l f)
          · exact hu.at l
        · rw [link_place]; split
          · rw [placeOn_tx]; exact hx l f
          · exact hx l f
      · exact ih u hu hx
  exact place _ _ hs hidle

theorem downlinks_startLinks : s.startLinks.DownlinksLawful := by
  have hl : ∀ l, (({ s with links := s.links.map startedLink } : State).writeCounters.writeLinkSummary).link l = startedLink (s.link l) :=
    fun l => by
      have h1 := erase_writeCounters (s := { s with links := s.links.map startedLink }) (k := allBut [.links]) (by decide)
      have h2 : ({ s with links := s.links.map startedLink } : State).writeCounters.links = s.links.map startedLink :=
        erase_keeps_links h1 rfl
      rw [link_writeLinkSummary, State.link, h2]
      exact State.link_map startedLink l
  refine downlinks_placeSending (downlinksLawful_iff.2 fun l => ?_) fun l f => ?_
  · rw [hl]; exact Link.lawful_of_quiet rfl rfl fun f hf => by cases hf
  · rw [hl]; exact fun h => by cases h

theorem downlinks_endChecking (hs : s.DownlinksLawful) : s.endChecking.DownlinksLawful := by
  have h1 : (s.readOn nextStartRead startWords).DownlinksLawful := downlinks_looksAt.still (erase_readOn (by decide) _ _) hs
  have hj : s.startJudged.DownlinksLawful := by
    refine h1.frame ?_ (.of_erase (erase_takeSetup (by decide)))
    unfold State.startJudged State.takeSetup; split
    · exact listsKept_of_links rfl
    · exact fun l => by simp [State.takeLinkSetup, State.link]
  rw [endChecking_eq]; split
  · have h3 : (s.startJudged.startEntered s.startReads).DownlinksLawful := by
      unfold State.startEntered State.enterRunning
      refine downlinks_looksAt _ _ (erase_settleChangeList (by decide)) (seatFrame_settleChangeList (by decide)) ?_
      refine downlinks_looksAt.still (erase_startOrders (by decide)) ?_
      refine downlinks_looksAt.still (erase_writeFloorHeader (by decide)) ?_
      exact downlinks_looksAt.still (erase_startEvaluation (by decide)) downlinks_startLinks
    refine succeedStart_keeps (P := State.DownlinksLawful) (fun t i h => ?_) (fun t h => downlinks_looksAt.still (erase_raise (by decide)) h) h3
    exact downlinks_looksAt _ _ (erase_publishChange (by decide)) (seatFrame_publishChange (by decide)) h
  · exact downlinks_looksAt.still (erase_failStart (by decide)) hj

/-! Floor orders -/

/-- The publications and the header words of a floor order. -/
theorem downlinks_shown {b : State} {is : List Seat} (hs : s.DownlinksLawful) : (publishVisible b s.writeFloorHeader is).DownlinksLawful :=
  downlinks_looksAt _ _ (erase_publishVisible (by decide)) (seatFrame_publishVisible (by decide))
    (downlinks_looksAt.still (erase_writeFloorHeader (by decide)) hs)

theorem downlinks_grantFloorWork {o : Slot} (hs : s.DownlinksLawful) (hr : s.rosterLaw) : (grantFloorWork o s).1.DownlinksLawful := by
  unfold grantFloorWork
  split
  · exact hs
  split
  · exact hs
  next ha =>
  have ha := by simpa using ha
  split
  · exact hs
  split
  · exact downlinks_shown (downlinks_giveFloor hs ha)
  split
  · next j _ hj =>
    have hj := hr.2.2.2.2.1 j (List.mem_of_find?_eq_some hj)
    exact downlinks_shown (downlinks_giveFloor (downlinks_takeFloor hs hj) (by rw [takeFloor_active]; exact ha))
  · exact hs

theorem downlinks_revokeFloorWork {o : Slot} (hs : s.DownlinksLawful) (hr : s.rosterLaw) : (revokeFloorWork o s).1.DownlinksLawful := by
  unfold revokeFloorWork; split
  · exact hs
  split
  · exact hs
  next hi =>
  split
  · exact hs
  · exact downlinks_shown (downlinks_takeFloor hs (hr.2.2.2.2.1 _ (by simpa using hi)))

theorem downlinks_clearFloorWork {o : Slot} (hs : s.DownlinksLawful) (hr : s.rosterLaw) : (clearFloorWork o s).1.DownlinksLawful := by
  have take : ∀ (l : List Seat) (u : State), (∀ i ∈ l, (u.seat i).ctx.active = true) → u.DownlinksLawful →
      (l.foldl State.takeFloor u).DownlinksLawful := by
    intro l
    induction l with
    | nil => exact fun _ _ h => h
    | cons i l ih =>
      intro u ha hu
      exact ih _ (fun j hj => by rw [takeFloor_active]; exact ha j (List.mem_cons_of_mem _ hj))
        (downlinks_takeFloor hu (ha i List.mem_cons_self))
  refine downlinks_looksAt _ _ (erase_publishVisible (by decide)) (seatFrame_publishVisible (by decide)) ?_
  refine downlinks_looksAt.still (erase_floorHeaderIfChanged (by decide)) ?_
  exact take _ _ (fun i hi => hr.2.2.2.2.1 i (List.mem_filter.1 hi).1) hs

/-! Every step -/

theorem downlinks_reset (h : s.links = State.reset.links) : s.DownlinksLawful := downlinksLawful_iff.2 fun l => by
  have hl : s.link l = resetLink := by simp [State.link, h, State.reset]
  rw [hl]
  exact Link.lawful_of_quiet rfl rfl fun f hf => by cases hf

/-- An order that keeps the law under the roster law, and the roster law, keeps the law when it is worked. -/
theorem downlinks_workOrder {kind : Nat} {work : Slot → State → State × OrderEnd} (hs : s.DownlinksLawful) (hr : s.rosterLaw)
    (h : ∀ o (u : State), u.DownlinksLawful → u.rosterLaw → (work o u).1.DownlinksLawful)
    (h' : ∀ o (u : State), u.rosterLaw → (work o u).1.rosterLaw) : (workOrder kind work s).DownlinksLawful :=
  (workSlot_keeps (P := fun u => u.DownlinksLawful ∧ u.rosterLaw)
    (fun _ _ he hu => ⟨downlinks_looksAt.still (erase_widen (by decide) he) hu.1, rosterLaw_looksAt.still (erase_widen (by decide) he) hu.2⟩)
    (fun _ o u hu => ⟨h o u hu.1 hu.2, h' o u hu.2⟩) ⟨hs, hr⟩).1

theorem downlinks_exec (hs : s.DownlinksLawful) (hr : s.rosterLaw) (he : exec c s = .next t) : t.DownlinksLawful := by
  refine exec_keeps (P := State.DownlinksLawful) (downlinks_reset rfl) (downlinks_reset rfl) hs (fun c ho he => ?_) he
  cases c
  case powerOnReset | softReset | registerWrite => cases ho
  case stop x =>
    have hs' : State.DownlinksLawful { s with enables := x } := hs.frame (listsKept_of_links rfl) (.of_seats rfl)
    rw [exec_stop] at he; cases he
    split
    · exact hs
    split
    · exact downlinks_enterStopping
    · exact hs'
  case checkingEnd =>
    cases he; split
    · exact downlinks_endChecking hs
    · exact hs
  case loadSeat => exact downlinks_seatWork (p := fun _ => True) (seatWork_loadSeat (fun _ _ => trivial) he) hs
  case bulkSlice => exact downlinks_seatWork (p := fun _ => True) (seatWork_bulkSlice (fun _ _ _ _ _ _ => trivial) he) hs
  case characterReceived l d p b =>
    cases he; split
    · obtain ⟨h1, h2, h3⟩ := listsKept_assemble (s.link l) (receivedByte d p b)
      exact hs.frame (listsKept_setLink h1 h2 h3) (.of_seats rfl)
    · exact hs
  case gap l =>
    cases he; split
    · exact hs.frame listsKept_gapOn (.of_erase (erase_gapOn (by decide)))
    · exact hs
  case linkTimerExpiry l =>
    cases he; split
    · exact hs.frame listsKept_linkLost (.of_erase (erase_linkLost (by decide)))
    · exact hs
  case reportTake l =>
    cases he; split
    · exact downlinks_takeReport hs
    · exact hs
  case transmitStart l => cases he; exact downlinks_transmit hs
  case commandFrameCompletion l => cases he; exact downlinks_completeFrame hs
  case spacingEnd l => cases he; exact downlinks_endSpacing hs
  case seatEvaluation =>
    cases he; split
    · exact downlinks_passOn hs
    · exact hs
  case fadeWindowRollover => cases he; exact downlinks_evaluateWhen hs
  case historySample => cases he; exact downlinks_evaluateWhen hs
  case confirmationDeadlineExpiry => cases he; exact downlinks_evaluateWhen hs
  case grantFloor =>
    cases he; exact downlinks_workOrder hs hr (fun _ _ => downlinks_grantFloorWork) fun _ _ => rosterLaw_grantFloorWork
  case revokeFloor =>
    cases he; exact downlinks_workOrder hs hr (fun _ _ => downlinks_revokeFloorWork) fun _ _ => rosterLaw_revokeFloorWork
  case clearFloor =>
    cases he; exact downlinks_workOrder hs hr (fun _ _ => downlinks_clearFloorWork) fun _ _ => rosterLaw_clearFloorWork
  case clearLinkCounts =>
    cases he
    exact workSlot_keeps (P := State.DownlinksLawful) (fun _ _ he => downlinks_looksAt.still (erase_widen (by decide) he))
      (fun _ o u hu => hu.frame (listsKept_clearMaskedCounts _) (.of_erase (erase_clearMaskedCounts (by decide)))) hs
  all_goals exact downlinks_looksAt.exec rfl rfl he hs

/-- Settles O9: a seat is placed on its own link while it is active and SENDING, it leaves the lists before its channel settles
or its link changes, and a frame in flight is cancelled where its seat waits again. -/
theorem stepKeepsDownlinkLaw : Obligations.StepKeepsDownlinkLaw := by
  unfold Obligations.StepKeepsDownlinkLaw
  intro s t hs hr h
  rw [downlinkLaw_iff] at hs ⊢
  obtain ⟨-, ha⟩ | ⟨c, rest, -, he⟩ := step_cases h
  · exact downlinks_looksAt.access rfl rfl (fun _ _ _ _ hwork => downlinks_seatWork hwork hs) ha hs
  · exact downlinks_exec (s := { s with pending := rest }) (hs.frame (listsKept_of_links rfl) (.of_seats rfl)) hr he

end Sys2Proof.Machine
end

section
/-! PROOFS. The change list (R159 to R162): what its operations do, and its law under every step. -/

namespace Sys2Proof.Machine

variable {s t u : State} {c : Instr} {i j : Seat} {n cap : Nat}

/-! What the operations on the list do -/

@[simp] theorem appendChange_changeList : (s.appendChange i).changeList = s.changeList ++ [i] := by
  unfold State.appendChange; split <;> rfl
@[simp] theorem appendChange_writePos : (s.appendChange i).writePos = (s.writePos + 1) % s.capacity := by
  unfold State.appendChange; split <;> rfl
@[simp] theorem appendChange_fillCount : (s.appendChange i).fillCount = s.fillCount + 1 := by
  unfold State.appendChange; split <;> rfl
@[simp] theorem appendChange_takenCount : (s.appendChange i).takenCount = s.takenCount := by
  unfold State.appendChange; split <;> rfl
@[simp] theorem appendChange_owedCount : (s.appendChange i).owedCount = s.owedCount := by
  unfold State.appendChange; split <;> rfl
@[simp] theorem appendChange_capacity : (s.appendChange i).capacity = s.capacity := by
  unfold State.appendChange; split <;> rfl

theorem seat_appendChange : (s.appendChange i).seat j
    = if j = i then { s.seat i with board := { (s.seat i).board with listed := true } } else s.seat j := by
  have h : ∀ u : State, u.seats = s.seats → (u.setBoard i { (u.seat i).board with listed := true }).seat j
      = if j = i then { s.seat i with board := { (s.seat i).board with listed := true } } else s.seat j := fun u hu => by
    have e : ∀ j, u.seat j = s.seat j := fun j => by simp only [State.seat, hu]
    rw [seat_setBoard, e, e]
  unfold State.appendChange
  split <;> exact h _ rfl

theorem offer_listed (h : (s.seat i).board.listed = true) : s.offer i = s.setBoard i { (s.seat i).board with relistDue := true } := by
  unfold State.offer; dsimp only; rw [if_pos h]

theorem offer_owed (h : (s.seat i).board.listed = false) (ho : (s.seat i).board.owed = true) : s.offer i = s := by
  unfold State.offer; dsimp only; rw [if_neg (by simp [h]), if_pos ho]

theorem offer_room (h : (s.seat i).board.listed = false) (ho : (s.seat i).board.owed = false) (hr : s.changeList.length < s.capacity) :
    s.offer i = s.appendChange i := by
  unfold State.offer; dsimp only; rw [if_neg (by simp [h]), if_neg (by simp [ho]), if_pos hr]

theorem offer_full (h : (s.seat i).board.listed = false) (ho : (s.seat i).board.owed = false) (hr : ¬ s.changeList.length < s.capacity) :
    s.offer i = State.writeOwed { (s.setBoard i { (s.seat i).board with owed := true }) with owedCount := s.owedCount + 1 } := by
  unfold State.offer; dsimp only; rw [if_neg (by simp [h]), if_neg (by simp [ho]), if_neg hr]

/-! Counting owed seats -/

/-- One more element of a list without repetition satisfies the second predicate. -/
theorem countP_flip {α : Type} {p q : α → Bool} {a : α} {l : List α} (hn : l.Nodup) (ha : a ∈ l) (hp : p a = false) (hq : q a = true)
    (h : ∀ b, b ≠ a → p b = q b) : l.countP q = l.countP p + 1 := by
  induction l with
  | nil => cases ha
  | cons b l ih =>
    rw [List.nodup_cons] at hn
    by_cases hb : b = a
    · subst hb
      have : l.countP q = l.countP p := List.countP_congr fun x hx => by
        rw [h x fun e => hn.1 (e ▸ hx)]
      simp [hp, hq, this]
    · have hm : a ∈ l := by simpa [Ne.symm hb] using ha
      simp only [List.countP_cons, ih hn.2 hm, h b hb]
      omega

/-- The number of owed seats. -/
def State.owedSeats (s : State) : Nat := allSeats.countP fun i => (s.seat i).board.owed

theorem owedSeats_congr (h : ∀ j, (t.seat j).board.owed = (s.seat j).board.owed) : t.owedSeats = s.owedSeats := by
  simp only [State.owedSeats, h]

theorem owedSeats_flip (hs : (s.seat i).board.owed = false) (ht : (t.seat i).board.owed = true)
    (h : ∀ j, j ≠ i → (t.seat j).board.owed = (s.seat j).board.owed) : t.owedSeats = s.owedSeats + 1 :=
  countP_flip nodup_allSeats (List.mem_finRange i) hs ht fun j hj => (h j hj).symm

/-! The law but for its last clause, while a release goes on -/

/-- The list is sound, where `gone` of its entries have been released and the accepted taken count does not say so yet. -/
structure State.ListSound (s : State) (gone : Nat) : Prop where
  bounds : 16 ≤ s.capacity ∧ s.capacity ≤ 512
  short : s.changeList.length ≤ s.capacity
  nodup : s.changeList.Nodup
  pos : s.writePos < s.capacity
  count : s.fillCount - s.takenCount = word (s.changeList.length + gone)
  listed : ∀ i, (s.seat i).board.listed = true ↔ i ∈ s.changeList
  due : ∀ i, (s.seat i).board.relistDue = true → (s.seat i).board.listed = true
  apart : ∀ i, (s.seat i).board.owed = true → (s.seat i).board.listed = false
  owed : s.owedCount = s.owedSeats

/-- There are owed seats only while the list is full. -/
def State.OwedOnlyFull (s : State) : Prop := s.owedCount ≠ 0 → s.changeList.length = s.capacity

theorem changeListLaw_iff : s.changeListLaw ↔ s.ListSound 0 ∧ s.OwedOnlyFull :=
  ⟨fun ⟨h1, h2, h3, h4, h5, h6, h7, h8, h9⟩ =>
    ⟨⟨⟨h1, h2⟩, h3, h4, h5, h6, fun i => (h7 i).1, fun i => (h7 i).2.1, fun i => (h7 i).2.2, h8⟩, h9⟩,
   fun ⟨h, h9⟩ => ⟨h.bounds.1, h.bounds.2, h.short, h.nodup, h.pos, h.count, fun i => ⟨h.listed i, h.due i, h.apart i⟩, h.owed, h9⟩⟩

/-- The shares and the fields that the law looks at. -/
abbrev qListed : SFld → Bool := fun f => f != .listed && f != .relistDue && f != .owed
abbrev fListed : List Fld := [.changeList, .writePos, .fillCount, .takenCount, .owedCount, .capacity]

/-- The list's own fields and its flags stand in t as they stand in s. -/
theorem State.ListSound.congr (hs : s.ListSound n) (h1 : t.changeList = s.changeList) (h2 : t.writePos = s.writePos)
    (h3 : t.fillCount = s.fillCount) (h4 : t.takenCount = s.takenCount) (h5 : t.owedCount = s.owedCount) (h6 : t.capacity = s.capacity)
    (h7 : ∀ i, (t.seat i).board.listed = (s.seat i).board.listed ∧ (t.seat i).board.relistDue = (s.seat i).board.relistDue
      ∧ (t.seat i).board.owed = (s.seat i).board.owed) : t.ListSound n := by
  obtain ⟨a, b, c, d, e, f, g, h, k⟩ := hs
  refine ⟨by rwa [h6], by rwa [h1, h6], by rwa [h1], by rwa [h2, h6], by rwa [h3, h4, h1], fun i => ?_, fun i => ?_, fun i => ?_, ?_⟩
  · rw [(h7 i).1, h1]; exact f i
  · rw [(h7 i).1, (h7 i).2.1]; exact g i
  · rw [(h7 i).1, (h7 i).2.2]; exact h i
  · rw [h5, k, owedSeats_congr fun i => (h7 i).2.2]

theorem listSound_looksAt : LooksAt (State.ListSound · n) fListed qListed := fun _ _ he hq hs =>
  hs.congr (erase_keeps_changeList he rfl) (erase_keeps_writePos he rfl) (erase_keeps_fillCount he rfl) (erase_keeps_takenCount he rfl)
    (erase_keeps_owedCount he rfl) (erase_keeps_capacity he rfl) fun i => ⟨hq.listed i rfl, hq.relistDue i rfl, hq.owed i rfl⟩

theorem owedOnlyFull_looksAt : LooksAt State.OwedOnlyFull fListed qListed := fun _ _ he _ hs => by
  rw [State.OwedOnlyFull, erase_keeps_changeList he rfl, erase_keeps_owedCount he rfl, erase_keeps_capacity he rfl]; exact hs

/-! Appends, offers and releases -/

theorem State.ListSound.appendChange (hs : s.ListSound n) (hi : i ∉ s.changeList) (ho : (s.seat i).board.owed = false)
    (hr : s.changeList.length < s.capacity) : (s.appendChange i).ListSound n where
  bounds := by simpa using hs.bounds
  short := by simpa using hr
  nodup := by simpa [List.nodup_append, hs.nodup] using fun j hj => fun e : j = i => hi (e ▸ hj)
  pos := by
    rw [appendChange_writePos, appendChange_capacity]; exact Nat.mod_lt _ (by omega)
  count := by
    have h : word (s.changeList.length + n + 1) = word (s.changeList.length + n) + 1 := by simp [word, BitVec.ofNat_add]
    rw [appendChange_fillCount, appendChange_takenCount, appendChange_changeList, List.length_append,
      show s.changeList.length + [i].length + n = s.changeList.length + n + 1 by simp; omega, h, ← hs.count]
    ring
  listed := fun j => by
    rw [seat_appendChange, appendChange_changeList]
    by_cases hj : j = i
    · simp [hj]
    · simpa [hj] using hs.listed j
  due := fun j => by
    rw [seat_appendChange]; split
    · exact fun _ => rfl
    · exact hs.due j
  apart := fun j => by
    rw [seat_appendChange]; split
    · simp [ho]
    · exact hs.apart j
  owed := by
    rw [appendChange_owedCount, hs.owed]
    exact (owedSeats_congr fun j => by rw [seat_appendChange]; split <;> simp_all).symm

theorem State.ListSound.offer (hs : s.ListSound n) (i : Seat) : (s.offer i).ListSound n := by
  cases hl : (s.seat i).board.listed
  · cases ho : (s.seat i).board.owed
    · have hi : i ∉ s.changeList := fun h => by simp [(hs.listed i).2 h] at hl
      by_cases hr : s.changeList.length < s.capacity
      · rw [offer_room hl ho hr]; exact hs.appendChange hi ho hr
      · rw [offer_full hl ho hr]
        have hseat : ∀ j, (State.writeOwed { (s.setBoard i { (s.seat i).board with owed := true }) with owedCount := s.owedCount + 1 }).seat j
            = if j = i then { s.seat i with board := { (s.seat i).board with owed := true } } else s.seat j := fun j => seat_setBoard _
        exact {
          bounds := hs.bounds, short := hs.short, nodup := hs.nodup, pos := hs.pos, count := hs.count
          listed := fun j => by
            rw [hseat]; split
            · next e => subst e; exact hs.listed j
            · exact hs.listed j
          due := fun j => by
            rw [hseat]; split
            · next e => subst e; exact hs.due j
            · exact hs.due j
          apart := fun j => by
            rw [hseat]; split
            · next e => subst e; exact fun _ => hl
            · exact hs.apart j
          owed := by
            refine Eq.trans (congrArg (· + 1) hs.owed) (owedSeats_flip (i := i) ho (by rw [hseat]; simp) fun j hj => ?_).symm
            rw [hseat, if_neg hj] }
    · rwa [offer_owed hl ho]
  · rw [offer_listed hl]
    have hseat : ∀ j, (s.setBoard i { (s.seat i).board with relistDue := true }).seat j
        = if j = i then { s.seat i with board := { (s.seat i).board with relistDue := true } } else s.seat j := fun j => seat_setBoard _
    exact {
      bounds := hs.bounds, short := hs.short, nodup := hs.nodup, pos := hs.pos, count := hs.count
      listed := fun j => by
        rw [hseat]; split
        · next e => subst e; exact hs.listed j
        · exact hs.listed j
      due := fun j => by
        rw [hseat]; split
        · exact fun _ => hl
        · exact hs.due j
      apart := fun j => by
        rw [hseat]; split
        · next e => subst e; exact hs.apart j
        · exact hs.apart j
      owed := hs.owed.trans (owedSeats_congr fun j => by rw [hseat]; split <;> simp_all).symm }

theorem State.OwedOnlyFull.offer (hs : s.OwedOnlyFull) (hc : s.changeList.length ≤ s.capacity) (i : Seat) : (s.offer i).OwedOnlyFull := by
  cases hl : (s.seat i).board.listed
  · cases ho : (s.seat i).board.owed
    · by_cases hr : s.changeList.length < s.capacity
      · rw [offer_room hl ho hr, State.OwedOnlyFull, appendChange_owedCount]
        intro h
        have := hs h
        omega
      · rw [offer_full hl ho hr]
        exact fun _ => show s.changeList.length = s.capacity by omega
    · rwa [offer_owed hl ho]
  · rw [offer_listed hl]; exact hs

/-- The oldest entry and the list flags of its seat are gone. -/
def State.released (s : State) (i : Seat) (rest : List Seat) : State :=
  { s.setBoard i { (s.seat i).board with listed := false, relistDue := false } with changeList := rest }

theorem releaseOne_cons {rest : List Seat} (h : s.changeList = i :: rest) :
    s.releaseOne = if (s.seat i).board.relistDue then (s.released i rest).offer i else s.released i rest := by
  unfold State.releaseOne; rw [h]; rfl

theorem State.ListSound.released {rest : List Seat} (hs : s.ListSound n) (h : s.changeList = i :: rest) :
    (s.released i rest).ListSound (n + 1) := by
  have hseat : ∀ j, (s.released i rest).seat j = if j = i then { s.seat i with board :=
      { (s.seat i).board with listed := false, relistDue := false } } else s.seat j := fun j => seat_setBoard (s := s) _
  have hn : i ∉ rest ∧ rest.Nodup := List.nodup_cons.1 (h ▸ hs.nodup)
  have hlist : ∀ j, (s.seat j).board.listed = true ↔ j = i ∨ j ∈ rest := fun j => by rw [hs.listed j, h, List.mem_cons]
  have hlen : s.changeList.length = rest.length + 1 := by rw [h, List.length_cons]
  exact {
    bounds := hs.bounds
    short := by have := hs.short; show rest.length ≤ s.capacity; omega
    nodup := hn.2
    pos := hs.pos
    count := by
      have := hs.count
      rw [hlen, show rest.length + 1 + n = rest.length + (n + 1) by omega] at this
      exact this
    listed := fun j => by
      show _ ↔ j ∈ rest
      rw [hseat]; split
      · next e => subst e; simp [hn.1]
      · next e => rw [hlist]; simp [e]
    due := fun j => by
      rw [hseat]; split
      · exact fun h => by cases h
      · exact hs.due j
    apart := fun j => by
      rw [hseat]; split
      · exact fun _ => rfl
      · exact hs.apart j
    owed := hs.owed.trans (owedSeats_congr fun j => by rw [hseat]; split <;> simp_all).symm }

theorem State.ListSound.releaseOne (hs : s.ListSound n) (h : s.changeList ≠ []) : s.releaseOne.ListSound (n + 1) := by
  obtain ⟨i, rest, h⟩ := List.exists_cons_of_ne_nil h
  rw [releaseOne_cons h]; split
  · exact (hs.released h).offer i
  · exact hs.released h

/-- A release takes one entry off, and an offer at most puts one on. -/
theorem offer_length : s.changeList.length ≤ (s.offer i).changeList.length := by
  cases hl : (s.seat i).board.listed
  · cases ho : (s.seat i).board.owed
    · by_cases hr : s.changeList.length < s.capacity
      · rw [offer_room hl ho hr]; simp
      · rw [offer_full hl ho hr]; exact le_rfl
    · rw [offer_owed hl ho]
  · rw [offer_listed hl]; exact le_rfl

theorem releaseOne_length : s.changeList.length ≤ s.releaseOne.changeList.length + 1 := by
  cases h : s.changeList with
  | nil => simp
  | cons i rest =>
    rw [releaseOne_cons h]; split
    · have : (s.released i rest).changeList.length ≤ ((s.released i rest).offer i).changeList.length := offer_length
      exact Nat.succ_le_succ this
    · exact le_rfl

theorem State.ListSound.release {k : Nat} : ∀ {s : State} {n : Nat}, s.ListSound n → k ≤ s.changeList.length → (State.release k s).ListSound (n + k) := by
  induction k with
  | zero => exact fun h _ => h
  | succ k ih =>
    intro s n hs hk
    have hne : s.changeList ≠ [] := fun e => by simp [e] at hk
    have := releaseOne_length (s := s)
    rw [State.release, show n + (k + 1) = n + 1 + k by omega]
    exact ih (hs.releaseOne hne) (by omega)

/-! Owed seats (R161, step 4) -/

theorem lowestOwed_owed (h : s.lowestOwed = some i) : (s.seat i).board.owed = true := List.find?_some (p := fun i => (s.seat i).board.owed) h

theorem lowestOwed_none (h : s.lowestOwed = none) : s.owedSeats = 0 :=
  List.countP_eq_zero.2 fun i hi => by simpa using List.find?_eq_none.1 h i hi

/-- An owed seat is owed no more. -/
def State.paid (s : State) (i : Seat) : State :=
  State.writeOwed { s.setBoard i { (s.seat i).board with owed := false } with owedCount := s.owedCount - 1 }

theorem owedStep_eq : s.owedStep = if s.changeList.length < s.capacity then s.lowestOwed.map fun i => (s.paid i).appendChange i else none := rfl

theorem seat_paid : (s.paid i).seat j = if j = i then { s.seat i with board := { (s.seat i).board with owed := false } } else s.seat j :=
  seat_setBoard (s := s) _

theorem State.ListSound.paid (hs : s.ListSound n) (ho : (s.seat i).board.owed = true) : (s.paid i).ListSound n where
  bounds := hs.bounds
  short := hs.short
  nodup := hs.nodup
  pos := hs.pos
  count := hs.count
  listed := fun j => by
    rw [seat_paid]; split
    · next e => subst e; exact hs.listed j
    · exact hs.listed j
  due := fun j => by
    rw [seat_paid]; split
    · next e => subst e; exact hs.due j
    · exact hs.due j
  apart := fun j => by
    rw [seat_paid]; split
    · exact fun h => by cases h
    · exact hs.apart j
  owed := by
    have h : s.owedSeats = (s.paid i).owedSeats + 1 :=
      owedSeats_flip (i := i) (by rw [seat_paid, if_pos rfl]) ho fun j hj => by rw [seat_paid, if_neg hj]
    show s.owedCount - 1 = _
    rw [hs.owed, h, Nat.add_sub_cancel]

theorem State.ListSound.owedStep (hs : s.ListSound n) (h : s.owedStep = some t) : t.ListSound n ∧ t.owedCount + 1 = s.owedCount := by
  rw [owedStep_eq] at h
  split at h
  · next hr =>
    obtain ⟨i, hi, rfl⟩ := Option.map_eq_some_iff.1 h
    have ho := lowestOwed_owed hi
    have hl := hs.apart i ho
    refine ⟨(hs.paid ho).appendChange (fun hm => ?_) (by rw [seat_paid, if_pos rfl]) hr, ?_⟩
    · rw [(hs.listed i).2 hm] at hl; cases hl
    · have hpos : 0 < s.owedSeats := List.countP_pos_iff.2 ⟨i, List.mem_finRange i, ho⟩
      rw [appendChange_owedCount]
      show s.owedCount - 1 + 1 = s.owedCount
      have := hs.owed
      omega
  · cases h

/-- Where no step is possible, an owed seat means a full list. -/
theorem State.ListSound.owedOnlyFull_of_none (hs : s.ListSound n) (h : s.owedStep = none) : s.OwedOnlyFull := by
  intro h0
  rw [owedStep_eq] at h
  split at h
  · rw [hs.owed, lowestOwed_none (Option.map_eq_none_iff.1 h)] at h0; exact absurd rfl h0
  · have := hs.short; omega

theorem State.ListSound.appendOwed {k : Nat} : ∀ {s : State}, s.ListSound n → s.owedCount ≤ k →
    (State.appendOwed k s).ListSound n ∧ (State.appendOwed k s).OwedOnlyFull := by
  induction k with
  | zero => exact fun hs hk => ⟨hs, fun h => absurd (Nat.le_zero.1 hk) h⟩
  | succ k ih =>
    intro s hs hk
    rw [State.appendOwed]; split
    · exact ⟨hs, hs.owedOnlyFull_of_none (by assumption)⟩
    · next u hu =>
      obtain ⟨h1, h2⟩ := hs.owedStep hu
      exact ih h1 (by omega)

theorem State.ListSound.owed_le (hs : s.ListSound n) : s.owedCount ≤ 512 := by
  have : s.owedSeats ≤ allSeats.length := List.countP_le_length
  rw [hs.owed]; simpa [allSeats] using this

/-! A list settled at entry to RUNNING (R162) -/

/-- The entries that an entry to RUNNING finds below the seat count. -/
def State.inRange (s : State) : List Seat := s.changeList.filter fun i => i.val < s.layout.seatCount

/-- Its newest entries beyond the new capacity. -/
def State.overflow (s : State) (cap : Nat) : List Seat := s.inRange.drop cap

/-- The list of an entry to RUNNING before owed seats are appended. -/
def State.settled (s : State) (cap : Nat) : State :=
  let t := (s.dropOutOfRange s.layout.seatCount).dropOverflow cap
  let t := t.putWords t.layout.changeList (t.changeList.map seatWord)
  { t with capacity := cap, writePos := t.changeList.length % cap,
           fillCount := t.fillCount - BitVec.ofNat 16 (s.changeList.length - t.changeList.length) }

theorem settleChangeList_eq : s.settleChangeList cap
    = ((State.appendOwed 512 (s.settled cap)).writeFill.writeOwed.writeTaken).notifyChanges := rfl

theorem settled_frame : s.settled cap = { (s.dropOutOfRange s.layout.seatCount).dropOverflow cap with
    ram := (s.settled cap).ram, badParity := (s.settled cap).badParity, capacity := cap, writePos := (s.inRange.take cap).length % cap
    fillCount := s.fillCount - word (s.changeList.length - (s.inRange.take cap).length) } := by
  unfold State.settled
  dsimp only
  rw [putWords_frame]
  rfl

theorem settled_changeList : (s.settled cap).changeList = s.inRange.take cap := by rw [settled_frame]; rfl
theorem settled_writePos : (s.settled cap).writePos = (s.inRange.take cap).length % cap := by rw [settled_frame]
theorem settled_fillCount : (s.settled cap).fillCount = s.fillCount - word (s.changeList.length - (s.inRange.take cap).length) := by
  rw [settled_frame]
theorem settled_takenCount : (s.settled cap).takenCount = s.takenCount := by rw [settled_frame]; rfl
theorem settled_owedCount : (s.settled cap).owedCount
    = s.owedCount - allSeats.countP (fun i => s.layout.seatCount ≤ i.val && (s.seat i).board.owed) + (s.overflow cap).length := by
  rw [settled_frame]; rfl

/-- The flags of a seat once the list is settled. -/
def State.settledBoard (s : State) (cap : Nat) (j : Seat) : BoardSeat :=
  let b := (s.seat j).board
  let here := decide (j.val < s.layout.seatCount)
  let dropped := decide (j ∈ s.overflow cap)
  { b with listed := b.listed && here && !dropped, relistDue := b.relistDue && here && !dropped, owed := b.owed && here || dropped }

theorem seat_settled : (s.settled cap).seat j = { s.seat j with board := s.settledBoard cap j } := by
  have h : (s.settled cap).seat j = ((s.dropOutOfRange s.layout.seatCount).dropOverflow cap).seat j 
      := by
    rw [settled_frame]; rfl
  have hany : (s.overflow cap).any (fun k => k.val == j.val) = decide (j ∈ s.overflow cap) := by
    rw [Bool.eq_iff_iff, List.any_eq_true, decide_eq_true_eq]
    exact ⟨fun ⟨k, hk, e⟩ => (Fin.ext (by simpa using e) : k = j) ▸ hk, fun hj => ⟨j, hj, by simp⟩⟩
  have h1 : ((s.dropOutOfRange s.layout.seatCount).dropOverflow cap).seat j = if (s.overflow cap).any (fun k => k.val == j.val)
      then { (s.dropOutOfRange s.layout.seatCount).seat j with board := { ((s.dropOutOfRange s.layout.seatCount).seat j).board with listed := false, relistDue := false, owed := true } }
      else (s.dropOutOfRange s.layout.seatCount).seat j := by
    simp only [State.seat, State.dropOverflow, Fin.getElem_fin, Vector.getElem_mapFinIdx]
    rfl
  have h2 : (s.dropOutOfRange s.layout.seatCount).seat j = if j.val < s.layout.seatCount then s.seat j
      else { s.seat j with board := { (s.seat j).board with listed := false, relistDue := false, owed := false } } := by
    simp only [State.seat, State.dropOutOfRange, Fin.getElem_fin, Vector.getElem_mapIdx]
  rw [h, h1, h2, hany]
  by_cases ho : j ∈ s.overflow cap <;> by_cases hc : j.val < s.layout.seatCount <;> simp [State.settledBoard, ho, hc]

theorem overflow_sub (h : j ∈ s.overflow cap) : j ∈ s.changeList ∧ j.val < s.layout.seatCount := by
  have := List.mem_of_mem_drop h
  simpa [State.inRange, List.mem_filter] using this

theorem countP_mem {l : List Seat} (h : l.Nodup) : allSeats.countP (fun i => decide (i ∈ l)) = l.length := by
  rw [List.countP_eq_length_filter]
  refine ((List.perm_ext_iff_of_nodup (nodup_allSeats.filter _) h).2 fun i => ?_).length_eq
  simp [List.mem_filter, List.mem_finRange]

theorem countP_or {α : Type} (p q : α → Bool) (l : List α) (h : ∀ a ∈ l, p a = true → q a = false) :
    l.countP (fun a => p a || q a) = l.countP p + l.countP q := by
  induction l with
  | nil => rfl
  | cons a l ih =>
    have ha := h a List.mem_cons_self
    simp only [List.countP_cons, ih fun b hb => h b (List.mem_cons_of_mem _ hb)]
    cases hp : p a <;> cases hq : q a <;> simp_all <;> omega

theorem State.ListSound.settled (hs : s.ListSound 0) (hb : 16 ≤ cap ∧ cap ≤ 512) : (s.settled cap).ListSound 0 := by
  have hn : s.inRange.Nodup := hs.nodup.filter _
  have hsub : s.inRange.length ≤ s.changeList.length := List.length_filter_le _ _
  have hmem : ∀ j, j ∈ s.inRange.take cap ↔ j ∈ s.changeList ∧ j.val < s.layout.seatCount ∧ j ∉ s.overflow cap := fun j => by
    have h1 : j ∈ s.inRange ↔ j ∈ s.changeList ∧ j.val < s.layout.seatCount := by simp [State.inRange, List.mem_filter]
    have h2 : j ∈ s.inRange ↔ j ∈ s.inRange.take cap ∨ j ∈ s.overflow cap := by
      rw [State.overflow, ← List.mem_append, List.take_append_drop]
    have h3 : j ∈ s.inRange.take cap → j ∉ s.overflow cap := fun h h' =>
      List.disjoint_take_drop hn le_rfl h h'
    rw [← and_assoc, ← h1, h2]; tauto
  have hboard : ∀ j, ((s.settled cap).seat j).board = s.settledBoard cap j := fun j => by rw [seat_settled]
  refine {
    bounds := hb
    short := by rw [settled_changeList, List.length_take]; exact Nat.min_le_left _ _
    nodup := by rw [settled_changeList]; exact hn.sublist (List.take_sublist _ _)
    pos := by rw [settled_writePos]; exact Nat.mod_lt _ (show 0 < cap by omega)
    count := ?_
    listed := fun j => ?_
    due := fun j => ?_
    apart := fun j => ?_
    owed := ?_ }
  · have hle : (s.inRange.take cap).length ≤ s.changeList.length := (List.length_take_le' _ _).trans hsub
    have hw : word s.changeList.length = word (s.inRange.take cap).length + word (s.changeList.length - (s.inRange.take cap).length) := by
      rw [word, word, word, ← BitVec.ofNat_add, Nat.add_sub_cancel' hle]
    have hc := hs.count
    rw [Nat.add_zero, hw] at hc
    rw [settled_fillCount, settled_takenCount, settled_changeList, Nat.add_zero, sub_right_comm, hc, add_sub_cancel_right]
  · rw [hboard, settled_changeList, hmem]
    simp [State.settledBoard, hs.listed j, and_assoc]
  · rw [hboard]
    have := hs.due j
    simp only [State.settledBoard, Bool.and_eq_true]
    tauto
  · rw [hboard]
    have ha := hs.apart j
    have ho : j ∈ s.overflow cap → (s.settledBoard cap j).listed = false := fun h => by simp [State.settledBoard, h]
    intro h
    by_cases hj : j ∈ s.overflow cap
    · exact ho hj
    · simp only [State.settledBoard, hj, decide_false, Bool.or_false, Bool.and_eq_true] at h ⊢
      simp [ha h.1]
  · have hsplit : s.owedSeats = allSeats.countP (fun i => (s.seat i).board.owed && decide (i.val < s.layout.seatCount))
        + allSeats.countP (fun i => s.layout.seatCount ≤ i.val && (s.seat i).board.owed) := by
      rw [← countP_or]
      · exact List.countP_congr fun i _ => by
          by_cases h : i.val < s.layout.seatCount <;> simp [h, Nat.not_lt.1]
      · intro i _ h
        simp only [Bool.and_eq_true, decide_eq_true_eq] at h
        simp [Nat.not_le.2 h.2]
    have hall : (s.settled cap).owedSeats = allSeats.countP (fun i => (s.seat i).board.owed && decide (i.val < s.layout.seatCount))
        + (s.overflow cap).length := by
      rw [← countP_mem (hn.sublist (List.drop_sublist _ _) : (s.overflow cap).Nodup), ← countP_or]
      · simp only [State.owedSeats, hboard, State.settledBoard]
      · intro i _ h
        simp only [Bool.and_eq_true] at h
        by_contra hm
        have := (hs.listed i).2 (overflow_sub (by simpa using hm)).1
        rw [hs.apart i h.1] at this; cases this
    rw [settled_owedCount, hs.owed, hall, hsplit, Nat.add_sub_cancel]

/-! The law in two parts -/

/-- The law of the change list, closed to unfolding: its proofs go by the two parts. -/
@[irreducible] def State.ListLawful (s : State) : Prop := s.ListSound 0 ∧ s.OwedOnlyFull

theorem listLawful_iff : s.ListLawful ↔ s.ListSound 0 ∧ s.OwedOnlyFull := by unfold State.ListLawful; rfl

theorem listLawful_looksAt : LooksAt State.ListLawful fListed qListed := fun s t he hq hs => by
  rw [listLawful_iff] at hs ⊢
  exact ⟨listSound_looksAt s t he hq hs.1, owedOnlyFull_looksAt s t he hq hs.2⟩

theorem State.ListLawful.offer (hs : s.ListLawful) (i : Seat) : (s.offer i).ListLawful := by
  rw [listLawful_iff] at hs ⊢
  exact ⟨hs.1.offer i, hs.2.offer hs.1.short i⟩

theorem State.ListSound.lawful_appendOwed (hs : s.ListSound 0) : (State.appendOwed 512 s).ListLawful :=
  listLawful_iff.2 (hs.appendOwed hs.owed_le)

/-! A taken count delivered (R161) -/

/-- The accepted taken count after a write of v: v, or the fill count where v is beyond the entries present. -/
def State.acceptedTaken (s : State) (v : Word) : Word := if s.changeList.length < (v - s.takenCount).toNat then s.fillCount else v

/-- The number of entries that a write of v releases. -/
def State.takenEntries (s : State) (v : Word) : Nat := (s.acceptedTaken v - s.takenCount).toNat

/-- The state at the release of the entries, MARK_RANGE recorded where the count is beyond those present. -/
def State.markedTaken (s : State) (v : Word) : State :=
  if s.changeList.length < (v - s.takenCount).toNat then s.recordFault takenCountAddr .markRange else s

/-- The state once the entries are released and the count accepted. -/
def State.releasedTaken (s : State) (v : Word) : State :=
  State.writeTaken { State.release (s.takenEntries v) (s.markedTaken v) with takenCount := s.acceptedTaken v }

theorem acceptTaken_eq (v : Word) : s.acceptTaken v = (State.appendOwed 512 (s.releasedTaken v)).notifyChanges := rfl

theorem takenEntries_le (hs : s.ListSound 0) (v : Word) : s.takenEntries v ≤ s.changeList.length := by
  unfold State.takenEntries State.acceptedTaken
  split
  · rw [hs.count, word, BitVec.toNat_ofNat]
    exact Nat.mod_le _ _
  · omega

theorem State.ListSound.releasedTaken (hs : s.ListSound 0) (v : Word) : (s.releasedTaken v).ListSound 0 := by
  have h0 : (s.markedTaken v).ListSound 0 ∧ (s.markedTaken v).changeList = s.changeList ∧ (s.markedTaken v).takenCount = s.takenCount := by
    unfold State.markedTaken; split
    · exact ⟨listSound_looksAt.still (erase_recordFault (by decide)) hs, rfl, rfl⟩
    · exact ⟨hs, rfl, rfl⟩
  obtain ⟨h0, hlist, htaken⟩ := h0
  have h1 := h0.release (k := s.takenEntries v) (by rw [hlist]; exact takenEntries_le hs v)
  have ht : (State.release (s.takenEntries v) (s.markedTaken v)).takenCount = s.takenCount :=
    (erase_keeps_takenCount (erase_release (k := allBut [.takenCount]) (by decide) _ _) rfl).trans htaken
  refine listSound_looksAt.still (erase_writeTaken (by decide)) ?_
  refine { bounds := h1.bounds, short := h1.short, nodup := h1.nodup, pos := h1.pos, count := ?_, listed := h1.listed, due := h1.due,
           apart := h1.apart, owed := h1.owed }
  have hc := h1.count
  have hn : word (s.takenEntries v) = s.acceptedTaken v - s.takenCount := by
    rw [State.takenEntries, word, BitVec.ofNat_toNat, BitVec.setWidth_eq]
  rw [ht, Nat.zero_add, word, BitVec.ofNat_add] at hc
  show (State.release (s.takenEntries v) (s.markedTaken v)).fillCount - s.acceptedTaken v = word _
  change _ = word _ + word _ at hc
  rw [hn, sub_eq_iff_eq_add] at hc
  rw [hc]
  simp only [Nat.add_zero]
  ring

theorem listLawful_acceptTaken (hs : s.ListLawful) (v : Word) : (s.acceptTaken v).ListLawful := by
  have h := ((listLawful_iff.1 hs).1.releasedTaken v).lawful_appendOwed
  rw [acceptTaken_eq]
  generalize State.appendOwed 512 (s.releasedTaken v) = u at h
  exact listLawful_looksAt.still (erase_notifyChanges (by decide)) h

theorem listLawful_deliverTaken (hs : s.ListLawful) (v : Word) : (s.deliverTaken v).ListLawful :=
  listLawful_acceptTaken (listLawful_looksAt.still (erase_putWord (by decide)) hs) v

/-! Board writes -/

theorem listLawful_boardWord (hs : s.ListLawful) (i : Seat) : (s.boardWord i).ListLawful := by
  have stamped : ∀ a w x b, State.ListLawful { (s.setBoard i { (s.seat i).board with stamp := x }).putWord a w with boardWrites := b } :=
    fun a w x b => by
      have h : (s.setBoard i { (s.seat i).board with stamp := x }).ListLawful := by
        refine listLawful_looksAt _ _ (erase_setBoard (by decide)) (fun j => ?_) hs
        rw [seat_setBoard]; split
        · next e => subst e; rfl
        · rfl
      exact listLawful_looksAt.still (erase_with_boardWrites rfl) (listLawful_looksAt.still (erase_putWord (by decide)) h)
  unfold State.boardWord; split
  · exact hs
  dsimp only
  split
  · exact stamped _ _ _ _
  split
  · exact (stamped _ _ _ _).offer i
  · exact stamped _ _ _ _

theorem listLawful_finishBoardWrite (hs : s.ListLawful) (i : Seat) : (s.finishBoardWrite i).ListLawful := by
  have words : ∀ (k : Nat) (u : State), u.ListLawful → (State.boardWords i k u).ListLawful := by
    intro k
    induction k with
    | zero => exact fun _ h => h
    | succ k ih => exact fun u hu => ih _ (listLawful_boardWord hu i)
  unfold State.finishBoardWrite; split
  · exact hs
  · exact words _ _ hs

/-! A start -/

theorem listLawful_settleChangeList (hs : s.ListLawful) (hb : 16 ≤ cap ∧ cap ≤ 512) : (s.settleChangeList cap).ListLawful := by
  have h := ((listLawful_iff.1 hs).1.settled hb).lawful_appendOwed
  rw [settleChangeList_eq]
  generalize State.appendOwed 512 (s.settled cap) = u at h
  refine listLawful_looksAt.still (erase_notifyChanges (by decide)) ?_
  refine listLawful_looksAt.still (erase_writeTaken (by decide)) (listLawful_looksAt.still (erase_writeOwed (by decide)) ?_)
  exact listLawful_looksAt.still (erase_writeFill (by decide)) h

theorem listLawful_endChecking (hs : s.ListLawful) : s.endChecking.ListLawful := by
  have hj : s.startJudged.ListLawful := listLawful_looksAt.still ((erase_takeSetup (by decide)).trans (erase_readOn (by decide) _ _)) hs
  rw [endChecking_eq]; split
  · next hc =>
    obtain ⟨-, -, h3, h4, -⟩ := sound_of_failure_none (failure_none_of_startCode_ok hc)
    have hstores : (s.startJudged.startStores s.startReads).ListLawful :=
      listLawful_looksAt s.startJudged _ (by simp [erase, State.startStores, State.replaceStores]) (.of_seats rfl) hj
    have hseats : (s.startJudged.startSeats s.startReads).ListLawful :=
      startSeats_keeps (P := State.ListLawful)
        (fun _ _ h => listLawful_looksAt _ _ (erase_retire (by decide)) (seatFrame_retire (by decide)) h)
        (fun u _ h => listLawful_looksAt.still (s := u) rfl h) hstores
    have hentered : (s.startJudged.startEntered s.startReads).ListLawful := by
      unfold State.startEntered State.enterRunning
      refine listLawful_settleChangeList ?_ ⟨h3, h4⟩
      refine listLawful_looksAt.still (erase_startOrders (by decide)) (listLawful_looksAt.still (erase_writeFloorHeader (by decide)) ?_)
      refine listLawful_looksAt.still (erase_startEvaluation (by decide)) ?_
      exact listLawful_looksAt.still (erase_startLinks (by decide)) (listLawful_looksAt.still (erase_with_part rfl) hseats)
    refine succeedStart_keeps (P := State.ListLawful) (fun t i h => ?_) (fun t h => listLawful_looksAt.still (erase_raise (by decide)) h)
      hentered
    exact listLawful_looksAt _ _ (erase_publishChange (by decide)) (seatFrame_publishChange (by decide)) h
  · exact listLawful_looksAt.still (erase_failStart (by decide)) hj

/-! Every step -/

theorem listLawful_reset (h1 : s.seats = State.reset.seats) (h2 : s.capacity = 16)
    (h3 : s.changeList = []) (h4 : s.writePos = 0) (h5 : s.fillCount = 0) (h6 : s.takenCount = 0) (h7 : s.owedCount = 0) : s.ListLawful := by
  have hseat : ∀ i, s.seat i = resetSeat := fun i => by simp [State.seat, h1, State.reset]
  refine listLawful_iff.2 ⟨⟨by omega, by simp [h3], by simp [h3], by omega, by rw [h3, h5, h6]; rfl, fun i => ?_, fun i => ?_,
    fun i => ?_, ?_⟩, by simp [State.OwedOnlyFull, h7]⟩
  · simp [hseat, h3, resetSeat]
  · simp [hseat, resetSeat]
  · simp [hseat, resetSeat]
  · rw [h7]; exact (List.countP_eq_zero.2 fun i _ => by simp [hseat, resetSeat]).symm

theorem listLawful_exec (hs : s.ListLawful) (he : exec c s = .next t) : t.ListLawful := by
  refine exec_keeps (P := State.ListLawful) (listLawful_reset rfl rfl rfl rfl rfl rfl rfl) (listLawful_reset rfl rfl rfl rfl rfl rfl rfl)
    hs (fun c ho he => ?_) he
  cases c
  case powerOnReset | softReset | registerWrite => cases ho
  case hostRamWrite a v =>
    cases he
    show (s.hostWrite a v).ListLawful
    unfold State.hostWrite; split
    · exact listLawful_looksAt.still (erase_holdOff (by decide)) hs
    unfold State.serveWrite; split
    · unfold State.guardedWrite; split
      · exact listLawful_looksAt.still (erase_putWord (by decide)) hs
      · exact listLawful_looksAt.still (erase_recordFault (by decide)) hs
      · exact listLawful_looksAt.still (erase_judgePageState (by decide)) hs
      · exact listLawful_deliverTaken hs v
    · exact listLawful_looksAt.still (erase_putWord (by decide)) hs
  case takenCountWrite v =>
    cases he
    show (s.hostTakenWrite v).ListLawful
    unfold State.hostTakenWrite; split
    · exact listLawful_deliverTaken hs v
    · exact listLawful_looksAt.still (erase_hostWrite_unguarded (by assumption) (by decide)) hs
  case checkingEnd =>
    cases he; split
    · exact listLawful_endChecking hs
    · exact hs
  case boardWrite i =>
    cases he; split
    · exact listLawful_finishBoardWrite hs i
    · exact hs
  all_goals exact listLawful_looksAt.exec rfl rfl he hs

theorem listLawful_access (hs : s.ListLawful) (ha : Access s t) : t.ListLawful := by
  cases ha with
  | idle => exact hs
  | clear => exact listLawful_looksAt.still (erase_with_clearNext rfl) (listLawful_looksAt.still (erase_putWord (by decide)) hs)
  | read a => exact listLawful_looksAt.still (erase_readOne (by decide)) hs
  | begin w => exact listLawful_looksAt.still (erase_beginSlot (by decide)) hs
  | share w b hw hb _ _ =>
    refine listLawful_looksAt.still (erase_with_worked rfl) ?_
    exact listLawful_looksAt s _ (erase_bulkSeat (by decide) (s, b)) (seatFrame_bulkSeat (by decide) (s, b)) hs
  | opening w b => exact listLawful_looksAt.still (s := s) rfl hs
  | board e => exact listLawful_looksAt.still (erase_askNextWord (by decide)) (listLawful_boardWord hs _)

/-- Settles O10: an offer, a release and an append keep the list sound, the list of a start is cut to its new bounds, and owed
seats are appended as long as there is room. -/
theorem stepKeepsChangeListLaw : Obligations.StepKeepsChangeListLaw := by
  unfold Obligations.StepKeepsChangeListLaw
  intro s t hs h
  rw [changeListLaw_iff, ← listLawful_iff] at hs ⊢
  exact step_keeps (P := State.ListLawful) (fun s _ h => listLawful_looksAt.still (s := s) rfl h) (fun _ _ hs ha => listLawful_access hs ha)
    (fun _ _ _ hs he => listLawful_exec hs he) hs h

end Sys2Proof.Machine
end

section
/-! PROOFS. The battery estimators: their ranges, the order of their histories, and the curves, under every step (R95 to R109). -/

namespace Sys2Proof.Machine

variable {s t u : State} {c : Instr} {i j : Seat} {e : Estimator} {k : Curve} {now : Clock} {P : Estimator → Prop}

/-! Ranges of one estimator -/

/-- The filter moves F toward the reading, so it stays within any bound of both. -/
theorem filtered_le {f r n : Nat} (shift : Nat) (hf : f ≤ n) (hr : r * 16 ≤ n) : filtered f r shift ≤ n := by
  have hp : (0 : Int) < ((2 ^ shift : Nat) : Int) := by exact_mod_cast Nat.pow_pos (by decide)
  have hq : Int.fdiv ((r * 16 : Nat) - (f : Int)) ((2 ^ shift : Nat) : Int) ≤ max 0 ((r * 16 : Nat) - (f : Int)) := by
    rw [Int.fdiv_eq_ediv_of_nonneg _ hp.le]
    by_cases hd : (0 : Int) ≤ (r * 16 : Nat) - (f : Int)
    · exact (Int.ediv_le_self _ hd).trans (le_max_right _ _)
    · exact (Int.ediv_neg_of_neg_of_pos (not_le.1 hd) hp).le.trans (le_max_left _ _)
  unfold filtered
  omega

/-- A charge read off a list of breakpoints is no more than their largest charge. -/
theorem interpolate_le {n v : Nat} : ∀ {l : List (Nat × Nat)}, (∀ p ∈ l, p.2 ≤ n) → interpolate v l ≤ n
  | [], _ => Nat.zero_le _
  | [(_, c0)], h => h (_, c0) List.mem_cons_self
  | (v0, c0) :: (v1, c1) :: rest, h => by
    have h0 : c0 ≤ n := h (v0, c0) List.mem_cons_self
    have h1 : c1 ≤ n := h (v1, c1) (List.mem_cons_of_mem _ List.mem_cons_self)
    unfold interpolate; split
    · next hv =>
      have hq : (v - v0) * (c1 - c0) / (v1 - v0) ≤ c1 - c0 := by
        refine Nat.div_le_of_le_mul ?_
        exact Nat.mul_le_mul_right _ (by omega)
      omega
    · exact interpolate_le fun p hp => h p (List.mem_cons_of_mem _ hp)

theorem chargeAt_le (h : k.faulty = false) (v : Nat) : chargeAt k v ≤ 1000 := by
  have hall : ∀ c ∈ k.charges.toList, c ≤ 1000 := by
    simp only [Curve.faulty, Bool.not_eq_false', Bool.and_eq_true, List.all_eq_true, decide_eq_true_eq] at h
    exact h.1.2
  unfold chargeAt; split
  · exact hall _ (by simp [Vector.mem_toList_iff])
  · exact interpolate_le fun p hp => hall _ (List.of_mem_zip hp).2

theorem lawful_restarted {g : Word} : (restartedEstimator g).lawful := by simp [Estimator.lawful, restartedEstimator]

/-- The voltage, the charge and the status that an F in its range gives are in theirs. -/
theorem lawful_voltageTaken (hf : e.f ≤ 16368) (hc : e.charge ≤ 1000) (hm : e.minutes ≤ 999) (hl : e.history.length ≤ 8)
    (hh : ∀ p ∈ e.history, p.2 ≤ 1000) :
    (derived (if k.faulty then { e with v := roundedVoltage e.f }
      else { e with v := roundedVoltage e.f, charge := chargeAt k (roundedVoltage e.f) }) k.faulty).lawful := by
  have hv : roundedVoltage e.f ≤ 1023 := by unfold roundedVoltage; omega
  split
  · exact ⟨hf, hv, fun _ => rfl, hc, hm, hl, hh⟩
  · next hk => exact ⟨hf, hv, fun _ => rfl, chargeAt_le (by simpa using hk) _, hm, hl, hh⟩

theorem lawful_takeReading {r : Nat} (h : e.lawful) (hr : r ≤ 1023) : (takeReading k e r now).lawful := by
  obtain ⟨hf, -, -, hc, hm, hl, hh⟩ := h
  unfold takeReading; extract_lets x
  have hx : x.f ≤ 16368 ∧ x.charge ≤ 1000 ∧ x.minutes ≤ 999 ∧ x.history.length ≤ 8 ∧ ∀ p ∈ x.history, p.2 ≤ 1000 := by
    unfold x; split
    · exact ⟨filtered_le _ hf (by omega), hc, hm, hl, hh⟩
    · exact ⟨by dsimp only; omega, hc, hm, hl, hh⟩
  obtain ⟨h1, h2, h3, h4, h5⟩ := hx
  exact lawful_voltageTaken h1 h2 h3 h4 h5

theorem lawful_arrival {g : Word} {f b : Bool} {r : Nat} (h : e.lawful) (hr : r ≤ 1023) : (arrivalEstimator k g e f b r now).1.lawful := by
  have h1 : (if f then restartedEstimator g else e).lawful := by
    split
    · exact lawful_restarted
    · exact h
  unfold arrivalEstimator; dsimp only
  generalize (if f then restartedEstimator g else e) = x at h1
  split
  · exact h1
  split
  · exact h1
  split
  · exact lawful_takeReading lawful_restarted hr
  · exact lawful_takeReading h1 hr

theorem lawful_computed (h : e.lawful) : (computed e).lawful := by
  obtain ⟨hf, hv, hr, hc, -, hl, hh⟩ := h
  unfold computed
  split
  · split
    · exact ⟨hf, hv, hr, hc, Nat.zero_le _, hl, hh⟩
    split
    · exact ⟨hf, hv, hr, hc, Nat.zero_le _, hl, hh⟩
    split
    · exact ⟨hf, hv, hr, hc, by assumption, hl, hh⟩
    · exact ⟨hf, hv, hr, hc, le_rfl, hl, hh⟩
  · exact ⟨hf, hv, hr, hc, Nat.zero_le _, hl, hh⟩

theorem lawful_withHistory {h : List (Clock × Nat)} {n : Clock} (he : e.lawful) (h1 : h.length ≤ 8) (h2 : ∀ p ∈ h, p.2 ≤ 1000) :
    Estimator.lawful { e with history := h, nextSample := n } := by
  obtain ⟨hf, hv, hr, hc, hm, -, -⟩ := he
  exact ⟨hf, hv, hr, hc, hm, h1, h2⟩

theorem computed_frame : computed e = { e with result := (computed e).result, minutes := (computed e).minutes } := by
  unfold computed
  (repeat' split) <;> rfl

theorem computed_history : (computed e).history = e.history := by rw [computed_frame]
theorem computed_nextSample : (computed e).nextSample = e.nextSample := by rw [computed_frame]
theorem computed_seeded : (computed e).seeded = e.seeded := by rw [computed_frame]

/-- The history that a trim leaves. -/
def trimmedHistory (e : Estimator) (now : Clock) : List (Clock × Nat) := e.history.dropWhile fun p => ageLimit < elapsed p.1 now

theorem trimmedHistory_suffix : trimmedHistory e now <:+ e.history := List.dropWhile_suffix _

theorem trimmed_history : (trimmed e now).history = trimmedHistory e now := by
  unfold trimmed; dsimp only
  split
  · exact computed_history
  · exact (trimmedHistory_suffix.eq_of_length (le_antisymm trimmedHistory_suffix.length_le (by unfold trimmedHistory; omega))).symm

theorem trimmed_nextSample : (trimmed e now).nextSample = if reached e.nextSample now then aged e.nextSample now else e.nextSample := by
  unfold trimmed; dsimp only
  split
  · rw [computed_nextSample]
  · rfl

theorem trimmed_seeded : (trimmed e now).seeded = e.seeded := by
  unfold trimmed; dsimp only
  split
  · exact computed_seeded
  · rfl

theorem lawful_trimmed (h : e.lawful) : (trimmed e now).lawful := by
  obtain ⟨hf, hv, hr, hc, hm, hl, hh⟩ := id h
  have hx : Estimator.lawful { e with history := trimmedHistory e now } :=
    ⟨hf, hv, hr, hc, hm, trimmedHistory_suffix.length_le.trans hl, fun p hp => hh p (trimmedHistory_suffix.subset hp)⟩
  unfold trimmed; dsimp only
  split
  · exact lawful_computed hx
  · exact h

theorem lawful_historyWork {b : Bool} (h : e.lawful) : (historyWork k e b now).lawful := by
  have ht := lawful_trimmed (now := now) h
  have hs : (sampled k (trimmed e now) now).lawful := by
    obtain ⟨-, -, -, hc, -, hl, hh⟩ := id ht
    refine lawful_computed (lawful_withHistory ht ?_ fun p hp => ?_)
    · rw [List.length_append, List.length_singleton, roomFor]; split
      · rw [List.length_drop]; omega
      · omega
    · rcases List.mem_append.1 hp with hp | hp
      · refine hh p ?_
        unfold roomFor at hp; split at hp
        · exact List.mem_of_mem_drop hp
        · exact hp
      · rw [List.mem_singleton.1 hp]; exact hc
  unfold historyWork; dsimp only
  split
  · exact hs
  · exact ht

/-! The order of one history -/

theorem historyLawful_restarted {g : Word} : (restartedEstimator g).historyLawful := by simp [Estimator.historyLawful, restartedEstimator]

/-- The law looks at the history, the next sample time and whether the estimator is seeded. -/
theorem historyLawful_congr {e e' : Estimator} (h : e.historyLawful) (h1 : e'.history = e.history) (h2 : e'.nextSample = e.nextSample)
    (h3 : e'.seeded = e.seeded) : e'.historyLawful := by
  obtain ⟨a, b, c⟩ := h
  exact ⟨h1 ▸ a, fun hs => by rw [h1]; exact b (h3 ▸ hs), by rw [h1, h2]; exact c⟩

/-- An estimator without a history. -/
theorem historyLawful_of_nil (h : e.history = []) : e.historyLawful := by
  refine ⟨h ▸ List.Pairwise.nil, fun _ => h, ?_⟩
  rw [h]; exact fun p hp => by cases hp

theorem historyLawful_takeReading {r : Nat} (h : e.historyLawful) : (takeReading k e r now).historyLawful := by
  cases hs : e.seeded with
  | true =>
    refine historyLawful_congr h ?_ ?_ ?_ <;> unfold takeReading derived <;> simp only [hs, if_true] <;> split <;> simp
  | false =>
    refine historyLawful_of_nil (Eq.trans ?_ (h.2.1 hs))
    unfold takeReading derived; simp only [hs]; split <;> rfl

theorem historyLawful_arrival {g : Word} {f b : Bool} {r : Nat} (h : e.historyLawful) : (arrivalEstimator k g e f b r now).1.historyLawful := by
  have h1 : (if f then restartedEstimator g else e).historyLawful := by
    split
    · exact historyLawful_restarted
    · exact h
  unfold arrivalEstimator; dsimp only
  generalize (if f then restartedEstimator g else e) = x at h1
  split
  · exact h1
  split
  · exact historyLawful_congr h1 rfl rfl rfl
  split
  · exact historyLawful_takeReading historyLawful_restarted
  · exact historyLawful_takeReading (historyLawful_congr h1 rfl rfl rfl)

/-- A time lies after another on the part clock, by at most the age to which a stored reading is moved forward. -/
abbrev follows (a b : Clock) : Prop := 0 < (b - a).toNat ∧ (b - a).toNat ≤ 1000000000

theorem reached_iff {n : Clock} : reached n now = true ↔ elapsed n now < 2147483648 := decide_eq_true_iff

/-- What is left by a trim: the last entry p, no older than the first, the next sample time n of a lawful history. -/
theorem age_of_last {q p n : Clock} (hq : elapsed q now ≤ ageLimit) (hqp : q = p ∨ follows q p) (hn : 0 < (n - p).toNat ∧ (n - p).toNat ≤ 120000)
    (hr : elapsed n now < 2147483648) : 0 < (now - p).toNat ∧ (now - p).toNat ≤ 1000000000 := by
  simp only [elapsed, ageLimit] at hq hr
  unfold follows at hqp
  rcases hqp with rfl | hqp <;> bv_omega

/-- An entry p between the first, q, and the last, l, of a history whose first and last are no older than the age limit. -/
theorem age_of_entry {q p l : Clock} (hq : elapsed q now ≤ ageLimit) (hl : follows l now) (hqp : q = p ∨ follows q p)
    (hpl : p = l ∨ follows p l) : follows p now := by
  simp only [elapsed, ageLimit] at hq
  unfold follows at *
  rcases hpl with rfl | hpl
  · exact hl
  rcases hqp with rfl | hqp <;> bv_omega

/-- The entries that a trim leaves of an ordered history: each is the first or follows it, and is the last or is followed by it. -/
theorem follows_ends {h : List (Clock × Nat)} {q l : Clock × Nat} (hp : h.Pairwise fun p q => follows p.1 q.1) (hq : h.head? = some q)
    (hl : h.getLast? = some l) : ∀ p ∈ h, (q.1 = p.1 ∨ follows q.1 p.1) ∧ (p.1 = l.1 ∨ follows p.1 l.1) := by
  intro p hm
  constructor
  · obtain ⟨rest, rfl⟩ : ∃ rest, h = q :: rest := by
      cases h with
      | nil => cases hq
      | cons a rest => cases hq; exact ⟨rest, rfl⟩
    rcases List.mem_cons.1 hm with rfl | hm
    · exact .inl rfl
    · exact .inr (List.rel_of_pairwise_cons hp hm)
  · obtain ⟨front, rfl⟩ := List.getLast?_eq_some_iff.1 hl
    rcases List.mem_append.1 hm with hm | hm
    · exact .inr ((List.pairwise_append.1 hp).2.2 p hm l (List.mem_singleton_self l))
    · rw [List.mem_singleton.1 hm]; exact .inl rfl

/-- The first entry that a trim leaves is no older than the age limit. -/
theorem age_of_head {q : Clock × Nat} (h : (trimmedHistory e now).head? = some q) : elapsed q.1 now ≤ ageLimit := by
  unfold trimmedHistory at h
  have := List.head?_dropWhile_not (fun p : Clock × Nat => decide (ageLimit < elapsed p.1 now)) e.history
  rw [h] at this
  simpa using this

/-- What a trim leaves of an ordered history stays ordered, and where it leaves an entry, the next sample time that the clock
has reached is not moved. -/
theorem trimmed_ages (h : e.historyLawful) {l : Clock × Nat} (hl : (trimmedHistory e now).getLast? = some l)
    (hr : reached e.nextSample now = true) : follows l.1 now ∧ ∀ p ∈ trimmedHistory e now, follows p.1 now := by
  obtain ⟨hp, -, hn⟩ := h
  have hp' := hp.sublist (trimmedHistory_suffix (now := now)).sublist
  have hlast : e.history.getLast? = some l := by
    obtain ⟨front, hfront⟩ := trimmedHistory_suffix (e := e) (now := now)
    rw [← hfront, List.getLast?_append, hl]; rfl
  cases hq : (trimmedHistory e now).head? with
  | none => rw [List.head?_eq_none_iff.1 hq] at hl; cases hl
  | some q =>
    have hlm : l ∈ trimmedHistory e now := List.mem_of_getLast? hl
    have hends := follows_ends hp' hq hl
    have hage := age_of_last (age_of_head hq) (hends l hlm).1 (hn l hlast) (reached_iff.1 hr)
    exact ⟨hage, fun p hm => age_of_entry (age_of_head hq) hage (hends p hm).1 (hends p hm).2⟩

theorem historyLawful_trimmed (h : e.historyLawful) : (trimmed e now).historyLawful := by
  obtain ⟨hp, hs, hn⟩ := id h
  refine ⟨?_, fun hs' => ?_, fun l hl => ?_⟩
  · rw [trimmed_history]; exact hp.sublist trimmedHistory_suffix.sublist
  · rw [trimmed_history]; exact List.suffix_nil.1 (hs (trimmed_seeded ▸ hs') ▸ trimmedHistory_suffix)
  · rw [trimmed_history] at hl
    have hlast : e.history.getLast? = some l := by
      obtain ⟨front, hfront⟩ := trimmedHistory_suffix (e := e) (now := now)
      rw [← hfront, List.getLast?_append, hl]; rfl
    have hnl := hn l hlast
    rw [trimmed_nextSample]
    split
    · next hr =>
      obtain ⟨hage, -⟩ := trimmed_ages h hl hr
      have hkeep : aged e.nextSample now = e.nextSample := by
        unfold aged
        rw [if_neg]
        simp only [elapsed, ageLimit]
        have hr := reached_iff.1 hr
        unfold follows at hage
        unfold elapsed at hr
        bv_omega
      rw [hkeep]; exact hnl
    · exact hnl

theorem sampled_seeded : (sampled k e now).seeded = e.seeded := computed_seeded
theorem sampled_history : (sampled k e now).history = roomFor e.history ++ [(now, e.charge)] := computed_history
theorem sampled_nextSample : (sampled k e now).nextSample = now + BitVec.ofNat 32 (k.period * 1000) := computed_nextSample

theorem roomFor_sublist (h : List (Clock × Nat)) : (roomFor h).Sublist h := by
  unfold roomFor; split
  · exact List.drop_sublist _ _
  · exact List.Sublist.refl _

/-- A due sample stands behind the entries that the trim left. -/
theorem historyLawful_sampled (h : e.historyLawful) (hk : 10 ≤ k.period ∧ k.period ≤ 120) (hs : e.seeded = true)
    (hr : reached (trimmed e now).nextSample now = true) : (sampled k (trimmed e now) now).historyLawful := by
  have ht := historyLawful_trimmed (now := now) h
  refine ⟨?_, fun hs' => ?_, fun l hl => ?_⟩
  · rw [sampled_history, List.pairwise_append]
    refine ⟨ht.1.sublist (roomFor_sublist _), List.pairwise_singleton _ _, fun p hp q hq => ?_⟩
    rw [List.mem_singleton.1 hq]
    have hp := (roomFor_sublist _).subset hp
    rw [trimmed_history] at hp
    cases hl : (trimmedHistory e now).getLast? with
    | none => rw [List.getLast?_eq_none_iff.1 hl] at hp; cases hp
    | some l =>
      have hn : reached e.nextSample now = true := by
        rw [trimmed_nextSample] at hr
        by_contra hc
        rw [if_neg hc] at hr; exact hc hr
      exact (trimmed_ages h hl hn).2 p hp
  · rw [sampled_seeded, trimmed_seeded, hs] at hs'; cases hs'
  · rw [sampled_history, List.getLast?_concat] at hl
    cases hl
    rw [sampled_nextSample]
    have h1 : (BitVec.ofNat 32 (k.period * 1000)).toNat = k.period * 1000 := by
      rw [BitVec.toNat_ofNat]; omega
    rw [add_sub_cancel_left, h1]
    omega

theorem historyLawful_historyWork {b : Bool} (h : e.historyLawful) (hk : 10 ≤ k.period ∧ k.period ≤ 120) :
    (historyWork k e b now).historyLawful := by
  unfold historyWork; dsimp only
  split
  · next hd =>
    simp only [sampleDue, Bool.and_eq_true] at hd
    obtain ⟨-, ⟨⟨hs, -⟩, -⟩, hr⟩ := hd
    rw [trimmed_seeded] at hs
    exact historyLawful_congr (historyLawful_sampled h hk hs hr) rfl rfl rfl
  · exact historyLawful_congr (historyLawful_trimmed h) rfl rfl rfl

/-! What every event keeps of every estimator -/

/-- The events that change an estimator keep P: a restart, an arrival, and an evaluation under a curve that `ok` admits. -/
structure EstimatorRules (P : Estimator → Prop) (ok : Curve → Prop) : Prop where
  restarted : ∀ g, P (restartedEstimator g)
  arrival : ∀ k g e f b r now, r ≤ 1023 → P e → P (arrivalEstimator k g e f b r now).1
  work : ∀ k e b now, ok k → P e → P (historyWork k e b now)

theorem rules_lawful : EstimatorRules Estimator.lawful (fun _ => True) where
  restarted _ := lawful_restarted
  arrival _ _ _ _ _ _ _ hr h := lawful_arrival h hr
  work _ _ _ _ _ h := lawful_historyWork h

theorem rules_historyLawful : EstimatorRules Estimator.historyLawful (fun k => 10 ≤ k.period ∧ k.period ≤ 120) where
  restarted _ := historyLawful_restarted
  arrival _ _ _ _ _ _ _ _ h := historyLawful_arrival h
  work _ _ _ _ hk h := historyLawful_historyWork h hk

/-- Every seat's estimator meets P. -/
@[irreducible] def State.EachEstimator (s : State) (P : Estimator → Prop) : Prop := ∀ i, P (s.seat i).estimator

theorem eachEstimator_iff : s.EachEstimator P ↔ ∀ i, P (s.seat i).estimator := by unfold State.EachEstimator; rfl

/-- The shares that it looks at. -/
abbrev qEstimator : SFld → Bool := fun f => f != .estimator

theorem each_looksAt : LooksAt (State.EachEstimator · P) [] qEstimator := fun s t _ hq hs =>
  eachEstimator_iff.2 fun i => by rw [hq.estimator i rfl]; exact eachEstimator_iff.1 hs i

theorem each_of_seats (h : t.seats = s.seats) (hs : s.EachEstimator P) : t.EachEstimator P := by
  rw [eachEstimator_iff] at hs ⊢
  simpa only [State.seat, h] using hs

theorem each_setEstimator {x : Estimator} (hs : s.EachEstimator P) (hx : P x) : (s.setEstimator i x).EachEstimator P := by
  rw [eachEstimator_iff] at hs ⊢
  intro j
  rw [seat_setEstimator]; split
  · exact hx
  · exact hs j

section
variable {ok : Curve → Prop}

theorem each_restartEstimator (R : EstimatorRules P ok) (hs : s.EachEstimator P) : (s.restartEstimator i).EachEstimator P :=
  each_looksAt _ _ (erase_setMonitors (by decide)) (seatFrame_setMonitors (by decide)) (each_setEstimator hs (R.restarted _))

theorem each_batteryArrival (R : EstimatorRules P ok) {f b : Bool} {r : Nat} (hr : r ≤ 1023) (hs : s.EachEstimator P) :
    (s.batteryArrival i f b r).EachEstimator P := by
  have h := fun k g => each_setEstimator (i := i) hs (R.arrival k g _ f b r s.clock hr (eachEstimator_iff.1 hs i))
  unfold State.batteryArrival; dsimp only
  split
  · exact each_looksAt _ _ (erase_setMonitors (by decide)) (seatFrame_setMonitors (by decide)) (h _ _)
  · exact h _ _

theorem each_acceptReport (R : EstimatorRules P ok) {r : Report} (hs : s.EachEstimator P) : (s.acceptReport i r).EachEstimator P := by
  unfold State.acceptReport
  refine each_looksAt _ _ (erase_muteArrival (by decide)) (seatFrame_muteArrival (by decide)) ?_
  refine each_batteryArrival R (Nat.le_of_lt_succ r.reading.isLt) ?_
  refine each_looksAt _ _ (erase_setTracker (by decide)) (seatFrame_setTracker (by decide)) ?_
  exact each_looksAt _ _ (erase_setCtx (by decide)) (seatFrame_setSeat rfl) hs

theorem each_publishVisible {b : State} {is : List Seat} (hs : s.EachEstimator P) : (publishVisible b s is).EachEstimator P :=
  each_looksAt _ _ (erase_publishVisible (by decide)) (seatFrame_publishVisible (by decide)) hs

theorem each_markForeign (hs : s.EachEstimator P) : (s.setCtx i { (s.seat i).ctx with foreignSeen := true }).EachEstimator P :=
  each_looksAt _ _ (erase_setCtx (by decide)) (seatFrame_setSeat rfl) hs

theorem each_judgeReport (R : EstimatorRules P ok) {l : LinkId} {r : Report} (hs : s.EachEstimator P) :
    (s.judgeReport l r).EachEstimator P := by
  unfold State.judgeReport; split
  · exact each_looksAt.still (erase_countDiscard (by decide)) hs
  split
  · exact each_publishVisible (each_acceptReport R hs)
  · exact each_markForeign (each_looksAt.still (erase_countDiscard (by decide)) hs)

theorem each_takeReport (R : EstimatorRules P ok) {l : LinkId} (hs : s.EachEstimator P) : (s.takeReport l).EachEstimator P := by
  unfold State.takeReport; split
  · exact hs
  · exact each_judgeReport R (each_of_seats (s := s) rfl hs)

theorem each_applyRecord (R : EstimatorRules P ok) {r : SeatRecord} (hs : s.EachEstimator P) : (s.applyRecord i r).EachEstimator P := by
  obtain ⟨b, h⟩ := seat_applyRecord (s := s) (i := i) r
  rw [eachEstimator_iff] at hs ⊢
  intro j
  rw [h]; split
  · exact R.restarted _
  · exact hs j

theorem each_retire (R : EstimatorRules P ok) (hs : s.EachEstimator P) : (s.retire i).EachEstimator P := by
  rw [eachEstimator_iff] at hs ⊢
  intro j
  rw [seat_retire]; split
  · exact R.restarted _
  · exact hs j

theorem each_seatWork (R : EstimatorRules P ok) {p : Seat → Prop} (h : SeatWork p s t) (hs : s.EachEstimator P) : t.EachEstimator P :=
  h.keeps (P := (State.EachEstimator · P)) (fun _ _ hs he => each_looksAt.still (erase_widen (by decide) he) hs)
    (fun _ _ _ hs _ _ => each_applyRecord R hs)
    (fun _ _ _ hs _ => each_looksAt _ _ (erase_acknowledgeSeat (by decide)) (seatFrame_acknowledgeSeat (by decide)) hs) hs

/-! Evaluations -/

theorem each_batteryWork (R : EstimatorRules P ok) {b : Bool} (hk : ∀ c, ok (s.curveOf c)) (hs : s.EachEstimator P) :
    (s.batteryWork i b).EachEstimator P := by
  have hg : (s.generationCheck i).EachEstimator P ∧ (s.generationCheck i).curves = s.curves := by
    unfold State.generationCheck; split
    · exact ⟨hs, rfl⟩
    · exact ⟨each_restartEstimator R hs, rfl⟩
  obtain ⟨h1, h2⟩ := hg
  unfold State.batteryWork
  generalize s.generationCheck i = u at h1 h2
  refine each_setEstimator h1 (R.work _ _ _ _ ?_ (eachEstimator_iff.1 h1 i))
  have := hk (u.seat i).ctx.curve
  simpa only [State.seatCurve, State.curveOf, h2] using this

theorem each_judgeSeat (R : EstimatorRules P ok) (hk : ∀ c, ok (s.curveOf c)) (hs : s.EachEstimator P) : (s.judgeSeat i).EachEstimator P := by
  have store : (s.seatStoreWork i (s.isSilent i)).EachEstimator P :=
    each_looksAt _ _ (erase_seatStoreWork (by decide)) (seatFrame_seatStoreWork (by decide)) hs
  have signal : ((s.seatStoreWork i (s.isSilent i)).signalWork i (s.isSilent i)).EachEstimator P :=
    each_looksAt _ _ (erase_signalWork (by decide)) (seatFrame_signalWork (by decide)) store
  refine each_looksAt _ _ (erase_setMonitors (by decide)) (seatFrame_setMonitors (by decide)) ?_
  refine each_looksAt _ _ (erase_deadlineCheck (by decide)) (seatFrame_deadlineCheck (by decide)) ?_
  exact each_batteryWork R hk signal

theorem each_passOn (R : EstimatorRules P ok) (hk : ∀ c, ok (s.curveOf c)) (hs : s.EachEstimator P) : s.passOn.EachEstimator P := by
  unfold State.passOn; split
  · exact hs
  split
  · exact each_of_seats (s := s) rfl hs
  next j hj =>
  refine each_looksAt.still (erase_settlePass (by decide)) (each_of_seats (s := s.evaluate j) rfl ?_)
  exact each_looksAt _ _ (erase_publishEvaluation (by decide)) (seatFrame_publishEvaluation (by decide)) (each_judgeSeat R hk hs)

theorem each_evaluateWhen (R : EstimatorRules P ok) {b : Bool} (hk : s.part = .running → ∀ c, ok (s.curveOf c)) (hs : s.EachEstimator P) :
    (s.evaluateWhen i b).EachEstimator P := by
  unfold State.evaluateWhen; split
  · next h =>
    simp only [State.evaluable, Bool.and_eq_true, beq_iff_eq] at h
    exact each_passOn R (hk h.1.1) hs
  · exact hs

/-! Every step -/

theorem each_exec (R : EstimatorRules P ok) (hk : s.part = .running → ∀ c, ok (s.curveOf c)) (hs : s.EachEstimator P)
    (he : exec c s = .next t) : t.EachEstimator P := by
  have reset : ∀ u : State, u.seats = State.reset.seats → u.EachEstimator P := fun u h => eachEstimator_iff.2 fun i => by
    have hi : u.seat i = resetSeat := by simp [State.seat, h, State.reset]
    rw [hi]; exact R.restarted 0
  refine exec_keeps (P := (State.EachEstimator · P)) (reset _ rfl) (reset _ rfl) hs (fun c ho he => ?_) he
  cases c
  case powerOnReset | softReset | registerWrite => cases ho
  case checkingEnd =>
    cases he; split
    · exact each_looksAt.endChecking rfl rfl (fun _ i h => each_retire R h) (fun u _ h => each_of_seats (s := u) rfl h) hs
    · exact hs
  case loadSeat => exact each_seatWork R (p := fun _ => True) (seatWork_loadSeat (fun _ _ => trivial) he) hs
  case bulkSlice => exact each_seatWork R (p := fun _ => True) (seatWork_bulkSlice (fun _ _ _ _ _ _ => trivial) he) hs
  case reportTake l =>
    cases he; split
    · exact each_takeReport R hs
    · exact hs
  case seatEvaluation =>
    cases he; split
    · exact each_passOn R (hk (by assumption)) hs
    · exact hs
  case fadeWindowRollover => cases he; exact each_evaluateWhen R hk hs
  case historySample => cases he; exact each_evaluateWhen R hk hs
  case confirmationDeadlineExpiry => cases he; exact each_evaluateWhen R hk hs
  case restartEstimator =>
    cases he
    refine workSlot_keeps (P := (State.EachEstimator · P)) (fun _ _ he => each_looksAt.still (erase_widen (by decide) he)) (fun _ o u hu => ?_) hs
    show (onActiveSeat o u _).1.EachEstimator P
    unfold onActiveSeat; split
    · exact hu
    split
    · exact each_publishVisible (each_restartEstimator R hu)
    · exact hu
  all_goals exact each_looksAt.exec rfl rfl he hs

theorem each_step (R : EstimatorRules P ok) (hk : s.part = .running → ∀ c, ok (s.curveOf c)) (hs : s.EachEstimator P)
    (h : step s = .next t) : t.EachEstimator P := by
  obtain ⟨-, ha⟩ | ⟨c, rest, -, he⟩ := step_cases h
  · exact each_looksAt.access rfl rfl (fun _ _ _ _ h => each_seatWork R h hs) ha hs
  · exact each_exec (s := { s with pending := rest }) R hk (each_of_seats (s := s) rfl hs) he

end

/-! The curves (R95, R96) -/

/-- The sample periods of the curves held are in their range. -/
def State.periodsLawful (s : State) : Prop := ∀ cs ∈ s.curves, ∀ c : Fin 4, 10 ≤ cs[c].period ∧ cs[c].period ≤ 120

theorem periods_curvesOfTable (ws : List Word) (c : Fin 4) : 10 ≤ (curvesOfTable ws)[c].period ∧ (curvesOfTable ws)[c].period ≤ 120 := by
  simp only [curvesOfTable, stagedCurves, stagedCurve, Fin.getElem_fin, Vector.getElem_ofFn]
  exact clampTo_bounds (by decide)

theorem succeedStart_curves (rs : List ReadWord) :
    (s.succeedStart rs).curves = some (curvesOfTable ((valuesOf rs).drop wordsBeforeTables)) := by
  rw [erase_keeps_curves (erase_publishStart (k := allBut [.curves]) (by decide)) rfl]
  unfold State.startEntered
  rw [erase_keeps_curves (erase_enterRunning (k := allBut [.curves]) (by decide)) rfl,
    erase_keeps_curves (erase_startSeats (k := allBut [.curves]) (by decide)) rfl]
  rfl

/-- The Curve Store is as before or holds the curves of a table. -/
def CurvesTaken (s t : State) : Prop := t.curves = s.curves ∨ ∃ ws, t.curves = some (curvesOfTable ws)

theorem CurvesTaken.trans (h1 : CurvesTaken s t) (h2 : CurvesTaken t u) : CurvesTaken s u := by
  rcases h2 with h2 | h2
  · rcases h1 with h1 | ⟨ws, h1⟩
    · exact .inl (h2.trans h1)
    · exact .inr ⟨ws, h2.trans h1⟩
  · exact .inr h2

theorem curvesTaken_reload {o : Slot} : CurvesTaken s (reloadWork o s).1 := by
  unfold reloadWork; dsimp only
  split
  · exact .inl rfl
  · exact .inr ⟨_, rfl⟩

/-- A command keeps the Curve Store or fills it with the curves of a table, or is a reset. -/
theorem curvesTaken_exec (he : exec c s = .next t) : CurvesTaken s t ∨ t.curves = none ∧ t.part ≠ .running := by
  refine exec_keeps (s := s) (P := fun t => CurvesTaken s t ∨ t.curves = none ∧ t.part ≠ .running)
    (.inr ⟨rfl, by simp [State.powerOn, State.reset]⟩) (.inr ⟨rfl, by simp [State.softReset]⟩) (.inl (.inl rfl)) (fun c ho he => .inl ?_) he
  cases c
  case powerOnReset | softReset | registerWrite => cases ho
  case checkingEnd =>
    cases he; split
    · rw [endChecking_eq]; split
      · exact .inr ⟨_, succeedStart_curves _⟩
      · refine .inl ((erase_keeps_curves (s := s.startJudged) (erase_failStart (k := allBut [.curves]) (by decide)) rfl).trans ?_)
        exact erase_keeps_curves ((erase_takeSetup (k := allBut [.curves]) (by decide)).trans (erase_readOn (by decide) _ _)) rfl
    · exact .inl rfl
  case reloadClasses =>
    cases he
    exact workSlot_rel (R := CurvesTaken) (fun _ _ _ => .trans)
      (fun _ _ he => .inl (erase_keeps_curves (erase_widen (k' := allBut [.curves]) (by decide) he) rfl))
      (fun _ _ _ _ => curvesTaken_reload)
  all_goals exact .inl (erase_keeps_curves (erase_exec (k := allBut [.curves]) (opens_of_all rfl) he) rfl)

theorem exec_checkingEnd (s : State) : exec .checkingEnd s = .next (if s.part = .checking then s.endChecking else s) := rfl

theorem curves_of_started (h : s.endChecking.part = .running) : s.endChecking.curves ≠ none := by
  rw [endChecking_eq] at h ⊢
  split
  · rw [succeedStart_curves]; exact Option.some_ne_none _
  · next hc => rw [if_neg hc] at h; cases h

theorem curveLaw_exec (hs : s.curveLaw) (he : exec c s = .next t) : t.curveLaw := by
  obtain ⟨hrun, hper⟩ := hs
  rcases curvesTaken_exec he with (h | ⟨ws, h⟩) | ⟨h, hp⟩
  · refine ⟨fun hp => ?_, by rw [h]; exact hper⟩
    rw [h]
    rcases part_exec he with h1 | h1
    · exact hrun (h1 ▸ hp)
    · rcases h1 with ⟨-, h1⟩ | ⟨-, -, h1⟩ | ⟨-, -, h1⟩ | ⟨rfl, hpart, h1⟩ | ⟨-, -, h1⟩ | ⟨-, -, h1, -⟩ | ⟨-, -, h1⟩
      case inl.inl.inr.inr.inr.inr.inl =>
        rw [exec_checkingEnd, if_pos hpart] at he
        cases he
        exact h ▸ curves_of_started hp
      all_goals rw [hp] at h1; cases h1
  · refine ⟨fun _ => by rw [h]; simp, ?_⟩
    rw [h]
    exact fun cs hcs c => by cases hcs; exact periods_curvesOfTable ws c
  · exact ⟨fun hr => absurd hr hp, by rw [h]; exact fun cs hcs => by cases hcs⟩

theorem curveLaw_step (hs : s.curveLaw) (h : step s = .next t) : t.curveLaw := by
  obtain ⟨-, ha⟩ | ⟨c, rest, -, he⟩ := step_cases h
  · have he := erase_access (k := allBut [.part, .curves]) (by decide) ha
    have h1 := erase_keeps_part he rfl
    have h2 := erase_keeps_curves he rfl
    rw [State.curveLaw, h1, h2]; exact hs
  · exact curveLaw_exec (s := { s with pending := rest }) hs he

/-- While the part runs, every curve it reads has its sample period in the range. -/
theorem period_of_curveLaw (hs : s.curveLaw) (hp : s.part = .running) (c : Fin 4) : 10 ≤ (s.curveOf c).period ∧ (s.curveOf c).period ≤ 120 := by
  obtain ⟨hrun, hper⟩ := hs
  unfold State.curveOf; split
  · exact hper _ (by assumption) c
  · exact absurd (by assumption) (hrun hp)

/-- Settles O11: estimators change by restarts, arrivals and the work of an evaluation, each of which keeps the ranges and the
order of the history. -/
theorem stepKeepsEstimatorRanges : Obligations.StepKeepsEstimatorRanges := by
  unfold Obligations.StepKeepsEstimatorRanges
  intro s t h
  refine ⟨fun hs => ?_, fun hs => curveLaw_step hs h, fun hc hs => ?_⟩
  · exact eachEstimator_iff.1 (each_step rules_lawful (fun _ _ => trivial) (eachEstimator_iff.2 hs) h)
  · exact eachEstimator_iff.1 (each_step rules_historyLawful (period_of_curveLaw hc) (eachEstimator_iff.2 hs) h)

end Sys2Proof.Machine
end

section
/-! PROOFS. The laws of the order pages and of the lift under every step (R142 to R153). -/

namespace Sys2Proof.Machine

variable {s t u : State} {c : Instr} {i : Seat} {p : Page} {w : PageWork} {b : Bulk} {n : Nat}

/-! Reading a slot -/

theorem memGet_memCons_ne {m : List Host.Cell} {a x : Nat} {v : Byte} (h : x ≠ a) : memGet (memCons a v m) x = memGet m x := by
  unfold memCons; split
  · rfl
  · rw [memGet, if_neg (Ne.symm h)]

/-- A write leaves every other byte, in a memory of any form. -/
theorem memGet_memPut_ne {a x : Nat} {v : Byte} (h : x ≠ a) : ∀ m : List Host.Cell, memGet (memPut m a v) x = memGet m x
  | [] => memGet_memCons_ne h
  | (k, d) :: m => by
    unfold memPut; split
    · exact memGet_memCons_ne h
    split
    · next e => subst e; rw [memGet_memCons_ne h, memGet, if_neg (Ne.symm h)]
    · rw [memGet, memGet, memGet_memPut_ne h m]

theorem look_putWord_ne {a x : Nat} {v : Word} (h : x ≠ a) : (s.putWord a v).look x = s.look x := by
  have hr : (s.putWord a v).readWord x = s.readWord x := by
    unfold State.readWord State.putWord; dsimp only
    split
    · split
      · simp only [memGet_memPut_ne (show 2 * x ≠ 2 * a + 1 by omega), memGet_memPut_ne (show 2 * x ≠ 2 * a by omega),
          memGet_memPut_ne (show 2 * x + 1 ≠ 2 * a + 1 by omega), memGet_memPut_ne (show 2 * x + 1 ≠ 2 * a by omega)]
      · rfl
    · rfl
  unfold State.look
  rw [hr, wordBad_putWord, if_neg (by simp [h])]

theorem look_readOne (a x : Nat) : (s.readOne a).look x = s.look x := by
  unfold State.readOne State.readChecked; dsimp only; split <;> rfl

/-- The words read are, so far as there are any, the three of the slot. -/
def SlotRead (s : State) (w : PageWork) (rs : List ReadWord) : Prop := ∀ k < 3, ∀ r, rs[k]? = some r → r = s.slotRead w k

/-- A reading that starts with the words of a slot goes on with them, and ends with a bad word or beyond them. -/
theorem slotRead_readOn {next : List ReadWord → Option Nat} (base : Nat) (hnone : ∀ rs, next rs = none → firstBadRead rs ≠ none ∨ 3 ≤ rs.length)
    (hsome : ∀ rs a, next rs = some a → rs.length < 3 → a = base + rs.length) :
    ∀ (n : Nat) (u : State), SlotRead s w u.reads → (∀ k, u.reads.length ≤ k → k < 3 → u.look (base + k) = s.slotRead w k) →
      3 ≤ n + u.reads.length → SlotRead s w (State.readOn next n u).reads
        ∧ (firstBadRead (State.readOn next n u).reads ≠ none ∨ 3 ≤ (State.readOn next n u).reads.length)
  | 0, u, hu, _, hlen => ⟨hu, .inr (by rw [Nat.zero_add] at hlen; exact hlen)⟩
  | n + 1, u, hu, hlook, hlen => by
    unfold State.readOn; split
    · next h => exact ⟨hu, hnone _ h⟩
    · next a h =>
      have hreads : (u.readOne a).reads = u.reads ++ [u.look a] := rfl
      refine slotRead_readOn base hnone hsome n _ (fun k hk r hr => ?_) (fun k h1 h2 => ?_) ?_
      · rw [hreads] at hr
        by_cases hk' : k < u.reads.length
        · rw [List.getElem?_append_left hk'] at hr; exact hu k hk r hr
        · rw [List.getElem?_append_right (by omega)] at hr
          have e : k = u.reads.length := by
            by_contra hne
            rw [List.getElem?_eq_none (by simp; omega)] at hr; cases hr
          subst e
          rw [Nat.sub_self] at hr
          cases hr
          rw [hsome _ _ h hk]; exact hlook _ le_rfl hk
      · rw [look_readOne]
        refine hlook k ?_ h2
        rw [hreads, List.length_append] at h1; omega
      · rw [hreads, List.length_append, List.length_singleton]; omega

theorem nextOrderRead_none {rs : List ReadWord} (h : s.nextOrderRead w rs = none) : firstBadRead rs ≠ none ∨ 3 ≤ rs.length := by
  unfold State.nextOrderRead at h
  split at h
  · next hb => exact .inl fun e => by rw [e] at hb; cases hb
  split at h
  · cases h
  · exact .inr (by omega)

theorem nextOrderRead_slot {rs : List ReadWord} {a : Nat} (h : s.nextOrderRead w rs = some a) (hl : rs.length < 3) :
    a = s.layout.slotAddr w.page w.slot + rs.length := by
  unfold State.nextOrderRead at h
  split at h
  · cases h
  exact (Option.some.inj h).symm

/-- Beginning a slot leaves its words. -/
theorem look_beginSlot (k : Nat) : (s.beginSlot w).look (s.layout.slotAddr w.page w.slot + k) = s.look (s.layout.slotAddr w.page w.slot + k) := by
  unfold State.beginSlot; split
  · rfl
  · exact look_putWord_ne (by rw [slotAddr_eq, progressAddr_eq]; omega)

theorem beginSlot_reads : (s.beginSlot w).reads = if w.begun then s.reads else [] := by
  unfold State.beginSlot; split <;> rfl

/-- A slot entered for orders of some kinds, all of whose words were good, holds an order of one of them. -/
theorem takes_of_entered {takes : Word → Bool} (hf : s.slotFor w takes = true) (hg : firstBadRead ((s.enterSlot w).reads.take 3) = none) :
    takes (slotOf (valuesOf ((s.enterSlot w).reads.take 3))).kind = true := by
  have hlay : (s.beginSlot w).layout = s.layout := erase_keeps_layout (erase_beginSlot (k := allBut [.layout]) (by decide)) rfl
  obtain ⟨hslot, hend⟩ := slotRead_readOn (s := s) (w := w) (next := (s.beginSlot w).nextOrderRead { w with begun := true })
    (s.layout.slotAddr w.page w.slot) (fun _ => nextOrderRead_none)
    (fun rs a h hl => by rw [nextOrderRead_slot h hl, hlay]) (3 + tableWords) (s.beginSlot w)
    (fun k hk r hr => by rw [beginSlot_reads] at hr; rw [slotRead_eq, hr]; rfl)
    (fun k h1 h2 => by
      rw [look_beginSlot, slotRead_eq]
      rw [beginSlot_reads] at h1
      rw [List.getElem?_eq_none h1]; rfl)
    (by omega)
  change SlotRead s w (s.enterSlot w).reads at hslot
  change firstBadRead (s.enterSlot w).reads ≠ none ∨ 3 ≤ (s.enterSlot w).reads.length at hend
  generalize (s.enterSlot w).reads = rs at *
  have hgood := firstBadRead_eq_none.1 hg
  have hlen : 3 ≤ rs.length := by
    by_contra hl
    rw [List.take_of_length_le (by omega)] at hg
    exact hend.elim (fun h => h hg) (fun h => hl h)
  have hget : ∀ k < 3, (rs.take 3)[k]? = some (s.slotRead w k) := fun k hk => by
    have hr := List.getElem?_eq_getElem (show k < rs.length by omega)
    rw [List.getElem?_take_of_lt hk, hr, hslot k hk _ hr]
  simp only [State.slotFor, Bool.or_eq_true, List.any_eq_true, List.mem_range] at hf
  rcases hf with hf | ⟨k, hk, hbad⟩
  · have : nth (valuesOf (rs.take 3)) 0 = (s.slotRead w 0).value := by
      rw [nth, valuesOf, List.getElem?_map, hget 0 (by omega)]; rfl
    rw [slotOf, this]; exact hf
  · rw [hgood _ (List.mem_of_getElem? (hget k hk))] at hbad; cases hbad

/-! The law in parts -/

/-- A page is in the unit's hands. -/
def State.inHand (s : State) (p : Page) : Prop := s.pageState p = .taken ∨ s.pageState p = .aborting

/-- The law of the pages and of the lift, part by part. -/
structure State.PageParts (s : State) : Prop where
  nodup : s.posting.Nodup
  posted : ∀ p, p ∈ s.posting ↔ s.pageState p = .posted
  worked : ∀ w, s.worked = some w → s.workLawful w ∧ s.inHand w.page
  suspended : ∀ v, s.suspended = some v → (s.workLawful v ∧ s.inHand v.page) ∧ v.bulk.isSome ∧ s.worked.isSome
  apart : ∀ v w, s.suspended = some v → s.worked = some w → w.page ≠ v.page ∧ w.bulk = none
  lift : ∀ i, s.lift = some i → s.worked.isSome ∧ ∀ w, s.worked = some w → w.bulk = none ∧ w.bound = some (seatWord i)

theorem pageLaw_iff : s.pageLaw ↔ s.PageParts := by
  have all : ∀ q : Page → Prop, (∀ p ∈ [Page.a, Page.b], q p) ↔ ∀ p, q p := fun q =>
    ⟨fun h p => h p (by cases p <;> simp), fun h p _ => h p⟩
  constructor
  · rintro ⟨h1, h2, h3, h4, h5⟩
    exact ⟨h1, (all _).1 h2, fun w hw => h3 w hw, fun v hv => by obtain ⟨a, b, c, d, -⟩ := h4 v hv; exact ⟨⟨a, b⟩, c, d⟩,
      fun v w hv hw => (h4 v hv).2.2.2.2 w hw, fun i hi => ⟨(h5 i hi).1, fun w hw => (h5 i hi).2 w hw⟩⟩
  · rintro ⟨h1, h2, h3, h4, h5, h6⟩
    exact ⟨h1, (all _).2 h2, fun w hw => h3 w hw, fun v hv => by
      obtain ⟨⟨a, b⟩, c, d⟩ := h4 v hv; exact ⟨a, b, c, d, fun w hw => h5 v w hv hw⟩, fun i hi => ⟨(h6 i hi).1, fun w hw => (h6 i hi).2 w hw⟩⟩

/-- The fields that the law looks at. -/
abbrev fPages : List Fld := [.layout, .posting, .pageA, .pageB, .worked, .suspended, .lift]

/-- Those fields stand in t as they stand in s. -/
def SamePages (s t : State) : Prop := t.layout = s.layout ∧ t.posting = s.posting ∧ (∀ p, t.pageState p = s.pageState p)
  ∧ t.worked = s.worked ∧ t.suspended = s.suspended ∧ t.lift = s.lift

theorem samePages_of_erase (h : erase (allBut fPages) t = erase (allBut fPages) s) : SamePages s t :=
  ⟨erase_keeps_layout h rfl, erase_keeps_posting h rfl,
    fun p => by cases p <;> simp only [State.pageState, erase_keeps_pageA h rfl, erase_keeps_pageB h rfl],
    erase_keeps_worked h rfl, erase_keeps_suspended h rfl, erase_keeps_lift h rfl⟩

theorem workLawful_congr (h : t.layout = s.layout) : t.workLawful w ↔ s.workLawful w := by unfold State.workLawful; rw [h]

theorem inHand_congr (h : t.pageState p = s.pageState p) : t.inHand p ↔ s.inHand p := by unfold State.inHand; rw [h]

theorem State.PageParts.congr (hs : s.PageParts) (h : SamePages s t) : t.PageParts := by
  obtain ⟨hl, hpost, hstate, hw, hv, hlift⟩ := h
  obtain ⟨h1, h2, h3, h4, h5, h6⟩ := hs
  refine ⟨hpost ▸ h1, fun p => by rw [hpost, hstate]; exact h2 p, fun w hw' => ?_, fun v hv' => ?_, fun v w hv' hw' => ?_, fun i hi => ?_⟩
  · rw [workLawful_congr hl, inHand_congr (hstate _)]; exact h3 w (hw ▸ hw')
  · rw [workLawful_congr hl, inHand_congr (hstate _), hw]; exact h4 v (hv ▸ hv')
  · exact h5 v w (hv ▸ hv') (hw ▸ hw')
  · rw [hw]; exact h6 i (hlift ▸ hi)

/-- The law, closed to unfolding. -/
@[irreducible] def State.PagesLawful (s : State) : Prop := s.PageParts

theorem pagesLawful_iff : s.PagesLawful ↔ s.PageParts := by unfold State.PagesLawful; rfl

theorem pages_looksAt : LooksAt State.PagesLawful fPages (fun _ => true) := fun _ _ he _ hs =>
  pagesLawful_iff.2 ((pagesLawful_iff.1 hs).congr (samePages_of_erase he))

theorem State.PagesLawful.congr (hs : s.PagesLawful) (h : SamePages s t) : t.PagesLawful :=
  pagesLawful_iff.2 ((pagesLawful_iff.1 hs).congr h)

/-- Without a page in hand. -/
theorem pages_of_idle (h1 : s.posting.Nodup) (h2 : ∀ p, p ∈ s.posting ↔ s.pageState p = .posted) (h3 : s.worked = none)
    (h4 : s.suspended = none) (h5 : s.lift = none) : s.PagesLawful :=
  pagesLawful_iff.2 ⟨h1, h2, fun w hw => by simp [h3] at hw, fun v hv => by simp [h4] at hv, fun v w hv => by simp [h4] at hv,
    fun i hi => by simp [h5] at hi⟩

/-! A page in hand goes on -/

/-- The fields but the worked page and the lift stand in t as they stand in s. -/
def HandKept (s t : State) : Prop := t.layout = s.layout ∧ t.posting = s.posting ∧ (∀ p, t.pageState p = s.pageState p) ∧ t.suspended = s.suspended

/-- The page in hand goes on as w': a lawful place in the same page, which stands in no bulk order while a page is suspended and
keeps a lift only as the next slot is bound to it. -/
theorem State.PagesLawful.goOn (hs : s.PagesLawful) {w' : PageWork} (hw : s.worked = some w) (hp : w'.page = w.page) (hk : HandKept s t)
    (ht : t.worked = some w') (hl : s.workLawful w') (hv : s.suspended.isSome → w'.bulk = none)
    (hi : ∀ i, t.lift = some i → w'.bulk = none ∧ w'.bound = some (seatWord i)) : t.PagesLawful := by
  obtain ⟨hlay, hpost, hstate, hsus⟩ := hk
  obtain ⟨h1, h2, h3, h4, h5, h6⟩ := pagesLawful_iff.1 hs
  refine pagesLawful_iff.2 ⟨hpost ▸ h1, fun p => by rw [hpost, hstate]; exact h2 p, fun x hx => ?_, fun v hv' => ?_, fun v x hv' hx => ?_,
    fun i hi' => ⟨by rw [ht]; rfl, fun x hx => ?_⟩⟩
  · rw [ht] at hx; cases hx
    rw [workLawful_congr hlay, inHand_congr (hstate _), hp]; exact ⟨hl, (h3 w hw).2⟩
  · rw [workLawful_congr hlay, inHand_congr (hstate _), ht]
    obtain ⟨a, b, -⟩ := h4 v (hsus ▸ hv')
    exact ⟨a, b, rfl⟩
  · rw [ht] at hx; cases hx
    have hv'' := hsus ▸ hv'
    exact ⟨hp ▸ (h5 v w hv'' hw).1, hv (by rw [hv'']; rfl)⟩
  · rw [ht] at hx; cases hx; exact hi i hi'

theorem State.PagesLawful.worked (hs : s.PagesLawful) (hw : s.worked = some w) : s.workLawful w ∧ s.inHand w.page :=
  (pagesLawful_iff.1 hs).worked w hw

/-- While a page is suspended the worked one stands in no bulk order. -/
theorem State.PagesLawful.suspended_none (hs : s.PagesLawful) (hw : s.worked = some w) (hb : w.bulk = some b) : s.suspended = none := by
  cases hv : s.suspended with
  | none => rfl
  | some v =>
    have := ((pagesLawful_iff.1 hs).apart v w hv hw).2
    rw [hb] at this; cases this

/-- There is no lift while the next slot is not bound. -/
theorem State.PagesLawful.lift_none (hs : s.PagesLawful) (hw : s.worked = some w) (hb : w.bound = none) : s.lift = none := by
  cases hi : s.lift with
  | none => rfl
  | some i =>
    have := (((pagesLawful_iff.1 hs).lift i hi).2 w hw).2
    rw [hb] at this; cases this

/-! The orders -/

/-- The unit's place once the order of its slot has completed. -/
def PageWork.answered (w : PageWork) (e : OrderEnd) : PageWork :=
  { w with slot := w.slot + 1, begun := false, refusals := w.refusals || !e.code.success, bound := e.bound, bulk := none, ending := e.ending }

theorem finishOrder_worked {e : OrderEnd} : (s.finishOrder w e).worked = some (w.answered e) := rfl

theorem handKept_finishOrder {e : OrderEnd} : HandKept s (s.finishOrder w e) := by
  have h := erase_finishOrder (s := s) (w := w) (e := e) (k := allBut [.layout, .posting, .pageA, .pageB, .suspended]) (by decide)
  exact ⟨erase_keeps_layout h rfl, erase_keeps_posting h rfl,
    fun p => by cases p <;> simp only [State.pageState, erase_keeps_pageA h rfl, erase_keeps_pageB h rfl], erase_keeps_suspended h rfl⟩

/-- An order completes: the lift that it leaves is bound to the next slot. -/
theorem pages_finishOrder {e : OrderEnd} {w' : PageWork} (hs : s.PagesLawful) (hw : s.worked = some w') (hp : w.page = w'.page) (hc : w.count ≤ 32)
    (hslot : w.slot < w.count) (he : ∀ i, e.lift = some i → e.bound = some (seatWord i)) : (s.finishOrder w e).PagesLawful :=
  hs.goOn (w' := w.answered e) hw hp handKept_finishOrder finishOrder_worked ⟨hc, hslot, fun b hb => by cases hb⟩ (fun _ => rfl) fun i hi => ⟨rfl, he i hi⟩

theorem seatWord_of_seatOf {x : Word} (h : s.seatOf x = some i) : seatWord i = x := by
  unfold State.seatOf at h
  split at h
  · split at h
    · cases h; simp [seatWord, word]
    · cases h
  · cases h

/-- A bulk order starts in a slot to which no lift is bound. -/
theorem pages_startBulk (hs : s.PagesLawful) (hw : s.worked = some w) (hv : s.suspended = none) (hb : w.bound = none)
    (hslot : w.slot < w.count) (he : w.ending = none) (h1 : b.cursor ≤ b.stop) (h2 : b.stop ≤ s.layout.seatCount) (h3 : b.sliceLawful) :
    (s.startBulk w b).PagesLawful := by
  obtain ⟨hcount, hle, -⟩ := (hs.worked hw).1
  refine hs.goOn (w' := { w with bulk := some b, bound := none }) hw rfl ⟨rfl, rfl, fun p => by cases p <;> rfl, rfl⟩ rfl
    ⟨hcount, hle, fun c hc => by cases hc; exact ⟨hslot, h1, h2, rfl, he, h3⟩⟩ (fun h => by rw [hv] at h; cases h) fun i hi => ?_
  have : s.lift = none := hs.lift_none hw hb
  change s.lift = some i at hi
  rw [this] at hi; cases hi

theorem sliceLawful_opened (h : b.cursor ≤ b.stop) : b.opened.sliceLawful := by
  right
  simp only [Bulk.opened, sliceSize]
  omega

/-- How an order may end: it leaves the pages alone and binds what it lifts, or it starts a bulk order in a slot that is not bound. -/
def OrderEnds (t : State) (w : PageWork) : State × Option OrderEnd → Prop
  | (u, some e) => SamePages t u ∧ ∀ i, e.lift = some i → e.bound = some (seatWord i)
  | (u, none) => ∃ b : Bulk, u = t.startBulk w b ∧ t.suspended = none ∧ w.bound = none ∧ b.cursor ≤ b.stop ∧ b.stop ≤ t.layout.seatCount ∧ b.sliceLawful

theorem slotReady_iff : s.slotReady w = true → w.ending = none ∧ w.bulk = none ∧ w.slot < w.count := fun h => by
  simp only [State.slotReady, Bool.and_eq_true, Option.isNone_iff_eq_none, decide_eq_true_eq] at h
  obtain ⟨⟨⟨⟨-, h1⟩, h2⟩, h3⟩, -⟩ := h
  exact ⟨h1, h2, h3⟩

/-- The pages once a slot is entered. -/
theorem enterSlot_worked (h : s.worked = some w) : (s.enterSlot w).worked = some { w with begun := true } := by
  have hr : ∀ (next : List ReadWord → Option Nat) n (u : State), (State.readOn next n u).worked = u.worked := fun next n u =>
    erase_keeps_worked (erase_readOn (k := allBut [.worked]) (by decide) _ _) rfl
  unfold State.enterSlot
  rw [hr]
  unfold State.beginSlot
  split
  · next hb => rw [h, ← hb]
  · rfl

theorem handKept_enterSlot : HandKept s (s.enterSlot w) ∧ (s.enterSlot w).lift = s.lift := by
  have h := (erase_readOn (s := s.beginSlot w) (k := allBut [.layout, .posting, .pageA, .pageB, .suspended, .lift]) (by decide)
    (3 + tableWords) (next := (s.beginSlot w).nextOrderRead { w with begun := true })).trans (erase_beginSlot (by decide))
  change erase _ (s.enterSlot w) = _ at h
  exact ⟨⟨erase_keeps_layout h rfl, erase_keeps_posting h rfl,
    fun p => by cases p <;> simp only [State.pageState, erase_keeps_pageA h rfl, erase_keeps_pageB h rfl], erase_keeps_suspended h rfl⟩,
    erase_keeps_lift h rfl⟩

theorem pages_enterSlot (hs : s.PagesLawful) (hw : s.worked = some w) (hb : w.bulk = none) : (s.enterSlot w).PagesLawful := by
  obtain ⟨⟨hcount, hle, -⟩, -⟩ := hs.worked hw
  obtain ⟨hk, hl⟩ := handKept_enterSlot (s := s) (w := w)
  refine hs.goOn (w' := { w with begun := true }) hw rfl hk (enterSlot_worked hw) ⟨hcount, hle, fun b h => by rw [hb] at h; cases h⟩ (fun _ => hb) fun i hi => ?_
  exact ((pagesLawful_iff.1 hs).lift i (hl ▸ hi)).2 w hw

/-- Working a slot keeps the law, if the orders that it may hold do. -/
theorem pages_workSlot {takes : Word → Bool} {work : PageWork → Slot → State → State × Option OrderEnd} (hs : s.PagesLawful)
    (hw : ∀ (w : PageWork) (o : Slot) (t : State), takes o.kind = true → (knownKind o.kind = true → pairingHolds w o = true) →
      OrderEnds t w (work w o t)) : (workSlot takes work s).PagesLawful := by
  unfold workSlot; split
  · exact hs
  next w hwork =>
  split
  next hready =>
    rw [Bool.and_eq_true] at hready
    obtain ⟨hend, hbulk, hslot⟩ := slotReady_iff hready.1
    have hcount := (hs.worked hwork).1.1
    have ht := pages_enterSlot hs hwork hbulk
    have htw := enterSlot_worked hwork
    have htake := takes_of_entered hready.2
    generalize s.enterSlot w = t at ht htw htake
    have finish : ∀ {u : State} {e : OrderEnd}, SamePages t u → (∀ i, e.lift = some i → e.bound = some (seatWord i)) →
        (u.finishOrder { w with begun := true } e).PagesLawful := fun {u e} hu he =>
      pages_finishOrder (ht.congr hu) (hu.2.2.2.1.trans htw) rfl hcount hslot he
    have same : SamePages t t := samePages_of_erase rfl
    unfold workEntered; dsimp only
    split
    · exact finish same fun i hi => by cases hi
    next hgood =>
    split
    · exact finish same fun i hi => by cases hi
    next hpair =>
    have hpair : knownKind (slotOf (valuesOf (t.reads.take 3))).kind = true
        → pairingHolds { w with begun := true } (slotOf (valuesOf (t.reads.take 3))) = true := fun hk => by
      rw [hk] at hpair; simpa using hpair
    have := hw { w with begun := true } (slotOf (valuesOf (t.reads.take 3))) t (htake hgood) hpair
    split
    · next u e hue =>
      rw [hue] at this
      exact finish this.1 this.2
    · next u hue =>
      rw [hue] at this
      obtain ⟨b, rfl, h1, h2, h3, h4, h5⟩ := this
      exact pages_startBulk ht htw h1 h2 hslot hend h3 h4 h5
  · exact hs

/-- An order that completes in one event and leaves the pages alone. -/
theorem pages_workOrder {kind : Word} {work : Slot → State → State × OrderEnd} (hs : s.PagesLawful)
    (hw : ∀ o (t : State), erase (allBut fPages) (work o t).1 = erase (allBut fPages) t ∧ (work o t).2.lift = none) :
    (workOrder kind work s).PagesLawful :=
  pages_workSlot hs fun _ o t _ _ => ⟨samePages_of_erase (hw o t).1, fun i hi => by
    change (work o t).2.lift = some i at hi
    rw [(hw o t).2] at hi; cases hi⟩

/-! Bulk orders -/

/-- The share of a seat changes the counts of a bulk order alone. -/
theorem bulkSeat_frame (q : State × Bulk) (n : Nat) : (bulkSeat q n).2 = { q.2 with
    handled := (bulkSeat q n).2.handled, second := (bulkSeat q n).2.second, refused := (bulkSeat q n).2.refused,
    firstBad := (bulkSeat q n).2.firstBad } := by
  obtain ⟨s, b⟩ := q
  unfold bulkSeat
  split
  · rfl
  split
  · unfold loadOneOfRange judgeOneOfRange Bulk.failed; dsimp only
    split
    · rfl
    split
    · rfl
    split <;> rfl
  · unfold ackOneOfAll; dsimp only
    split <;> rfl

/-- A bulk order keeps its place, whatever its counts. -/
def SamePlace (b c : Bulk) : Prop := c.cursor = b.cursor ∧ c.stop = b.stop ∧ c.sliceEnd = b.sliceEnd ∧ c.atBoundary = b.atBoundary
  ∧ c.kind = b.kind ∧ c.suspendedMark = b.suspendedMark

theorem samePlace_bulkSeat (q : State × Bulk) (n : Nat) : SamePlace q.2 (bulkSeat q n).2 := by
  rw [bulkSeat_frame]; exact ⟨rfl, rfl, rfl, rfl, rfl, rfl⟩

theorem SamePlace.trans {a b c : Bulk} (h1 : SamePlace a b) (h2 : SamePlace b c) : SamePlace a c := by
  obtain ⟨a1, a2, a3, a4, a5, a6⟩ := h1
  obtain ⟨b1, b2, b3, b4, b5, b6⟩ := h2
  exact ⟨b1.trans a1, b2.trans a2, b3.trans a3, b4.trans a4, b5.trans a5, b6.trans a6⟩

theorem samePlace_foldl (l : List Nat) : ∀ q : State × Bulk, SamePlace q.2 (l.foldl bulkSeat q).2 := by
  induction l with
  | nil => exact fun q => ⟨rfl, rfl, rfl, rfl, rfl, rfl⟩
  | cons n l ih => exact fun q => (samePlace_bulkSeat q n).trans (ih _)

theorem slice_place (b : Bulk) : (s.slice b).2.cursor = b.sliceEnd ∧ (s.slice b).2.stop = b.stop ∧ (s.slice b).2.atBoundary = true := by
  obtain ⟨-, h2, -⟩ := samePlace_foldl (List.range' b.cursor (b.sliceEnd - b.cursor)) (s, b)
  exact ⟨rfl, h2, rfl⟩

theorem pages_workSlice (hs : s.PagesLawful) {w' : PageWork} (hw : s.worked = some w') (hv : s.suspended = none) (hp : w.page = w'.page)
    (hcount : w.count ≤ 32) (hslot : w.slot < w.count) (hbound : w.bound = none) (hlift : s.lift = none) (hend : w.ending = none)
    (h2 : b.stop ≤ s.layout.seatCount) : (s.workSlice w b).PagesLawful := by
  have he := samePages_of_erase (erase_slice (s := s) (b := b) (k := allBut fPages) (by decide))
  obtain ⟨hc, hst, hat⟩ := slice_place (s := s) b
  have hs1 := hs.congr he
  have hlay := he.1
  have hsus := he.2.2.2.2.1.trans hv
  have hl1 := he.2.2.2.2.2.trans hlift
  have hw1 := he.2.2.2.1.trans hw
  unfold State.workSlice
  generalize s.slice b = q at hc hst hat hs1 hlay hsus hl1 hw1
  obtain ⟨t, c⟩ := q
  dsimp only at hc hst hat hs1 hlay hsus hl1 hw1 ⊢
  split
  · exact pages_finishOrder hs1 hw1 hp hcount hslot fun i hi => by cases hi
  · next hmore =>
    refine hs1.goOn (w' := { w with bulk := some c }) hw1 hp ⟨rfl, rfl, fun p => by cases p <;> rfl, rfl⟩ rfl
      ⟨hcount, hslot.le, fun d hd => ?_⟩ (fun h => by rw [hsus] at h; cases h) fun i hi => ?_
    · cases hd
      exact ⟨hslot, by omega, by rw [hst, hlay]; exact h2, hbound, hend, .inl hat⟩
    · change t.lift = some i at hi
      rw [hl1] at hi; cases hi

/-! Taking a page -/

theorem pageState_writePageState {x : PageState} (q : Page) : (s.writePageState p x).pageState q = if q = p then x else s.pageState q := by
  cases p <;> cases q <;> rfl

theorem writePageState_frame {x : PageState} : (s.writePageState p x).layout = s.layout ∧ (s.writePageState p x).posting = s.posting
    ∧ (s.writePageState p x).worked = s.worked ∧ (s.writePageState p x).suspended = s.suspended ∧ (s.writePageState p x).lift = s.lift := by
  cases p <;> exact ⟨rfl, rfl, rfl, rfl, rfl⟩

/-- The head of the posting order is TAKEN, and its count has not been read. -/
def State.headTaken (s : State) (p : Page) (rest : List Page) : State :=
  ((({ s with posting := rest } : State).writeSummary p .complete).writeProgress p 0).writePageState p .taken

theorem headTaken_layout {rest : List Page} : (s.headTaken p rest).layout = s.layout :=
  (writePageState_frame (s := (({ s with posting := rest } : State).writeSummary p .complete).writeProgress p 0)).1

theorem takeHead_cons {rest : List Page} (h : s.posting = p :: rest) : s.takeHead =
    { (s.headTaken p rest).readChecked (s.layout.countAddr p) with
      worked := some (takenWork s.takings p ((s.headTaken p rest).look (s.layout.countAddr p))), takings := s.takings + 1, reads := [] } := by
  rw [← headTaken_layout (p := p) (rest := rest)]
  unfold State.takeHead
  rw [h]
  rfl

theorem takeHead_frame {rest : List Page} (h : s.posting = p :: rest) : s.takeHead.layout = s.layout ∧ s.takeHead.posting = rest
    ∧ (∀ q, s.takeHead.pageState q = if q = p then .taken else s.pageState q) ∧ s.takeHead.suspended = s.suspended ∧ s.takeHead.lift = s.lift
    ∧ ∃ r, s.takeHead.worked = some (takenWork s.takings p r) := by
  obtain ⟨e1, e2, -, e4, e5⟩ := writePageState_frame (s := (({ s with posting := rest } : State).writeSummary p .complete).writeProgress p 0)
    (p := p) (x := .taken)
  have e3 : ∀ q, (s.headTaken p rest).pageState q = if q = p then .taken else s.pageState q := fun q =>
    pageState_writePageState (s := (({ s with posting := rest } : State).writeSummary p .complete).writeProgress p 0) q
  change (s.headTaken p rest).layout = s.layout at e1
  change (s.headTaken p rest).posting = rest at e2
  change (s.headTaken p rest).suspended = s.suspended at e4
  change (s.headTaken p rest).lift = s.lift at e5
  rw [takeHead_cons h]
  generalize s.headTaken p rest = u at *
  obtain ⟨f1, f2, f3, -, f5, f6⟩ : SamePages u (u.readChecked (s.layout.countAddr p)) := samePages_of_erase (erase_readChecked (by decide))
  exact ⟨f1.trans e1, f2.trans e2, fun q => (f3 q).trans (e3 q), f5.trans e4, f6.trans e5, _, rfl⟩

theorem takenWork_lawful {k : Nat} {r : ReadWord} : s.workLawful (takenWork k p r) := by
  refine ⟨?_, Nat.zero_le _, fun b hb => by cases hb⟩
  simp only [takenWork]
  split
  · next h => simp only [Bool.and_eq_true, decide_eq_true_eq] at h; exact h.2
  · decide

theorem inHand_ne_posted (h : s.inHand p) : s.pageState p ≠ .posted := by
  rcases h with h | h <;> rw [h] <;> decide

/-- The head of the posting order is taken while no page is worked; a suspended page is kept. -/
theorem pages_takeHead {rest : List Page} (h : s.posting = p :: rest) (h1 : s.posting.Nodup) (h2 : ∀ q, q ∈ s.posting ↔ s.pageState q = .posted)
    (hv : ∀ v, s.suspended = some v → (s.workLawful v ∧ s.inHand v.page) ∧ v.bulk.isSome) (hl : s.lift = none) : s.takeHead.PagesLawful := by
  obtain ⟨hlay, hpost, hstate, hsus, hlift, r, hw⟩ := takeHead_frame h
  rw [h, List.nodup_cons] at h1
  have hmem : s.pageState p = .posted := (h2 p).1 (h ▸ List.mem_cons_self)
  have hpage : ∀ v, s.suspended = some v → v.page ≠ p := fun v hv' e => inHand_ne_posted (e ▸ (hv v hv').1.2) hmem
  refine pagesLawful_iff.2 ⟨hpost ▸ h1.2, fun q => ?_, fun x hx => ?_, fun v hv' => ?_, fun v x hv' hx => ?_, fun i hi => ?_⟩
  · rw [hpost, hstate]
    split
    · next e => subst e; simp [h1.1]
    · next e => rw [← h2 q, h, List.mem_cons]; simp [e]
  · rw [hw] at hx; cases hx
    exact ⟨takenWork_lawful, .inl (by rw [hstate]; simp [takenWork])⟩
  · rw [hsus] at hv'
    obtain ⟨⟨a, b⟩, c⟩ := hv v hv'
    have hkept : s.takeHead.pageState v.page = s.pageState v.page := by rw [hstate, if_neg (hpage v hv')]
    rw [workLawful_congr hlay, inHand_congr hkept, hw]
    exact ⟨⟨a, b⟩, c, rfl⟩
  · rw [hw] at hx; cases hx
    exact ⟨Ne.symm (hpage v (hsus ▸ hv')), rfl⟩
  · rw [hlift, hl] at hi; cases hi

theorem pages_takeIfFree (h1 : s.posting.Nodup) (h2 : ∀ q, q ∈ s.posting ↔ s.pageState q = .posted) (hw : s.worked = none)
    (hv : s.suspended = none) (hl : s.lift = none) : s.takeIfFree.PagesLawful := by
  unfold State.takeIfFree; split
  · cases h : s.posting with
    | nil =>
      have : s.takeHead = s := by unfold State.takeHead; rw [h]
      rw [this]; exact pages_of_idle h1 h2 hw hv hl
    | cons p rest => exact pages_takeHead h h1 h2 (fun v hv' => by rw [hv] at hv'; cases hv') hl
  · exact pages_of_idle h1 h2 hw hv hl

theorem pages_suspend (hs : s.PagesLawful) (hw : s.worked = some w) (hb : w.bulk = some b) (hy : s.yields w b = true) : (s.suspend w b).PagesLawful := by
  obtain ⟨h1, h2, h3, -, -, -⟩ := pagesLawful_iff.1 hs
  obtain ⟨⟨hcount, hle, hbulk⟩, hhand⟩ := h3 w hw
  obtain ⟨hslot, hcur, hstop, hbound, hend, hslice⟩ := hbulk b hb
  simp only [State.yields, Bool.and_eq_true, beq_iff_eq] at hy
  have hother : otherPage w.page ∈ s.posting := (h2 _).2 hy.1.1
  obtain ⟨p, rest, hpost⟩ := List.exists_cons_of_ne_nil (List.ne_nil_of_mem hother)
  have hlift := hs.lift_none hw hbound
  unfold State.suspend
  refine pages_takeHead (p := p) (rest := rest) hpost h1 h2 (fun v hv => ?_) hlift
  cases hv
  exact ⟨⟨⟨hcount, hle, fun c hc => by cases hc; exact ⟨hslot, hcur, hstop, hbound, hend, hslice⟩⟩, hhand⟩, rfl⟩

theorem pages_cutBulk (hs : s.PagesLawful) (hw : s.worked = some w) (hb : w.bulk = some b) {x : Summary} : (s.cutBulk w b x).PagesLawful := by
  obtain ⟨hcount, -, hbulk⟩ := (hs.worked hw).1
  exact pages_finishOrder hs hw rfl hcount (hbulk b hb).1 fun i hi => by cases hi

theorem pages_boundaryCut (hs : s.PagesLawful) (hw : s.worked = some w) (hb : w.bulk = some b) (h : s.boundaryCut w b = some t) : t.PagesLawful := by
  unfold State.boundaryCut at h
  split at h
  · cases h; exact pages_cutBulk hs hw hb
  split at h
  · cases h; exact pages_cutBulk hs hw hb
  · cases h

theorem pages_bulkOn (hs : s.PagesLawful) (hw : s.worked = some w) (hb : w.bulk = some b) : (s.bulkOn w b).PagesLawful := by
  obtain ⟨hcount, hle, hbulk⟩ := (hs.worked hw).1
  obtain ⟨hslot, hcur, hstop, hbound, hend, hslice⟩ := hbulk b hb
  have hlift := hs.lift_none hw hbound
  have hv := hs.suspended_none hw hb
  unfold State.bulkOn; split
  · split
    · exact pages_boundaryCut hs hw hb (by assumption)
    split
    · exact pages_suspend hs hw hb (by assumption)
    · exact pages_workSlice (hs.congr (samePages_of_erase (erase_with_reads rfl))) hw hv rfl hcount hslot hbound hlift hend hstop
  · exact pages_workSlice hs hw hv rfl hcount hslot hbound hlift hend hstop

/-! The end of a page -/

/-- A suspended page resumes from a state without a worked one. -/
theorem pages_resume {v : PageWork} (hv : s.suspended = some v) (h1 : s.posting.Nodup) (h2 : ∀ q, q ∈ s.posting ↔ s.pageState q = .posted)
    (h3 : s.workLawful v ∧ s.inHand v.page) (hl : s.lift = none) : s.resume.PagesLawful := by
  have h : ∀ t : State, t = { s.writeSummary v.page .complete with worked := some v, suspended := none } → t.PagesLawful := fun t ht => by
    subst ht
    refine pagesLawful_iff.2 ⟨h1, h2, fun w hw => ?_, fun v hv => (by cases hv), fun v w hv => (by cases hv), fun i hi => ?_⟩
    · cases hw; exact h3
    · change s.lift = some i at hi
      rw [hl] at hi; cases hi
  unfold State.resume
  rw [hv]
  dsimp only
  split
  · exact h _ rfl
  · next b hb =>
    generalize ht : ({ s.writeSummary v.page .complete with worked := some v, suspended := none } : State) = t
    have hs := h t ht.symm
    cases hc : t.boundaryCut v b with
    | none => exact hs
    | some u => exact pages_boundaryCut hs (by rw [← ht]) hb hc

/-- The state in which a page is closed, before the unit resumes a suspended page or takes the next one. -/
def State.pageClosed (s : State) (w : PageWork) (x : Summary) : State :=
  { (((s.skipSlots w).writeProgress w.page w.slot).writeSummary w.page x |>.writePageState w.page .done).raise (pageDoneCause w.page) with
    worked := none, lift := none, reads := [] }

theorem endPage_eq (x : Summary) : s.endPage w x
    = (if (s.pageClosed w x).suspended.isSome then (s.pageClosed w x).resume else (s.pageClosed w x).takeIfFree).quietOrders := rfl

theorem pageClosed_frame (x : Summary) : (s.pageClosed w x).layout = s.layout ∧ (s.pageClosed w x).posting = s.posting
    ∧ (s.pageClosed w x).suspended = s.suspended ∧ ∀ q, (s.pageClosed w x).pageState q = if q = w.page then .done else s.pageState q := by
  obtain ⟨e1, e2, e3, -, e5, -⟩ : SamePages s (s.skipSlots w) := samePages_of_erase (erase_skipSlots (by decide))
  obtain ⟨f1, f2, -, f4, -⟩ := writePageState_frame (s := ((s.skipSlots w).writeProgress w.page w.slot).writeSummary w.page x)
    (p := w.page) (x := .done)
  refine ⟨f1.trans e1, f2.trans e2, f4.trans e5, fun q => ?_⟩
  rw [← e3 q]
  exact pageState_writePageState (s := ((s.skipSlots w).writeProgress w.page w.slot).writeSummary w.page x) q

theorem pages_endPage (hs : s.PagesLawful) (hw : s.worked = some w) (x : Summary) : (s.endPage w x).PagesLawful := by
  obtain ⟨h1, h2, h3, h4, h5, -⟩ := pagesLawful_iff.1 hs
  have hne := inHand_ne_posted (h3 w hw).2
  obtain ⟨hlay, hpost, hsus, hstate⟩ := pageClosed_frame (s := s) (w := w) x
  have hwork : (s.pageClosed w x).worked = none := rfl
  have hlift : (s.pageClosed w x).lift = none := rfl
  rw [endPage_eq]
  generalize s.pageClosed w x = t at hlay hpost hsus hstate hwork hlift
  have h2' : ∀ q, q ∈ t.posting ↔ t.pageState q = .posted := fun q => by
    rw [hpost, hstate, h2]; split
    · next e => subst e; simp [hne]
    · exact Iff.rfl
  refine State.PagesLawful.congr ?_ (samePages_of_erase (erase_quietOrders (by decide)))
  split
  · next hv =>
    obtain ⟨v, hv⟩ := Option.isSome_iff_exists.1 hv
    have hv' := hsus ▸ hv
    have hpage := (h5 v w hv' hw).1
    have hkept : t.pageState v.page = s.pageState v.page := by rw [hstate, if_neg (Ne.symm hpage)]
    refine pages_resume hv (hpost ▸ h1) h2' ?_ hlift
    rw [workLawful_congr hlay, inHand_congr hkept]
    exact (h4 v hv').1
  · next hv => exact pages_takeIfFree (hpost ▸ h1) h2' hwork (by simpa using hv) hlift

/-! Host writes, a stop and a start -/

/-- A page that is in no hand changes its state, and its place in the posting order with it. -/
theorem pages_judgePageState {v : Word} (hs : s.PagesLawful) : (s.judgePageState p v).PagesLawful := by
  have parts := pagesLawful_iff.1 hs
  obtain ⟨h1, h2, h3, h4, h5, h6⟩ := parts
  have write : ∀ (x : PageState) (l : List Page) (t : State), t = { s.writePageState p x with posting := l } → l.Nodup →
      (∀ q, q ∈ l ↔ t.pageState q = .posted) → (s.inHand p → x = .taken ∨ x = .aborting) → t.PagesLawful := by
    intro x l t ht hl hm hh
    obtain ⟨e1, -, e3, e4, e5⟩ := writePageState_frame (s := s) (p := p) (x := x)
    have hlay : t.layout = s.layout := ht ▸ e1
    have hw : t.worked = s.worked := ht ▸ e3
    have hv : t.suspended = s.suspended := ht ▸ e4
    have hlift : t.lift = s.lift := ht ▸ e5
    have hstate : ∀ q, t.pageState q = if q = p then x else s.pageState q := fun q => ht ▸ pageState_writePageState (s := s) q
    have hand : ∀ q, s.inHand q → t.inHand q := fun q hq => by
      rw [State.inHand, hstate]; split
      · next e => exact hh (e ▸ hq)
      · exact hq
    have hpost : t.posting = l := by rw [ht]
    refine pagesLawful_iff.2 ⟨hpost ▸ hl, hpost ▸ hm, fun w hw' => ?_, fun v hv' => ?_, fun v w hv' hw' => h5 v w (hv ▸ hv') (hw ▸ hw'), fun i hi => ?_⟩
    · obtain ⟨a, b⟩ := h3 w (hw ▸ hw')
      exact ⟨(workLawful_congr hlay).2 a, hand _ b⟩
    · obtain ⟨⟨a, b⟩, c, d⟩ := h4 v (hv ▸ hv')
      rw [hw]; exact ⟨⟨(workLawful_congr hlay).2 a, hand _ b⟩, c, d⟩
    · rw [hw]; exact h6 i (hlift ▸ hi)
  have other : ∀ {x y : PageState}, s.pageState p = y → y ≠ .taken → y ≠ .aborting → s.inHand p → x = .taken ∨ x = .aborting :=
    fun hy n1 n2 hh => (hh.elim (fun h => n1 (hy ▸ h)) fun h => n2 (hy ▸ h)).elim
  have hstate : ∀ (x : PageState) l q, State.pageState { s.writePageState p x with posting := l } q = if q = p then x else s.pageState q :=
    fun x l q => pageState_writePageState (s := s) q
  unfold State.judgePageState
  split
  · next hp _ =>
    have hnot : p ∉ s.posting := fun h => by rw [(h2 p).1 h] at hp; cases hp
    refine write .posted _ _ rfl (List.nodup_append.2 ⟨h1, List.nodup_singleton _, fun x hx y hy e => ?_⟩) (fun q => ?_)
      (other hp (by decide) (by decide))
    · rw [List.mem_singleton.1 hy] at e; exact hnot (e ▸ hx)
    · rw [hstate, List.mem_append, List.mem_singleton, h2]
      split
      · next e => simp [e]
      · next e => simp [e]
  · next hp _ =>
    refine write .free _ _ rfl (h1.erase _) (fun q => ?_) (other hp (by decide) (by decide))
    rw [hstate, h1.mem_erase_iff, h2]
    split
    · next e => simp [e]
    · next e => simp [e]
  · next hp _ =>
    refine write .aborting s.posting _ ?_ h1 (fun q => ?_) fun _ => .inr rfl
    · rw [← (writePageState_frame (s := s) (p := p) (x := .aborting)).2.1]
    · rw [pageState_writePageState, h2]; split
      · next e => rw [e, hp]; decide
      · exact Iff.rfl
  · next hp _ =>
    refine write .free s.posting _ ?_ h1 (fun q => ?_) (other hp (by decide) (by decide))
    · rw [← (writePageState_frame (s := s) (p := p) (x := .free)).2.1]
    · rw [pageState_writePageState, h2]; split
      · next e => rw [e, hp]; decide
      · exact Iff.rfl
  · exact hs.congr (samePages_of_erase (erase_recordFault (by decide)))

theorem pages_startOrders (x y : PageState) : (s.startOrders x y).PagesLawful := by
  have hstate : ∀ q, (s.startOrders x y).pageState q = match q with | .a => x | .b => y := fun q => by cases q <;> rfl
  refine pages_of_idle ?_ (fun q => ?_) rfl rfl rfl
  · show List.Nodup ((if x = .posted then [Page.a] else []) ++ (if y = .posted then [Page.b] else []))
    split <;> split <;> decide
  · show q ∈ (if x = .posted then [Page.a] else []) ++ (if y = .posted then [Page.b] else []) ↔ _
    rw [hstate]
    cases q <;> by_cases hx : x = .posted <;> by_cases hy : y = .posted <;> simp [hx, hy]

/-- A lift that is gone. -/
theorem pages_unlifted (hs : s.PagesLawful) (h1 : t.layout = s.layout) (h2 : t.posting = s.posting) (h3 : ∀ p, t.pageState p = s.pageState p)
    (h4 : t.worked = s.worked) (h5 : t.suspended = s.suspended) (h6 : t.lift = none) : t.PagesLawful := by
  have parts := pagesLawful_iff.1 hs
  have hl : State.PageParts { s with lift := none } :=
    ⟨parts.nodup, parts.posted, parts.worked, parts.suspended, parts.apart, fun i hi => by cases hi⟩
  exact pagesLawful_iff.2 (hl.congr ⟨h1, h2, h3, h4, h5, h6⟩)

theorem pages_enterStopping (hs : s.PagesLawful) : s.enterStopping.PagesLawful := by
  have h : s.stopBlocks.PagesLawful := pages_unlifted hs rfl rfl (fun p => by cases p <;> rfl) rfl rfl rfl
  rw [enterStopping_eq]
  exact (h.congr (samePages_of_erase (erase_publishVisible (by decide)))).congr (samePages_of_erase (erase_quietLines (by decide)))

theorem pages_endChecking (hs : s.PagesLawful) : s.endChecking.PagesLawful := by
  have hj : s.startJudged.PagesLawful := hs.congr (samePages_of_erase ((erase_takeSetup (by decide)).trans (erase_readOn (by decide) _ _)))
  rw [endChecking_eq]; split
  · have h3 : (s.startJudged.startEntered s.startReads).PagesLawful := by
      unfold State.startEntered State.enterRunning
      exact (pages_startOrders _ _).congr (samePages_of_erase (erase_settleChangeList (by decide)))
    refine succeedStart_keeps (P := State.PagesLawful) (fun t i h => ?_) (fun t h => h.congr (samePages_of_erase (erase_raise (by decide)))) h3
    exact h.congr (samePages_of_erase (erase_publishChange (by decide)))
  · exact hj.congr (samePages_of_erase (erase_failStart (by decide)))

/-! Every step -/

theorem pages_liftLock {o : Slot} : OrderEnds t w (liftLockWork w o t) := by
  have same : SamePages t t := samePages_of_erase rfl
  unfold liftLockWork
  split
  · exact ⟨same, fun i hi => by cases hi⟩
  split
  · exact ⟨same, fun i hi => by cases hi⟩
  next j hj =>
  split
  · exact ⟨same, fun i hi => by cases hi; rw [seatWord_of_seatOf hj]⟩
  · exact ⟨same, fun i hi => by cases hi⟩

/-- An order that no LIFT LOCK may precede stands in a slot that is not bound. -/
theorem bound_none {o : Slot} (h : pairingHolds w o = true) (hk : liftableKind o.kind = false) : w.bound = none := by
  unfold pairingHolds at h
  split at h
  · assumption
  · rw [hk] at h; cases h

theorem pages_loadRange {o : Slot} (hk : o.kind = kindLoadRange) (hp : pairingHolds w o = true) : OrderEnds t w (loadRangeWork w o t) := by
  have same : SamePages t t := samePages_of_erase rfl
  unfold loadRangeWork; dsimp only
  split
  · exact ⟨same, fun i hi => by cases hi⟩
  next hv =>
  split
  · exact ⟨same, fun i hi => by cases hi⟩
  · next hr =>
    refine ⟨_, rfl, by simpa using hv, bound_none hp (by rw [hk]; decide), ?_, ?_, ?_⟩
    · simp only [newBulk, Bulk.opened]; omega
    · simp only [newBulk, Bulk.opened]; omega
    · exact sliceLawful_opened (by dsimp only; omega)

theorem pages_acknowledgeAll {o : Slot} (hk : o.kind = kindAcknowledgeAll) (hp : pairingHolds w o = true) :
    OrderEnds t w (acknowledgeAllWork w o t) := by
  have same : SamePages t t := samePages_of_erase rfl
  unfold acknowledgeAllWork
  split
  · exact ⟨same, fun i hi => by cases hi⟩
  · next hv =>
    refine ⟨_, rfl, by simpa using hv, bound_none hp (by rw [hk]; decide), Nat.zero_le _, le_rfl, ?_⟩
    exact sliceLawful_opened (Nat.zero_le _)

theorem onActiveSeat_lift {o : Slot} {work : Seat → State × OrderEnd} (h : ∀ i, (work i).2.lift = none) : (onActiveSeat o s work).2.lift = none := by
  unfold onActiveSeat; split
  · rfl
  split
  · exact h _
  · rfl

theorem pages_exec (hs : s.PagesLawful) (he : exec c s = .next t) : t.PagesLawful := by
  have reset : ∀ u : State, u.posting = [] → (∀ p, u.pageState p = .free) → u.worked = none → u.suspended = none → u.lift = none → u.PagesLawful :=
    fun u h1 h2 => pages_of_idle (by rw [h1]; exact List.nodup_nil) fun p => by rw [h1, h2]; simp
  refine exec_keeps (P := State.PagesLawful) (reset _ rfl (fun p => by cases p <;> rfl) rfl rfl rfl)
    (reset _ rfl (fun p => by cases p <;> rfl) rfl rfl rfl) hs (fun c ho he => ?_) he
  cases c
  case powerOnReset | softReset | registerWrite => cases ho
  case stop x =>
    have hs' : State.PagesLawful { s with enables := x } := hs.congr (samePages_of_erase rfl)
    rw [exec_stop] at he; cases he
    split
    · exact hs
    split
    · exact pages_enterStopping hs'
    · exact hs'
  case hostRamWrite a v =>
    cases he
    show (s.hostWrite a v).PagesLawful
    unfold State.hostWrite; split
    · exact hs.congr (samePages_of_erase (erase_holdOff (by decide)))
    unfold State.serveWrite; split
    · unfold State.guardedWrite; split
      · exact hs.congr (samePages_of_erase (erase_putWord (by decide)))
      · exact hs.congr (samePages_of_erase (erase_recordFault (by decide)))
      · exact pages_judgePageState hs
      · exact hs.congr (samePages_of_erase (erase_deliverTaken (by decide)))
    · exact hs.congr (samePages_of_erase (erase_putWord (by decide)))
  case pageStateWrite p v =>
    cases he
    show (s.hostStateWrite p v).PagesLawful
    unfold State.hostStateWrite; split
    · exact pages_judgePageState hs
    · exact hs.congr (samePages_of_erase (erase_hostWrite_unguarded (by assumption) (by decide)))
  case checkingEnd =>
    cases he; split
    · exact pages_endChecking hs
    · exact hs
  case takePage =>
    cases he
    show s.takeIfFree.PagesLawful
    obtain ⟨h1, h2, -, -, -, -⟩ := pagesLawful_iff.1 hs
    by_cases hw : s.worked = none ∧ s.suspended = none
    · refine pages_takeIfFree h1 h2 hw.1 hw.2 ?_
      cases hi : s.lift with
      | none => rfl
      | some i => have := ((pagesLawful_iff.1 hs).lift i hi).1; rw [hw.1] at this; cases this
    · unfold State.takeIfFree
      rw [if_neg fun h => hw h.2]; exact hs
  case pageEnd =>
    cases he; split
    · exact hs
    next w hw =>
    split
    · exact hs
    · exact pages_endPage hs hw _
  case bulkSlice =>
    cases he; split
    · exact hs
    next w hw =>
    split
    · exact hs
    next b hb =>
    split
    · exact pages_bulkOn hs hw hb
    · exact hs
  case liftLock => cases he; exact pages_workSlot hs fun _ _ _ _ _ => pages_liftLock
  case loadRange =>
    cases he
    refine pages_workSlot hs fun w o u hk hp => pages_loadRange (eq_of_beq hk) (hp ?_)
    rw [eq_of_beq hk]; decide
  case acknowledgeAll =>
    cases he
    refine pages_workSlot hs fun w o u hk hp => pages_acknowledgeAll (eq_of_beq hk) (hp ?_)
    rw [eq_of_beq hk]; decide
  case unknownOrderKind => cases he; exact pages_workSlot hs fun _ _ _ _ _ => ⟨samePages_of_erase rfl, fun i hi => by cases hi⟩
  case loadSeat =>
    cases he
    refine pages_workOrder hs fun o u => ⟨erase_loadSeatWork (by decide), ?_⟩
    unfold loadSeatWork refusal; dsimp only
    repeat' split
    all_goals rfl
  case reloadClasses =>
    cases he
    refine pages_workOrder hs fun o u => ⟨erase_reloadWork (by decide), ?_⟩
    unfold reloadWork refusal; dsimp only
    split <;> rfl
  case acknowledge => cases he; exact pages_workOrder hs fun o u => ⟨erase_acknowledgeWork (by decide), onActiveSeat_lift fun _ => rfl⟩
  case resetWarnings =>
    cases he
    refine pages_workOrder hs fun o u => ⟨erase_resetWarningsWork (by decide), onActiveSeat_lift fun _ => ?_⟩
    split <;> rfl
  case restartEstimator =>
    cases he; exact pages_workOrder hs fun o u => ⟨erase_restartEstimatorWork (by decide), onActiveSeat_lift fun _ => rfl⟩
  case grantFloor =>
    cases he
    refine pages_workOrder hs fun o u => ⟨erase_grantFloorWork (by decide), ?_⟩
    unfold grantFloorWork refusal; dsimp only
    repeat' split
    all_goals rfl
  case revokeFloor =>
    cases he
    refine pages_workOrder hs fun o u => ⟨erase_revokeFloorWork (by decide), ?_⟩
    unfold revokeFloorWork refusal; dsimp only
    repeat' split
    all_goals rfl
  case clearFloor => cases he; exact pages_workOrder hs fun o u => ⟨erase_clearFloorWork (by decide), rfl⟩
  case setFloorRules =>
    cases he
    refine pages_workOrder hs fun o u => ⟨erase_setFloorRulesWork (by decide), ?_⟩
    unfold setFloorRulesWork; dsimp only
    split <;> rfl
  case clearLinkCounts => cases he; exact pages_workOrder hs fun o u => ⟨erase_clearMaskedCounts (by decide), rfl⟩
  all_goals exact pages_looksAt.exec rfl rfl he hs

theorem pages_access (hs : s.PagesLawful) (ha : Access s t) : t.PagesLawful := by
  cases ha with
  | idle => exact hs
  | clear => exact hs.congr (samePages_of_erase rfl)
  | read a => exact hs.congr (samePages_of_erase (erase_readOne (by decide)))
  | begin w hw hb _ _ =>
    obtain ⟨⟨hcount, hle, -⟩, -⟩ := hs.worked hw
    have hk : HandKept s (s.beginSlot w) ∧ (s.beginSlot w).lift = s.lift ∧ (s.beginSlot w).worked = some { w with begun := true } := by
      unfold State.beginSlot; split
      · next hbeg => exact ⟨⟨rfl, rfl, fun _ => rfl, rfl⟩, rfl, by rw [hw, ← hbeg]⟩
      · exact ⟨⟨rfl, rfl, fun p => by cases p <;> rfl, rfl⟩, rfl, rfl⟩
    obtain ⟨hk, hl, hw'⟩ := hk
    refine hs.goOn (w' := { w with begun := true }) hw rfl hk hw' ⟨hcount, hle, fun b h => ?_⟩ (fun _ => hb) fun i hi => ?_
    · change w.bulk = some b at h
      rw [hb] at h; cases h
    · exact ((pagesLawful_iff.1 hs).lift i (hl ▸ hi)).2 w hw
  | share w b hw hb _ hready =>
    obtain ⟨hcount, hle, hbulk⟩ := (hs.worked hw).1
    obtain ⟨hslot, hcur, hstop, hbound, hend, hslice⟩ := hbulk b hb
    have hlift := hs.lift_none hw hbound
    have hv := hs.suspended_none hw hb
    have he := samePages_of_erase (erase_bulkSeat (k := allBut fPages) (n := b.cursor) (by decide) (s, b))
    obtain ⟨-, h2, h3, h4, -⟩ := samePlace_bulkSeat (s, b) b.cursor
    simp only [State.shareReady, Bool.and_eq_true, decide_eq_true_eq, Bool.not_eq_true', beq_iff_eq] at hready
    obtain ⟨⟨⟨-, hat⟩, hlast⟩, -⟩ := hready
    have hslice := hslice.resolve_left (by rw [hat]; decide)
    generalize bulkSeat (s, b) b.cursor = q at he h2 h3 h4
    dsimp only at he h2 h3 h4
    refine (hs.congr he).goOn (w' := { w with bulk := some { q.2 with cursor := b.cursor + 1 } }) (he.2.2.2.1.trans hw) rfl
      ⟨rfl, rfl, fun p => by cases p <;> rfl, rfl⟩ rfl ⟨hcount, hle, fun c hc => ?_⟩ (fun h => by rw [he.2.2.2.2.1, hv] at h; cases h) fun i hi => ?_
    · cases hc
      refine ⟨hslot, ?_, ?_, hbound, hend, .inr ?_⟩
      · show b.cursor + 1 ≤ q.2.stop
        rw [h2]; omega
      · show q.2.stop ≤ _
        rw [h2, he.1]; exact hstop
      · show b.cursor + 1 ≤ q.2.sliceEnd ∧ q.2.sliceEnd ≤ b.cursor + 1 + 16 ∧ q.2.sliceEnd ≤ q.2.stop
        rw [h2, h3]; omega
    · change q.1.lift = some i at hi
      rw [he.2.2.2.2.2, hlift] at hi; cases hi
  | opening w b hw hb _ _ _ =>
    obtain ⟨hcount, hle, hbulk⟩ := (hs.worked hw).1
    obtain ⟨hslot, hcur, hstop, hbound, hend, -⟩ := hbulk b hb
    have hlift := hs.lift_none hw hbound
    have hv := hs.suspended_none hw hb
    refine hs.goOn (w' := { w with bulk := some b.opened }) hw rfl ⟨rfl, rfl, fun p => by cases p <;> rfl, rfl⟩ rfl
      ⟨hcount, hle, fun c hc => ?_⟩ (fun h => by rw [hv] at h; cases h) fun i hi => ?_
    · cases hc; exact ⟨hslot, hcur, hstop, hbound, hend, sliceLawful_opened hcur⟩
    · change s.lift = some i at hi
      rw [hlift] at hi; cases hi
  | board e => exact (hs.congr (samePages_of_erase (erase_boardWord (by decide)))).congr (samePages_of_erase (erase_askNextWord (by decide)))

/-- Settles O12: a page is taken from the posting order, goes on in lawful places, is suspended for a posted page alone, and is
closed and resumed with the lift gone; an order binds the slot that its lift is for. -/
theorem stepKeepsPageLaw : Obligations.StepKeepsPageLaw := by
  unfold Obligations.StepKeepsPageLaw
  intro s t hs h
  rw [pageLaw_iff, ← pagesLawful_iff] at hs ⊢
  exact step_keeps (P := State.PagesLawful) (fun _ _ h => h.congr (samePages_of_erase rfl)) (fun _ _ hs ha => pages_access hs ha)
    (fun _ _ _ hs he => pages_exec hs he) hs h

end Sys2Proof.Machine
end

section
/-! PROOFS. Resets, CONTROL, the registers and the faults of the latch (R164 to R176). -/

namespace Sys2Proof.Machine

variable {s t u : State} {c : Cause} {i : Seat} {a : Nat}

/-! The machine (O1, O3) -/

/-- Settles O1: a step runs the command at the front of the queue. -/
theorem stepRunsFrontCommand : Obligations.StepRunsFrontCommand := by
  unfold Obligations.StepRunsFrontCommand
  intro c rest s h
  unfold step
  rw [h]

theorem seat_reset (i : Seat) : State.reset.seat i = resetSeat := by simp [State.seat, State.reset]

theorem link_reset (l : LinkId) : State.reset.link l = resetLink := by simp [State.link, State.reset]

theorem carrier_reset (l : LinkId) (c : Channel) : State.reset.carrier l c = none := by simp [State.carrier, State.reset]

/-- Settles O3: after power-on reset every block is empty, and an empty block meets its law. -/
theorem resetMeetsLaws : Obligations.ResetMeetsLaws := by
  unfold Obligations.ResetMeetsLaws
  refine ⟨⟨wf_reset, List.Pairwise.nil, fun b hb => by cases hb⟩, latchLaw_of_reset rfl rfl, fun l c i => ?_,
    ⟨by decide, by decide, by decide, List.nodup_nil, ?_, fun i => ?_⟩, ?_, ?_, ?_, fun i => ?_, fun i => ?_, ?_, ?_, ?_, fun i => ?_⟩
  · rw [carrier_reset, seat_reset]; simp [resetSeat, resetContext]
  · exact fun i hi => by cases hi
  · rw [seat_reset]; simp [resetSeat, settledChannel, State.reset]
  · refine monitors_law.1 (monitors_iff.2 fun i c => ?_)
    simp only [seat_reset, resetSeat, Fin.getElem_fin, Vector.getElem_replicate]
    exact ⟨lawful_clearMonitor, fun _ => idle_clearMonitor⟩
  · exact downlinkLaw_iff.2 (downlinks_reset rfl)
  · exact changeListLaw_iff.2 (listLawful_iff.1 (listLawful_reset rfl rfl rfl rfl rfl rfl rfl))
  · rw [seat_reset]; exact lawful_restarted
  · rw [seat_reset]; exact historyLawful_restarted
  · exact ⟨fun h => by simp [State.reset] at h, fun cs h => by cases h⟩
  · exact pageLaw_iff.2 (pagesLawful_iff.1 (pages_of_idle List.nodup_nil (fun p => by cases p <;> simp [State.reset, State.pageState]) rfl rfl rfl))
  · exact layoutLaw_of_idle (by simp [State.reset]) (by simp [State.reset])
  · rw [seat_reset]; simp [resetSeat, resetContext]

/-! Resets (O17) -/

/-- Settles O17: both resets put every block at its reset value. -/
theorem resetsRestoreEveryBlock : Obligations.ResetsRestoreEveryBlock := by
  unfold Obligations.ResetsRestoreEveryBlock
  intro s e
  refine ⟨⟨_, rfl, rfl, rfl, rfl⟩, fun hp => ⟨s.softReset, ?_, rfl, fun i => seat_reset i, fun l => link_reset l, fun l c => carrier_reset l c,
    rfl, rfl, rfl, rfl, rfl, rfl, fun c => ?_, rfl, rfl, rfl, rfl, rfl, rfl, rfl, rfl, rfl⟩, fun hp => ?_⟩
  · rw [exec_softReset, if_neg hp]
  · simp [State.softReset, State.reset]
  · rw [exec_softReset, if_pos hp]

/-! The end of CLEARING (O18) -/

theorem readWord_cleared (h : s.ram = []) (a : Nat) : s.readWord a = 0 := by
  unfold State.readWord
  rw [h]
  split <;> rfl

/-- Settles O18: a cleared RAM reads 0, and a waiting access is served against it. -/
theorem clearingEnds : Obligations.ClearingEnds := by
  unfold Obligations.ClearingEnds
  intro s hp
  have he : exec .clearingDone s = .next s.endClearing := congrArg Host.Outcome.next (if_pos hp)
  refine ⟨s.endClearing, he, endClearing_frame s, fun hh => ?_, fun a hh => ?_, fun a v hh => ?_⟩
  · rw [State.endClearing, hh]
    exact ⟨rfl, fun a => readWord_cleared rfl a⟩
  · rw [State.endClearing, hh, List.foldl_cons, serveHeld_halted rfl rfl]
    exact ⟨readWord_cleared rfl _, fun x => readWord_cleared rfl x⟩
  · rw [State.endClearing, hh, List.foldl_cons, serveHeld_halted rfl rfl]
    refine ⟨rfl, ?_, fun x hx => ?_⟩
    · exact (readWord_putWord rfl).trans (if_pos ⟨rfl, a.isLt⟩)
    · exact (readWord_putWord rfl).trans ((if_neg fun h => hx h.1).trans (readWord_cleared rfl x))

/-! RUN, STOPPING's end, the enables (O19, O21, O22) -/

/-- Settles O19: RUN moves the part in HALTED alone. -/
theorem runBeginsChecking : Obligations.RunBeginsChecking := by
  unfold Obligations.RunBeginsChecking
  intro s e
  refine ⟨fun hp => ⟨_, by rw [exec_run, if_neg (by rw [hp]; decide), if_pos hp], rfl, rfl, rfl⟩, fun hp => ?_, fun hp => by rw [exec_run, if_pos hp]⟩
  rw [exec_run, if_neg (by rcases hp with h | h | h <;> rw [h] <;> decide), if_neg (by rcases hp with h | h | h <;> rw [h] <;> decide)]

theorem exec_stoppingEnd (s : State) : exec .stoppingEnd s = .next { s with part := if s.mayHalt then .halted else s.part } := rfl

/-- Settles O21: STOPPING ends exactly when it may. -/
theorem stoppingEnds : Obligations.StoppingEnds := by
  unfold Obligations.StoppingEnds
  intro s
  refine ⟨fun h1 h2 h3 h4 => ⟨_, ?_, rfl, rfl⟩, fun h => ?_⟩
  · rw [exec_stoppingEnd, if_pos (mayHalt_iff.2 ⟨h1, h2, h3, h4⟩)]
  · rw [exec_stoppingEnd, if_neg fun hm => h (mayHalt_iff.1 hm)]

theorem exec_setCauseEnables (e : BitVec 7) (s : State) :
    exec (.setCauseEnables e) s = .next (if s.part = .clearing then s else { s with enables := e }) := rfl

/-- The seven flags are those of the causes. -/
theorem exists_cause {k : Nat} (h : k < 7) : ∃ c, causeIndex c = k := by
  have : ∀ k : Fin 7, ∃ c, causeIndex c = k.val := by
    intro k
    fin_cases k
    · exact ⟨.pageDoneA, rfl⟩
    · exact ⟨.pageDoneB, rfl⟩
    · exact ⟨.changes, rfl⟩
    · exact ⟨.fault, rfl⟩
    · exact ⟨.link, rfl⟩
    · exact ⟨.late, rfl⟩
    · exact ⟨.started, rfl⟩
  exact this ⟨k, h⟩

theorem notifyAsserted_iff : s.notifyAsserted = true ↔ ∃ c, s.causeSet c = true ∧ s.enables.getLsbD (causeIndex c) = true := by
  unfold State.notifyAsserted State.causeSet
  rw [bne_iff_ne, ne_eq, BitVec.eq_of_getLsbD_eq_iff, not_forall]
  constructor
  · rintro ⟨k, hk⟩
    rw [not_forall] at hk
    obtain ⟨hk7, hk⟩ := hk
    obtain ⟨c, rfl⟩ := exists_cause hk7
    exact ⟨c, by simpa using hk⟩
  · rintro ⟨c, h1, h2⟩
    refine ⟨causeIndex c, fun h => ?_⟩
    have h7 : causeIndex c < 7 := by cases c <;> decide
    have := h h7
    simp [h1, h2] at this

/-- Settles O22: the enables alone change, and the notify line follows causes and enables. -/
theorem enablesGovernNotifyLine : Obligations.EnablesGovernNotifyLine := by
  unfold Obligations.EnablesGovernNotifyLine
  intro s e
  refine ⟨fun hp => ⟨_, by rw [exec_setCauseEnables, if_neg hp], rfl, ?_⟩, fun hp => by rw [exec_setCauseEnables, if_pos hp]⟩
  rw [notifyAsserted_iff]
  simp only [causeNumber_eq, Nat.add_sub_cancel_left]
  exact Iff.rfl

/-! STATUS, FAULT KIND and the other registers (O23, O24) -/

theorem exec_statusWrite (v : Word) (s : State) : exec (.statusWrite v) s = .next (if s.part = .clearing then s else s.clearCauses v) := rfl
theorem exec_faultKindWrite (v : Word) (s : State) : exec (.faultKindWrite v) s = .next (if s.part = .clearing then s else s.clearLatch) := rfl

/-- Settles O23: the causes that a STATUS write and a FAULT KIND write clear. -/
theorem causesAreCleared : Obligations.CausesAreCleared := by
  unfold Obligations.CausesAreCleared
  intro s v
  refine ⟨fun hp => ⟨s.clearCauses v, by rw [exec_statusWrite, if_neg hp], rfl, by simp [causeSet_clearCauses], fun c hc => ?_⟩,
    fun hp => ⟨s.clearLatch, by rw [exec_faultKindWrite, if_neg hp], rfl, by simp [causeSet_clearLatch], fun c hc => ?_, rfl, rfl⟩,
    fun hp => ⟨by rw [exec_statusWrite, if_pos hp], by rw [exec_faultKindWrite, if_pos hp]⟩⟩
  · rw [causeSet_clearCauses, causeNumber_eq]; simp [hc]
  · rw [causeSet_clearLatch]; simp [hc]

/-- Settles O24: a register write is the command of its register, CONTROL's that of its command field. -/
theorem registerWrites : Obligations.RegisterWrites := by
  unfold Obligations.RegisterWrites
  intro s v
  have hf : field v 0 2 = v.toNat % 4 := by simp [field]
  have he : enablesOf v = v.extractLsb' 8 7 := rfl
  refine ⟨rfl, rfl, rfl, rfl, fun h => ?_, fun h => ?_, fun h => ?_, fun h => ?_⟩
  all_goals rw [exec_control, hf, h, he]; simp

/-! Reads (O25) -/

/-- A fault reported outside CLEARING. -/
theorem faultReported_recordFault (hp : s.part ≠ .clearing) (a : Nat) (k : FaultKind) : FaultReported s (s.recordFault a k) a k where
  empty h := by
    refine ⟨by simp [State.recordFault, hp, h, latched], ?_⟩
    unfold State.causeSet State.recordFault
    rw [if_neg (by simp [hp, h]), causeSet_or]; simp
  full f h := by
    refine ⟨by simp [State.recordFault, hp, h, latched], ?_⟩
    unfold State.causeSet State.recordFault
    rw [if_pos (by simp [h])]
  others c hc := by
    unfold State.causeSet State.recordFault
    dsimp only
    split
    · rfl
    · rw [causeSet_or]; simp [hc]

theorem exec_hostRamRead (a : BitVec 14) (s : State) : exec (.hostRamRead a) s
    = .next (if s.part = .clearing then { s with held := s.held ++ [.read a] } else s.serveRead a.toNat) := rfl

/-- A byte below seven flags. -/
theorem flagged_word {n : Nat} (hn : n < 256) (e : BitVec 7) : (word (n + 256 * e.toNat)).toNat = n + 256 * e.toNat
    ∧ (word (n + 256 * e.toNat)).getLsbD 15 = false ∧ ∀ c : Cause, (word (n + 256 * e.toNat)).getLsbD (causeNumber c) = e.getLsbD (causeIndex c) := by
  have he : e.toNat < 128 := e.isLt
  have hw : (word (n + 256 * e.toNat)).toNat = n + 256 * e.toNat := by simp only [word, BitVec.toNat_ofNat]; omega
  refine ⟨hw, ?_, fun c => ?_⟩
  · rw [BitVec.getLsbD, hw, Nat.testBit_lt_two_pow (by omega)]
  · rw [BitVec.getLsbD, hw, causeNumber_eq, Nat.add_comm n, Nat.testBit_two_pow_mul_add (i := 8) _ hn, if_neg (by omega), Nat.add_sub_cancel_left]
    rfl

/-- Settles O25: reads of the RAM, and the fields of the registers. -/
theorem hostReadReturnsWord : Obligations.HostReadReturnsWord := by
  unfold Obligations.HostReadReturnsWord
  intro s a
  have hc : s.registerRead .control = word (0 + 256 * s.enables.toNat) := by simp [State.registerRead]
  have hp : s.part.code < 8 := by cases s.part <;> decide
  have hr : s.startResult.code < 16 := by cases s.startResult <;> decide
  have hlow : s.part.code + 16 * s.startResult.code < 256 := by omega
  have hs : s.registerRead .status = word (s.part.code + 16 * s.startResult.code + 256 * s.causes.toNat) := rfl
  have hbit : (s.registerRead .status).getLsbD 3 = false := by
    rw [BitVec.getLsbD, hs, (flagged_word hlow s.causes).1, Nat.testBit_eq_decide_div_mod_eq, decide_eq_false_iff_not]
    omega
  refine ⟨fun h1 h2 => ⟨s.serveRead a.toNat, by rw [exec_hostRamRead, if_neg h1], rfl, ?_⟩,
    fun h1 h2 => ⟨s.serveRead a.toNat, by rw [exec_hostRamRead, if_neg h1], rfl, ?_, ?_⟩,
    fun h => ⟨_, by rw [exec_hostRamRead, if_pos h], rfl, ?_⟩, ?_, ?_, ?_, ?_, rfl⟩
  · simp [State.serveRead, h2]
  · have hf := faultReported_recordFault h1 a.toNat .hostParity
    simp only [State.serveRead, h2, if_true]
    exact ⟨hf.empty, hf.full, hf.others⟩
  · simp [State.serveRead, h2, State.recordFault]
  · simp [State.waitAsserted]
  · obtain ⟨hv, h15, hcs⟩ := flagged_word (n := 0) (by decide) s.enables
    rw [hc]
    refine ⟨by omega, h15, fun c => ?_⟩
    rw [hcs, causeNumber_eq, Nat.add_sub_cancel_left]
  · obtain ⟨hv, h15, hcs⟩ := flagged_word hlow s.causes
    refine ⟨?_, hbit, ?_, hs ▸ h15, fun c => hs ▸ hcs c⟩
    · rw [hs, hv, ← partCode_eq]; omega
    · rw [hs, hv, ← startCode_eq]; omega
  · intro h
    simp [State.registerRead, h, word]
  · intro f h hf
    have hk : f.kind.code < 8 := by cases f.kind <;> decide
    simp only [State.registerRead, h, Option.map_some, Option.getD_some, word, BitVec.toNat_ofNat, bit, ← faultCode_eq]
    constructor
    · omega
    · split <;> omega

end Sys2Proof.Machine
end

section
/-! PROOFS. The host's writes of the RAM: what the guard does with a word (O26), and the state words of the pages (O27). -/
namespace Sys2Proof.Machine
open Sys2Proof

variable {s t : State} {p : Page} {a n : Nat} {v : Word}

/-! One word stored -/

/-- The word at `a` has been stored, with good parity, and no other. -/
structure Stored (s t : State) (a : Nat) (v : Word) : Prop where
  word : t.readWord a = v
  good : t.wordBad a = false
  kept : wordsKept s t (· = a)

theorem stored_putWord (hm : s.memoryLaw) (ha : a < 16384) : Stored s (s.putWord a v) a v where
  word := (readWord_putWord hm.1).trans (if_pos ⟨rfl, ha⟩)
  good := wordBad_putWord.trans (if_pos ⟨rfl, ha⟩)
  kept _ hx := ⟨(readWord_putWord hm.1).trans (if_neg fun h => hx h.1), wordBad_putWord.trans (if_neg fun h => hx h.1)⟩

/-! The guard (R167) -/

theorem exec_hostRamWrite (a : BitVec 14) (v : Word) (s : State) : exec (.hostRamWrite a v) s = .next (s.hostWrite a v) := rfl

theorem hostWrite_held {a : BitVec 14} (h : s.part = .clearing) : s.hostWrite a v = { s with held := s.held ++ [.write a v] } := if_pos h

theorem hostWrite_plain {a : BitVec 14} (h : s.part = .halted ∨ s.part = .checking) : s.hostWrite a v = s.putWord a.toNat v := by
  have : s.part ≠ .clearing ∧ ¬ (s.part = .running ∨ s.part = .stopping) := by rcases h with h | h <;> rw [h] <;> decide
  rw [State.hostWrite, if_neg this.1, State.serveWrite, if_neg this.2]

theorem not_clearing (h : s.part = .running ∨ s.part = .stopping) : s.part ≠ .clearing := by rcases h with h | h <;> rw [h] <;> decide

theorem hostWrite_guarded {a : BitVec 14} (h : s.part = .running ∨ s.part = .stopping) : s.hostWrite a v = s.guardedWrite a.toNat v := by
  rw [State.hostWrite, if_neg (not_clearing h), State.serveWrite, if_pos h]

theorem inRegion_iff {base size : Nat} : inRegion n base size = true ↔ base ≤ n ∧ n < base + size := by
  simp [inRegion]

/-- A word that is the part's own in RUNNING and STOPPING, outside the Page Area. -/
def State.closedWord (s : State) (n : Nat) : Prop :=
  n < 256 ∨ s.layout.board ≤ n ∧ n < s.layout.board + 12 * s.layout.seatCount ∨ s.layout.changeList ≤ n ∧ n < s.layout.changeList + s.capacity

/-- A word of the page `p`. -/
def State.inPage (s : State) (n : Nat) (p : Page) : Prop := s.layout.pageBase p ≤ n ∧ n < s.layout.pageBase p + 196

theorem guard_closed (h40 : n ≠ 40) (h : s.closedWord n) : s.guard n = .refuse := by
  rw [State.guard, if_neg (show ¬ n = takenCountAddr from h40)]
  by_cases h1 : n < headerWords
  · exact if_pos h1
  rw [if_neg h1]
  by_cases h2 : inRegion n s.layout.board (s.layout.seatCount * 12) = true
  · exact if_pos h2
  rw [if_neg h2]
  refine if_pos (inRegion_iff.2 ?_)
  rw [inRegion_iff] at h2
  have h256 : headerWords = 256 := rfl
  rcases h with h | h | h <;> omega

theorem guard_open (h : ¬ s.closedWord n) : (∀ p, s.pageAt n = some p → s.guard n = s.guardPage p n)
    ∧ (s.pageAt n = none → s.guard n = .write) := by
  have h1 : ¬ n = takenCountAddr := fun e => h (.inl (by rw [e]; decide))
  have h2 : ¬ inRegion n s.layout.board (s.layout.seatCount * 12) = true := fun e => h (.inr (.inl (by rw [inRegion_iff] at e; omega)))
  have h3 : ¬ inRegion n s.layout.changeList s.capacity = true := fun e => h (.inr (.inr (inRegion_iff.1 e)))
  rw [State.guard, if_neg h1, if_neg (show ¬ n < headerWords from fun e => h (.inl e)), if_neg h2, if_neg h3]
  exact ⟨fun p h => by rw [h], fun h => by rw [h]⟩

theorem inPage_iff : inRegion n (s.layout.pageBase p) pageWords = true ↔ s.inPage n p := inRegion_iff

theorem pageAt_of_inPage (h : s.inPage n p) : s.pageAt n = some p := by
  unfold State.pageAt
  cases p with
  | a => rw [if_pos (inPage_iff.2 h)]
  | b =>
    have hb : s.layout.pageBase .b = s.layout.pageBase .a + 196 := rfl
    rw [if_neg fun e => by have := (inPage_iff.1 e).2; have := h.1; omega, if_pos (inPage_iff.2 h)]

theorem pageAt_outside (h : ∀ p, ¬ s.inPage n p) : s.pageAt n = none := by
  unfold State.pageAt
  rw [if_neg fun e => h .a (inPage_iff.1 e), if_neg fun e => h .b (inPage_iff.1 e)]

/-- A page's word open to the host: not the summary or the progress word, of a page in the host's hand. -/
def State.openWord (s : State) (n : Nat) (p : Page) : Prop :=
  n ≠ s.layout.pageBase p + 2 ∧ n ≠ s.layout.pageBase p + 3 ∧ (s.pageState p = .free ∨ s.pageState p = .done)

theorem guardPage_open (h0 : n ≠ s.layout.pageBase p) (h : s.openWord n p) : s.guardPage p n = .write := by
  obtain ⟨h2, h3, hf⟩ := h
  rw [State.guardPage, if_neg (show ¬ n = s.layout.stateAddr p from h0),
    if_neg (show ¬ (n = s.layout.summaryAddr p ∨ n = s.layout.progressAddr p) from not_or.2 ⟨h2, h3⟩)]
  rcases hf with hf | hf <;> rw [hf]

theorem guardPage_shut (h0 : n ≠ s.layout.pageBase p) (h : ¬ s.openWord n p) : s.guardPage p n = .refuse := by
  rw [State.guardPage, if_neg (show ¬ n = s.layout.stateAddr p from h0)]
  split
  · rfl
  · next hn =>
    split
    · next hf => exact absurd ⟨fun e => hn (.inl e), fun e => hn (.inr e), .inl hf⟩ h
    · next hf => exact absurd ⟨fun e => hn (.inl e), fun e => hn (.inr e), .inr hf⟩ h
    all_goals rfl

theorem guardedWrite_write (h : s.guard n = .write) : s.guardedWrite n v = s.putWord n v := by rw [State.guardedWrite, h]
theorem guardedWrite_refuse (h : s.guard n = .refuse) : s.guardedWrite n v = s.refuseWrite n := by rw [State.guardedWrite, h]

/-- Settles O26: the guard's verdict on each region. -/
theorem guardJudgesHostWrites : Obligations.GuardJudgesHostWrites := by
  unfold Obligations.GuardJudgesHostWrites
  intro s a v n closed inPage open_ written refused guarded hm h40
  have write : s.hostWrite a v = s.putWord n v → written := fun h =>
    have hs := stored_putWord (v := v) hm a.isLt
    ⟨s.putWord n v, by rw [exec_hostRamWrite, h], hs.word, hs.good, hs.kept, rfl⟩
  have refuse : guarded → s.guard n = .refuse → refused := fun hg h =>
    ⟨s.refuseWrite n, by rw [exec_hostRamWrite, hostWrite_guarded hg, guardedWrite_refuse h], faultReported_recordFault (not_clearing hg) _ _, rfl⟩
  have judged : guarded → s.guard n = .write → written := fun hg h => write ((hostWrite_guarded hg).trans (guardedWrite_write h))
  refine ⟨fun hp => write (hostWrite_plain hp), fun hg hc => refuse hg (guard_closed h40 hc), fun hg hc p hp h0 => ?_, fun hg hc hp => ?_,
    fun hp => ⟨_, by rw [exec_hostRamWrite, hostWrite_held hp], rfl⟩⟩
  · have hguard : s.guard n = s.guardPage p n := (guard_open hc).1 p (pageAt_of_inPage hp)
    exact ⟨fun ho => judged hg (hguard.trans (guardPage_open h0 ho)), fun ho => refuse hg (hguard.trans (guardPage_shut h0 ho))⟩
  · exact judged hg ((guard_open hc).2 (pageAt_outside hp))

/-! The state words of the pages (R143) -/

theorem exec_pageStateWrite (p : Page) (v : Word) (s : State) : exec (.pageStateWrite p v) s = .next (s.hostStateWrite p v) := rfl

theorem hostStateAddr_unguarded (h : ¬ (s.part = .running ∨ s.part = .stopping)) :
    s.hostStateAddr p = (s.readWord 6).toNat + (if p = .a then 0 else 196) := by
  rw [State.hostStateAddr, if_neg h]
  cases p <;> rfl

theorem toNat_eq_iff {k : Nat} (hk : k < 65536) : v.toNat = k ↔ v = word k := by
  rw [word, ← BitVec.toNat_inj, BitVec.toNat_ofNat, Nat.mod_eq_of_lt hk]

/-- A value accepted into the state word: the page's new state and the posting order. -/
theorem pageStateOfWord_eq_iff {x : PageState} : pageStateOfWord v = some x ↔ v = word x.code := by
  unfold pageStateOfWord
  constructor
  · intro h
    split at h
    all_goals cases h
    all_goals exact (toNat_eq_iff (by decide)).1 ‹_›
  · rintro rfl
    cases x <;> rfl

/-- A page's state and its state word change together. -/
theorem writePageState_stored {x : PageState} (hm : s.memoryLaw) (ha : s.layout.stateAddr p < 16384) :
    Stored s (s.writePageState p x) (s.layout.stateAddr p) (word x.code) := by
  have hs := stored_putWord (v := word x.code) hm ha
  cases p <;> exact ⟨hs.word, hs.good, hs.kept⟩

theorem writePageState_eq {x : PageState} {l : List Page} : { s.writePageState p x with posting := l } = { s with
    pageA := (s.writePageState p x).pageA, pageB := (s.writePageState p x).pageB, posting := l, ram := (s.writePageState p x).ram,
    badParity := (s.writePageState p x).badParity } := by
  cases p <;> rfl

theorem judgePageState_posted (h : s.pageState p = .free) : s.judgePageState p 1 = { s.writePageState p .posted with posting := s.posting ++ [p] } := by
  rw [State.judgePageState, h]; rfl
theorem judgePageState_withdrawn (h : s.pageState p = .posted) : s.judgePageState p 0 = { s.writePageState p .free with posting := s.posting.erase p } := by
  rw [State.judgePageState, h]; rfl
theorem judgePageState_aborted (h : s.pageState p = .taken) : s.judgePageState p 3 = { s.writePageState p .aborting with posting := s.posting } := by
  rw [State.judgePageState, h]; cases p <;> rfl
theorem judgePageState_returned (h : s.pageState p = .done) : s.judgePageState p 0 = { s.writePageState p .free with posting := s.posting } := by
  rw [State.judgePageState, h]; cases p <;> rfl

theorem judgePageState_refused (h : ¬ (s.pageState p = .free ∧ v = 1 ∨ s.pageState p = .posted ∧ v = 0 ∨ s.pageState p = .taken ∧ v = 3
    ∨ s.pageState p = .done ∧ v = 0)) : s.judgePageState p v = s.recordFault (s.layout.stateAddr p) .stateRefused := by
  unfold State.judgePageState
  split
  · next hs hv => exact absurd (.inl ⟨hs, pageStateOfWord_eq_iff.1 hv⟩) h
  · next hs hv => exact absurd (.inr (.inl ⟨hs, pageStateOfWord_eq_iff.1 hv⟩)) h
  · next hs hv => exact absurd (.inr (.inr (.inl ⟨hs, pageStateOfWord_eq_iff.1 hv⟩))) h
  · next hs hv => exact absurd (.inr (.inr (.inr ⟨hs, pageStateOfWord_eq_iff.1 hv⟩))) h
  · rfl

/-- Settles O27: a page's state word by the state of the page, and an ordinary word while the part does not run. -/
theorem pageStateWrites : Obligations.PageStateWrites := by
  unfold Obligations.PageStateWrites
  intro s p v a accepted there
  have accept : ∀ x l, (s.part = .running ∨ s.part = .stopping) → s.memoryLaw → a < 16384 → v = word x.code →
      s.judgePageState p v = { s.writePageState p x with posting := l } → accepted x l := by
    intro x l hg hm ha hv he
    have hs := writePageState_stored (x := x) hm ha
    have hstate := fun q => pageState_writePageState (s := s) (p := p) (x := x) q
    refine ⟨{ s.writePageState p x with posting := l }, by rw [exec_pageStateWrite, State.hostStateWrite, if_pos hg, he],
      (hstate p).trans (if_pos rfl), (hstate (otherPage p)).trans (if_neg (by cases p <;> decide)), rfl, hv ▸ hs.word, hs.good, hs.kept, writePageState_eq⟩
  refine ⟨fun hp hm ht => ?_, fun hp => ?_, fun hg hm ha => ⟨?_, ?_, ?_, ?_, fun hn => ?_⟩⟩
  · have hn : ¬ (s.part = .running ∨ s.part = .stopping) := by rcases hp with h | h <;> rw [h] <;> decide
    have haddr : (BitVec.ofNat 14 (s.hostStateAddr p)).toNat = there := by
      rw [hostStateAddr_unguarded hn, BitVec.toNat_ofNat, Nat.mod_eq_of_lt ht]
    have hs := stored_putWord (v := v) hm ht
    exact ⟨s.putWord there v, by rw [exec_pageStateWrite, State.hostStateWrite, if_neg hn, hostWrite_plain hp, haddr], hs.word, hs.good, hs.kept, rfl⟩
  · have hn : ¬ (s.part = .running ∨ s.part = .stopping) := by rw [hp]; decide
    exact ⟨_, by rw [exec_pageStateWrite, State.hostStateWrite, if_neg hn, hostWrite_held hp], rfl, hostStateAddr_unguarded hn⟩
  · exact fun hs hv => accept _ _ hg hm ha hv (hv ▸ judgePageState_posted hs)
  · exact fun hs hv => accept _ _ hg hm ha hv (hv ▸ judgePageState_withdrawn hs)
  · exact fun hs hv => accept _ _ hg hm ha hv (hv ▸ judgePageState_aborted hs)
  · exact fun hs hv => accept _ _ hg hm ha hv (hv ▸ judgePageState_returned hs)
  · exact ⟨_, by rw [exec_pageStateWrite, State.hostStateWrite, if_pos hg, judgePageState_refused hn], faultReported_recordFault (not_clearing hg) _ _, rfl⟩

end Sys2Proof.Machine
end

section
/-! PROOFS. What an event publishes: the change writes that it leaves waiting, and the changed-at of their seats (R69, R156 to
R158). -/
namespace Sys2Proof.Machine
open Sys2Proof

variable {s t u : State} {i j : Seat} {is : List Seat}

/-! The access asked for -/

theorem rangeBusy_congr (h : t.suspended = s.suspended) : t.rangeBusy i = s.rangeBusy i := by
  unfold State.rangeBusy; rw [h]

theorem nextOrderRead_congr (h1 : t.layout = s.layout) (h2 : t.suspended = s.suspended) (w : PageWork) (rs : List ReadWord) :
    t.nextOrderRead w rs = s.nextOrderRead w rs := by
  unfold State.nextOrderRead State.seatOf
  simp only [h1, rangeBusy_congr h2]

/-- What the order in hand asks for is read off the Order Unit's own state, the layout and the locks. -/
theorem orderRequest_congr (h1 : t.worked = s.worked) (h2 : t.part = s.part) (h3 : ∀ p, t.pageState p = s.pageState p)
    (h4 : t.layout = s.layout) (h5 : t.suspended = s.suspended) (h6 : t.reads = s.reads) (h7 : t.lift = s.lift)
    (h8 : ∀ i, (t.seat i).ctx.locked = (s.seat i).ctx.locked) : t.orderRequest = s.orderRequest := by
  have hn := nextOrderRead_congr h4 h5
  have hl : ∀ i, t.lockedUnlifted i = s.lockedUnlifted i := fun i => by rw [State.lockedUnlifted, h7, h8]; rfl
  have hr : ∀ b, t.nextRangeRead b = s.nextRangeRead b := fun b => by
    unfold State.nextRangeRead; rw [h4, h6]; simp only [hl]
  have hs : ∀ w, t.slotReady w = s.slotReady w := fun w => by rw [State.slotReady, h2, h3]; rfl
  have hw : ∀ w, t.orderWaits w = s.orderWaits w := fun w => by
    unfold State.orderWaits
    rw [h2, hs, h6, hn]; simp only [hr]
  unfold State.orderRequest
  rw [h1, h6]; simp only [hw]

/-! One change write -/

/-- A seat published: its changed-at and the write that waits (R158). -/
theorem publishChange_pos (h : s.publishes i = true) : s.publishChange i =
    { s.setBoard i (changedNow (s.seat i).board s.clock) with
      boardWrites := s.boardWrites ++ [(s.setBoard i (changedNow (s.seat i).board s.clock)).boardEntry i true] } := if_pos h
theorem publishChange_neg (h : s.publishes i = false) : s.publishChange i = s := if_neg (by rw [h]; decide)

theorem publishChange_frame : s.publishChange i =
    { s with seats := (s.publishChange i).seats, boardWrites := (s.publishChange i).boardWrites } := by
  unfold State.publishChange; split <;> rfl

theorem changeWrite_congr (h1 : t.seat i = u.seat i) (h2 : t.roster = u.roster) (h3 : t.clock = u.clock)
    (h4 : t.orderRequest = u.orderRequest) : changeWrite t i = changeWrite u i := by
  unfold changeWrite State.boardBody State.seatFlags
  rw [h1, h2, h3, h4]

theorem publishes_iff : s.publishes i = true ↔ i.val < s.layout.seatCount ∧ (s.part = .running ∨ s.part = .stopping) := by
  simp [State.publishes]

theorem publishes_congr (h1 : t.layout = s.layout) (h2 : t.part = s.part) : t.publishes i = s.publishes i := by
  unfold State.publishes; rw [h1, h2]

theorem locked_of_board {b : BoardSeat} (j : Seat) : ((s.setBoard i b).seat j).ctx.locked = (s.seat j).ctx.locked := by
  rw [seat_setBoard]; split
  · next h => subst h; rfl
  · rfl

theorem setBoard_orderRequest {b : BoardSeat} : (s.setBoard i b).orderRequest = s.orderRequest :=
  orderRequest_congr (t := s.setBoard i b) rfl rfl (fun p => by cases p <;> rfl) rfl rfl rfl rfl locked_of_board

theorem publishChange_locked (j : Seat) : ((s.publishChange i).seat j).ctx.locked = (s.seat j).ctx.locked := by
  rw [seat_publishChange]; split
  · next h => obtain ⟨rfl, -⟩ := h; rfl
  · rfl

theorem publishChange_orderRequest : (s.publishChange i).orderRequest = s.orderRequest := by
  have h : ∀ (x : Vector SeatState 512) (y : List BoardEntry), (∀ i, (State.seat { s with seats := x, boardWrites := y } i).ctx.locked = (s.seat i).ctx.locked) →
      State.orderRequest { s with seats := x, boardWrites := y } = s.orderRequest := fun x y h =>
    orderRequest_congr rfl rfl (fun p => by cases p <;> rfl) rfl rfl rfl rfl h
  have e := publishChange_frame (s := s) (i := i)
  rw [e]
  exact h _ _ (e ▸ publishChange_locked)

theorem publishChange_boardWrites : (s.publishChange i).boardWrites =
    s.boardWrites ++ if s.publishes i then [changeWrite (s.publishChange i) i] else [] := by
  by_cases h : s.publishes i = true
  · rw [if_pos h]
    conv_lhs => rw [publishChange_pos h]
    refine congrArg (s.boardWrites ++ [·]) ?_
    refine (changeWrite_congr (t := s.setBoard i (changedNow (s.seat i).board s.clock)) (u := s.publishChange i) ?_ ?_ ?_ ?_)
    · rw [publishChange_pos h]; rfl
    · exact (publishChange_roster (s := s)).symm
    · exact (publishChange_clock (s := s)).symm
    · exact setBoard_orderRequest.trans (publishChange_orderRequest (s := s)).symm
  · rw [Bool.not_eq_true] at h
    rw [publishChange_neg h, h]; simp

/-! The change writes of an event -/

/-- These seats published one after another. -/
def State.publishAll (s : State) (is : List Seat) : State := is.foldl State.publishChange s

theorem publishAll_cons : s.publishAll (i :: is) = (s.publishChange i).publishAll is := rfl

theorem publishVisible_eq (s t : State) (is : List Seat) :
    publishVisible s t is = t.publishAll (is.filter fun i => decide (s.picture i ≠ t.picture i)) := by
  unfold publishVisible State.publishAll
  rw [List.foldl_filter]
  congr 1
  funext u i
  by_cases h : s.picture i = t.picture i
  · simp [h]
  · simp [h]

theorem publishAll_frame : s.publishAll is = { s with seats := (s.publishAll is).seats, boardWrites := (s.publishAll is).boardWrites } := by
  induction is generalizing s with
  | nil => rfl
  | cons i is ih =>
    rw [publishAll_cons, ih]
    generalize ((s.publishChange i).publishAll is).seats = x
    generalize ((s.publishChange i).publishAll is).boardWrites = y
    rw [publishChange_frame]

theorem publishAll_orderRequest : (s.publishAll is).orderRequest = s.orderRequest := by
  induction is generalizing s with
  | nil => rfl
  | cons i is ih => exact ih.trans publishChange_orderRequest

theorem publishAll_layout : (s.publishAll is).layout = s.layout := by rw [publishAll_frame]
theorem publishAll_part : (s.publishAll is).part = s.part := by rw [publishAll_frame]
theorem publishAll_clock : (s.publishAll is).clock = s.clock := by rw [publishAll_frame]
theorem publishAll_roster : (s.publishAll is).roster = s.roster := by rw [publishAll_frame]

theorem seat_publishAll : (s.publishAll is).seat j =
    { s.seat j with board := if j ∈ is ∧ s.publishes j = true then changedNow (s.seat j).board s.clock else (s.seat j).board } := by
  induction is generalizing s with
  | nil => simp [State.publishAll]
  | cons i is ih =>
    have hp : (s.publishChange i).publishes j = s.publishes j := publishes_congr publishChange_layout publishChange_part
    rw [publishAll_cons, ih, hp, publishChange_clock, seat_publishChange]
    by_cases hj : j = i
    · subst hj
      by_cases h : s.publishes j = true
      · simp [h, changedNow]
      · simp [h]
    · simp [hj]

/-- What publishing seats, each once, leaves waiting: the writes as the seats stand in the end. -/
theorem publishAll_boardWrites (hn : is.Nodup) : (s.publishAll is).boardWrites =
    s.boardWrites ++ ((is.filter fun i => s.publishes i).map (changeWrite (s.publishAll is))) := by
  induction is generalizing s with
  | nil => simp [State.publishAll]
  | cons i is ih =>
    obtain ⟨hi, hn⟩ := List.nodup_cons.1 hn
    have hp : ∀ j, (s.publishChange i).publishes j = s.publishes j := fun j => publishes_congr publishChange_layout publishChange_part
    have hw : changeWrite (s.publishChange i) i = changeWrite ((s.publishChange i).publishAll is) i :=
      changeWrite_congr (by rw [seat_publishAll]; simp [hi]) publishAll_roster.symm publishAll_clock.symm publishAll_orderRequest.symm
    rw [publishAll_cons, ih hn, publishChange_boardWrites, List.filter_cons, hw]
    simp only [hp]
    by_cases h : s.publishes i = true
    · simp [h]
    · simp [h]

theorem changeWrites_congr (h1 : t.layout = s.layout) (h2 : s.part = .running ∨ s.part = .stopping) :
    (is.filter fun i => s.publishes i).map (changeWrite t) = changeWrites t is := by
  unfold changeWrites
  congr 1
  refine List.filter_congr fun i _ => ?_
  rw [h1, Bool.eq_iff_iff, publishes_iff, decide_eq_true_iff]
  exact and_iff_left h2

/-- The same where the order's own access does not wait. -/
theorem orderWrite_eq (h : t.orderRequest = none) : orderWrite t i = changeWrite t i := by
  unfold orderWrite changeWrite; rw [h]

theorem orderWrites_eq (h : t.orderRequest = none) : orderWrites t is = changeWrites t is := by
  unfold orderWrites changeWrites
  exact List.map_congr_left fun i _ => orderWrite_eq h

/-! One seat published if the event changed it (R68, R69) -/

theorem publishVisible_one (s t : State) (i : Seat) :
    publishVisible s t [i] = if s.picture i = t.picture i then t else t.publishChange i := rfl

theorem picture_congr (h1 : (t.seat i).monitors = (s.seat i).monitors) (h2 : (t.seat i).ctx = (s.seat i).ctx)
    (h3 : (t.seat i).channel = (s.seat i).channel) (h4 : (t.seat i).estimator = (s.seat i).estimator) (h5 : t.roster = s.roster) :
    t.picture i = s.picture i := by
  unfold State.picture; dsimp only; rw [h1, h2, h3, h4, h5]

theorem picture_publishChange : (s.publishChange i).picture j = s.picture j := by
  refine picture_congr ?_ ?_ ?_ ?_ publishChange_roster
  all_goals
    rw [seat_publishChange]; split
    · next h => obtain ⟨rfl, -⟩ := h; rfl
    · rfl

/-- What the publication of one seat's change leaves of the state that the event's blocks left. -/
structure PublishedOne (s t u : State) (i : Seat) : Prop where
  published : publishedIfChanged s u i (changeWrite u i)
  seat : u.seat i = { t.seat i with board := (u.seat i).board }
  others : seatsKept t u (· = i)
  frame : u = { t with seats := u.seats, boardWrites := u.boardWrites }
  request : u.orderRequest = t.orderRequest

theorem publishedOne (hp : t.publishes i = true) (hb : (t.seat i).board = (s.seat i).board) (hw : t.boardWrites = s.boardWrites)
    (hc : t.clock = s.clock) : PublishedOne s t (publishVisible s t [i]) i := by
  rw [publishVisible_one]
  by_cases h : s.picture i = t.picture i
  · rw [if_pos h]
    exact ⟨⟨fun _ => ⟨hb, hw⟩, fun hn => absurd ((picture_eq_iff s t i).1 h) hn⟩, rfl, fun _ _ => rfl, rfl, rfl⟩
  · rw [if_neg h]
    have hn : ¬ SamePicture s (t.publishChange i) i := fun hs => h (((picture_eq_iff s _ i).2 hs).trans picture_publishChange)
    refine ⟨⟨fun hs => absurd hs hn, fun _ => ⟨?_, ?_⟩⟩, ?_, fun j hj => ?_, publishChange_frame, publishChange_orderRequest⟩
    · rw [seat_publishChange, if_pos ⟨rfl, hp⟩, ← hb, ← hc]
    · rw [publishChange_boardWrites, if_pos hp, hw]
    · rw [seat_publishChange, if_pos ⟨rfl, hp⟩]
    · rw [seat_publishChange, if_neg fun hh => hj hh.1]

end Sys2Proof.Machine
end

section
/-! PROOFS. The lines' end of work: the quiet report of the links, STOP in RUNNING (O20) and the end of a spacing (O37). -/
namespace Sys2Proof.Machine
open Sys2Proof

variable {s t : State} {l : LinkId} {i : Seat}

/-! The quiet report (R43) -/

/-- The lines are due to report: the part is STOPPING, every transmitter IDLE, and no report was made. -/
def State.linesDue (s : State) : Prop := s.part = .stopping ∧ (∀ k, (s.link k).tx = .idle) ∧ s.linesQuiet = false

theorem allIdle_iff : s.allIdle = true ↔ ∀ k, (s.link k).tx = .idle := by
  simp [State.allIdle, allLinks]

theorem quietLines_due (h : s.linesDue) : s.quietLines =
    State.writeLinkSummary { s with links := s.links.map (fun k => { k with state := .disabled }), linesQuiet := true } := by
  obtain ⟨h1, h2, h3⟩ := h
  exact if_pos ⟨h1, allIdle_iff.2 h2, h3⟩

theorem quietLines_not (h : ¬ s.linesDue) : s.quietLines = s :=
  if_neg fun ⟨h1, h2, h3⟩ => h ⟨h1, allIdle_iff.1 h2, h3⟩

theorem quietLines_frame : s.quietLines =
    { s with links := s.quietLines.links, linesQuiet := s.quietLines.linesQuiet, ram := s.quietLines.ram, badParity := s.quietLines.badParity } := by
  unfold State.quietLines; split <;> rfl

theorem link_quietLines (h : s.linesDue) : s.quietLines.link l = { s.link l with state := .disabled } := by
  rw [quietLines_due h]
  exact State.link_map (s := s) (fun k => { k with state := .disabled }) l

theorem quietLines_linesQuiet (h : s.linesDue) : s.quietLines.linesQuiet = true := by rw [quietLines_due h]; rfl

theorem quietLines_shown (hm : s.memoryLaw) (h : s.linesDue) : SummaryShown s.quietLines := by
  rw [quietLines_due h]
  exact summaryShown_writeLinkSummary hm.1

theorem quietLines_kept (hm : s.memoryLaw) : wordsKept s s.quietLines (fun a => a = 36 ∧ s.linesDue) := by
  intro x hx
  by_cases h : s.linesDue
  · have hx' : x ≠ 36 := fun e => hx ⟨e, h⟩
    rw [quietLines_due h]
    exact ⟨readWord_writeLinkSummary_other (s := { s with links := s.links.map (fun k => { k with state := .disabled }), linesQuiet := true }) hm.1 hx',
      wordBad_writeLinkSummary_other (s := { s with links := s.links.map (fun k => { k with state := .disabled }), linesQuiet := true }) hx'⟩
  · rw [quietLines_not h]
    exact ⟨rfl, rfl⟩

/-! STOP in RUNNING (O20) -/

theorem stopped_tx_idle {k : Link} : (stoppedLink k).tx = .idle ↔ k.tx = .idle := by
  unfold stoppedLink; cases h : k.tx <;> simp

theorem link_stopBlocks : s.stopBlocks.link l = stoppedLink (s.link l) := State.link_map (s := s) stoppedLink l
theorem seat_stopBlocks : s.stopBlocks.seat i = { s.seat i with channel := stoppedChannel (s.seat i).channel } := seat_stopChannels i

/-- The channels that a stop restarts. -/
theorem stoppedChannel_eq (c : MuteChannel) : stoppedChannel c =
    if c.state = .sending ∨ c.state = .awaiting then { c with state := .sending, attempt := .first, deadline := none } else c := by
  unfold stoppedChannel; cases h : c.state <;> simp

/-- A stop is seen at the seats that awaited their confirmation. -/
theorem picture_stopBlocks : s.picture i ≠ s.stopBlocks.picture i ↔ (s.seat i).channel.state = .awaiting := by
  have hr : s.stopBlocks.roster = s.roster := rfl
  rw [ne_eq, picture_eq_iff]
  constructor
  · intro h
    by_contra hc
    refine h ⟨?_, ?_, ?_, ?_, ?_, by rw [hr], ?_, ?_, ?_⟩
    all_goals simp only [seat_stopBlocks, stoppedChannel_intent, implies_true]
    rw [stoppedChannel_eq]
    split
    · next hs => exact (hs.resolve_right hc).symm
    · rfl
  · intro h hs
    have := hs.channel
    rw [seat_stopBlocks, stoppedChannel_eq, if_pos (.inr h), h] at this
    cases this

/-- The state of a stop's event before the lines report. -/
def State.stopTold (s : State) : State := s.stopBlocks.publishAll (allSeats.filter fun i => decide (s.picture i ≠ s.stopBlocks.picture i))

theorem enterStopping_told (s : State) : s.enterStopping = s.stopTold.quietLines := by
  rw [enterStopping_eq, publishVisible_eq]; rfl

theorem link_stopTold : s.stopTold.link l = stoppedLink (s.link l) := by
  have h : s.stopTold.links = s.stopBlocks.links := by rw [State.stopTold, publishAll_frame]
  rw [State.link, h]; exact link_stopBlocks

theorem linesDue_stopTold : s.stopTold.linesDue ↔ ∀ k, (s.link k).tx = .idle := by
  have h1 : s.stopTold.part = .stopping := publishAll_part
  have h2 : s.stopTold.linesQuiet = false := by rw [State.stopTold, publishAll_frame]; rfl
  simp only [State.linesDue, h1, h2, link_stopTold, stopped_tx_idle, true_and, and_true]

theorem stopTold_frame : s.stopTold = { s with
    part := .stopping, pass := none, refreshPass := false, scanTimer := none, lift := none, links := s.stopTold.links,
    seats := s.stopTold.seats, linesQuiet := false, orderQuiet := s.worked.isNone && s.suspended.isNone,
    boardWrites := s.stopTold.boardWrites } := by
  unfold State.stopTold
  rw [publishAll_frame]
  generalize (s.stopBlocks.publishAll _).seats = x
  generalize (s.stopBlocks.publishAll _).boardWrites = y
  unfold State.stopBlocks State.stopOrders State.quietOrders State.stopChannels State.abandonPass
  simp

theorem seat_stopTold : s.stopTold.seat i = { s.seat i with
    channel := if (s.seat i).channel.state = .sending ∨ (s.seat i).channel.state = .awaiting
      then { (s.seat i).channel with state := .sending, attempt := .first, deadline := none } else (s.seat i).channel
    board := if (s.seat i).channel.state = .awaiting ∧ i.val < s.layout.seatCount
      then changedNow (s.seat i).board s.clock else (s.seat i).board } := by
  have hp : s.stopBlocks.publishes i = true ↔ i.val < s.layout.seatCount :=
    publishes_iff.trans (and_iff_left (show s.stopBlocks.part = .running ∨ s.stopBlocks.part = .stopping from .inr rfl))
  have hm : i ∈ allSeats.filter (fun i => decide (s.picture i ≠ s.stopBlocks.picture i)) ↔ (s.seat i).channel.state = .awaiting := by
    rw [List.mem_filter, decide_eq_true_iff, picture_stopBlocks, and_iff_right (by simp [allSeats])]
  have hc : s.stopBlocks.clock = s.clock := rfl
  rw [State.stopTold, seat_publishAll]
  simp only [hm, hp, hc, seat_stopBlocks, stoppedChannel_eq]

theorem nodup_filter_seats (p : Seat → Bool) : (allSeats.filter p).Nodup := nodup_allSeats.filter p

theorem changeWrites_quietLines {is : List Seat} : changeWrites s.quietLines is = changeWrites s is := by
  have h := quietLines_frame (s := s)
  have hl : s.quietLines.layout = s.layout := by rw [h]
  have hs : ∀ i, s.quietLines.seat i = s.seat i := fun i => by rw [h]; rfl
  unfold changeWrites
  rw [hl]
  refine List.map_congr_left fun i _ => changeWrite_congr (hs i) (by rw [h]) (by rw [h]) ?_
  exact orderRequest_congr (by rw [h]) (by rw [h]) (fun p => by rw [h]; cases p <;> rfl) (by rw [h]) (by rw [h]) (by rw [h]) (by rw [h]) fun i => by rw [hs]

theorem stopTold_boardWrites : s.stopTold.boardWrites =
    s.boardWrites ++ changeWrites s.stopTold (allSeats.filter fun i => (s.seat i).channel.state = .awaiting) := by
  have hf : allSeats.filter (fun i => decide (s.picture i ≠ s.stopBlocks.picture i)) = allSeats.filter fun i => (s.seat i).channel.state = .awaiting :=
    List.filter_congr fun i _ => by rw [Bool.eq_iff_iff, decide_eq_true_iff, decide_eq_true_iff, picture_stopBlocks]
  conv_lhs => rw [State.stopTold, publishAll_boardWrites (nodup_filter_seats _)]
  rw [hf, changeWrites_congr publishAll_layout (.inr rfl)]
  unfold State.stopTold
  rw [hf]
  rfl

theorem memoryLaw_stopTold (h : s.memoryLaw) : s.stopTold.memoryLaw := by
  rw [stopTold_frame]; exact h

/-! Entry to STOPPING, whole -/

theorem link_enterStopping : s.enterStopping.link l = { s.link l with
    assembler := .sync, run := emptyRun, slot := none, timer := none, queue := [], deferred := []
    state := if ∀ k, (s.link k).tx = .idle then .disabled else (s.link l).state
    tx := match (s.link l).tx with
      | .sending f => .sending { f with cancelled := true }
      | x => x } := by
  rw [enterStopping_told]
  by_cases h : ∀ k, (s.link k).tx = .idle
  · rw [link_quietLines (linesDue_stopTold.2 h), link_stopTold, if_pos h]; rfl
  · rw [quietLines_not fun hd => h (linesDue_stopTold.1 hd), link_stopTold, if_neg h]; rfl

theorem enterStopping_linesQuiet : s.enterStopping.linesQuiet = true ↔ ∀ k, (s.link k).tx = .idle := by
  rw [enterStopping_told]
  by_cases h : s.stopTold.linesDue
  · exact iff_of_true (quietLines_linesQuiet h) (linesDue_stopTold.1 h)
  · refine iff_of_false ?_ fun hd => h (linesDue_stopTold.2 hd)
    have hq : s.stopTold.linesQuiet = false := by rw [stopTold_frame]
    rw [quietLines_not h, hq]
    decide

theorem seat_enterStopping : s.enterStopping.seat i = s.stopTold.seat i := by
  have h : s.stopTold.quietLines.seats = s.stopTold.seats := by rw [quietLines_frame]
  rw [enterStopping_told, State.seat, h]; rfl

theorem enterStopping_boardWrites : s.enterStopping.boardWrites =
    s.boardWrites ++ changeWrites s.enterStopping (allSeats.filter fun i => (s.seat i).channel.state = .awaiting) := by
  rw [enterStopping_told, changeWrites_quietLines]
  refine Eq.trans ?_ stopTold_boardWrites
  rw [quietLines_frame]

theorem enterStopping_kept (hm : s.memoryLaw) : wordsKept s s.enterStopping (fun a => a = 36 ∧ s.enterStopping.linesQuiet = true) := by
  intro x hx
  rw [enterStopping_linesQuiet, ← linesDue_stopTold] at hx
  have h := quietLines_kept (memoryLaw_stopTold hm) x hx
  have hr : s.stopTold.ram = s.ram := by rw [stopTold_frame]
  have hb : s.stopTold.badParity = s.badParity := by rw [stopTold_frame]
  rw [enterStopping_told]
  exact ⟨h.1.trans (readWord_congr hr x), h.2.trans (wordBad_congr hb x)⟩

theorem enterStopping_shown (hm : s.memoryLaw) (h : s.enterStopping.linesQuiet = true) : SummaryShown s.enterStopping := by
  rw [enterStopping_told]
  exact quietLines_shown (memoryLaw_stopTold hm) (linesDue_stopTold.2 (enterStopping_linesQuiet.1 h))

theorem enterStopping_frame : s.enterStopping = { s with
    part := .stopping, pass := none, refreshPass := false, scanTimer := none, lift := none, links := s.enterStopping.links
    seats := s.enterStopping.seats, linesQuiet := s.enterStopping.linesQuiet, orderQuiet := s.worked.isNone && s.suspended.isNone
    boardWrites := s.enterStopping.boardWrites, ram := s.enterStopping.ram, badParity := s.enterStopping.badParity } := by
  rw [enterStopping_told, quietLines_frame]
  generalize s.stopTold.quietLines.links = x
  generalize s.stopTold.quietLines.linesQuiet = y
  generalize s.stopTold.quietLines.ram = z
  generalize s.stopTold.quietLines.badParity = w
  rw [stopTold_frame]

/-- Settles O20: STOP in RUNNING, block by block, and elsewhere its enables alone. -/
theorem stopEntersStopping : Obligations.StopEntersStopping := by
  unfold Obligations.StopEntersStopping
  intro s e
  refine ⟨fun hp hm => ?_, fun hp => ?_, fun hp => by rw [exec_stop, if_pos hp]⟩
  · have hf := enterStopping_frame (s := { s with enables := e })
    have hq : (State.enterStopping { s with enables := e }).orderQuiet = (s.worked.isNone && s.suspended.isNone) := by rw [hf]
    have part : (State.enterStopping { s with enables := e }).part = .stopping := by rw [hf]
    have enables : (State.enterStopping { s with enables := e }).enables = e := by rw [hf]
    have pass : (State.enterStopping { s with enables := e }).pass = none := by rw [hf]
    have timer : (State.enterStopping { s with enables := e }).scanTimer = none := by rw [hf]
    have lift : (State.enterStopping { s with enables := e }).lift = none := by rw [hf]
    refine ⟨_, by rw [exec_stop, if_neg (by rw [hp]; decide), if_pos hp], part, enables, pass, timer, lift,
      fun l => link_enterStopping (s := { s with enables := e }), enterStopping_linesQuiet (s := { s with enables := e }), ?_,
      fun i => seat_enterStopping.trans (seat_stopTold (s := { s with enables := e })),
      enterStopping_boardWrites (s := { s with enables := e }), enterStopping_kept (s := { s with enables := e }) hm,
      enterStopping_shown (s := { s with enables := e }) hm, ?_⟩
    · rw [hq]; simp
    · rw [hq]; exact hf
  · rw [exec_stop, if_neg (by rcases hp with h | h | h <;> rw [h] <;> decide), if_neg (by rcases hp with h | h | h <;> rw [h] <;> decide)]

/-! The end of a spacing (O37) -/

theorem exec_spacingEnd (l : LinkId) (s : State) : exec (.spacingEnd l) s = .next (s.endSpacing l) := rfl

/-- The spacing of link l is over, and the lines have not reported. -/
def State.spaced (s : State) (l : LinkId) : State := s.setLink l { s.link l with tx := .idle }

theorem endSpacing_spacing (h : (s.link l).tx = .spacing) : s.endSpacing l = (s.spaced l).quietLines := by
  rw [State.endSpacing, h]; rfl
theorem endSpacing_other (h : (s.link l).tx ≠ .spacing) : s.endSpacing l = s := by
  unfold State.endSpacing; split
  · next h' => exact absurd h' h
  · rfl

theorem link_spaced (j : LinkId) : (s.spaced l).link j = if j = l then { s.link l with tx := .idle } else s.link j := by
  simp [State.spaced]

theorem linesDue_spaced : (s.spaced l).linesDue ↔ s.part = .stopping ∧ s.linesQuiet = false ∧ ∀ j, j ≠ l → (s.link j).tx = .idle := by
  have hp : (s.spaced l).part = s.part := rfl
  have hq : (s.spaced l).linesQuiet = s.linesQuiet := rfl
  have ht : (∀ k, ((s.spaced l).link k).tx = .idle) ↔ ∀ j, j ≠ l → (s.link j).tx = .idle := by
    refine forall_congr' fun j => ?_
    rw [link_spaced]; split
    · next h => simp [h]
    · next h => simp [h]
  rw [State.linesDue, hp, hq, ht, and_comm (a := ∀ j, _)]

/-- Settles O37: the end of a spacing, the last one of STOPPING with the quiet report. -/
theorem spacingEndsIdle : Obligations.SpacingEndsIdle := by
  unfold Obligations.SpacingEndsIdle
  intro s l
  refine ⟨fun ht hn => ⟨s.spaced l, ?_, (link_spaced l).trans (if_pos rfl), fun j hj => (link_spaced j).trans (if_neg hj), rfl⟩,
    fun ht hl hm => ?_, fun ht => by rw [exec_spacingEnd, endSpacing_other ht]⟩
  · rw [exec_spacingEnd, endSpacing_spacing ht, quietLines_not fun h => hn (linesDue_spaced.1 h)]
  · have hd := linesDue_spaced.2 hl
    have hm' : (s.spaced l).memoryLaw := hm
    refine ⟨_, by rw [exec_spacingEnd, endSpacing_spacing ht], quietLines_linesQuiet hd, ?_, fun j hj => ?_, quietLines_shown hm' hd, fun a ha => ?_, ?_⟩
    · rw [link_quietLines hd, link_spaced, if_pos rfl]
    · rw [link_quietLines hd, link_spaced, if_neg hj]
    · exact quietLines_kept hm' a fun h => ha h.1
    · rw [← quietLines_linesQuiet hd]; exact quietLines_frame

end Sys2Proof.Machine
end

section
/-! PROOFS. What the receivers take: characters (O29), good frames (O31) and the silence of a link (O32). -/
namespace Sys2Proof.Machine
open Sys2Proof

variable {s t u : State} {l m : LinkId} {r : Run}

/-! Causes and links -/

theorem raised_raise (c : Cause) : raised s (s.raise c) c := by
  refine ⟨?_, fun d hd => ?_⟩
  · unfold State.causeSet State.raise; rw [causeSet_or]; simp
  · unfold State.causeSet State.raise; rw [causeSet_or]; simp [hd]

/-- The link summary written: what it shows, and what it leaves. -/
theorem summary_written (hm : s.memoryLaw) : SummaryShown s.writeLinkSummary ∧ wordsKept s s.writeLinkSummary (· = 36) :=
  ⟨summaryShown_writeLinkSummary hm.1, fun _ ha => ⟨readWord_writeLinkSummary_other hm.1 ha, wordBad_writeLinkSummary_other ha⟩⟩

/-! Characters (R25, R26) -/

theorem exec_characterReceived (l : LinkId) (d : Byte) (parityBit stopBit : Bool) (s : State) :
    exec (.characterReceived l d parityBit stopBit) s
      = .next (if s.receives l then s.setLink l (assemble (s.link l) (receivedByte d parityBit stopBit)) else s) := rfl

theorem setLink_same : s.setLink l (s.link l) = s := by
  unfold State.setLink State.link
  exact congrArg (fun x => ({ s with links := x } : State)) (Vector.set_getElem_self _)

/-- A character changes the assembler's state and its run alone. -/
theorem assembled {x : Link} (hx : x = { s.link l with assembler := x.assembler, run := x.run }) :
    (s.setLink l x).link l = { s.link l with assembler := x.assembler, run := x.run } ∧ linksKept s (s.setLink l x) (· = l)
      ∧ s.setLink l x = { s with links := (s.setLink l x).links } :=
  ⟨(State.link_setLink ..).trans ((if_pos rfl).trans hx), fun _ hj => (State.link_setLink ..).trans (if_neg hj), rfl⟩

/-- Settles O29: a character by the state of the link's frame assembler. -/
theorem charactersFormRuns : Obligations.CharactersFormRuns := by
  unfold Obligations.CharactersFormRuns
  intro s l d parityBit stopBit k c becomes more
  have hc : receivedByte d parityBit stopBit = c := by
    show RunByte.mk _ _ _ = RunByte.mk _ _ _
    simp [beq_eq_decide]
  refine ⟨fun hp he => ?_, fun hn => by rw [exec_characterReceived, if_neg fun h => hn (receives_iff.1 h)]⟩
  have hexec : exec (.characterReceived l d parityBit stopBit) s = .next (s.setLink l (assemble k c)) := by
    rw [exec_characterReceived, if_pos (receives_iff.2 ⟨hp, he⟩), hc]
  have step : ∀ a r, assemble k c = { k with assembler := a, run := r } → becomes a r := fun a r h => by
    have hx := assembled (s := s) (l := l) (x := { k with assembler := a, run := r }) rfl
    exact ⟨_, hexec.trans (by rw [h]), hx⟩
  refine ⟨fun ha => ?_, fun ha => step _ _ ?_, fun ha hn => step _ _ ?_, fun ha hn => step _ _ ?_, fun ha hn => step _ _ ?_⟩
  · rw [hexec, show assemble k c = k by rw [assemble, ha]]
    exact congrArg _ setLink_same
  · rw [assemble, ha]; rfl
  · rw [assemble, ha]; simp only [if_pos hn, runWith]; rfl
  · rw [assemble, ha]; simp only [if_neg (Nat.not_lt.2 hn), runWith]; rfl
  · rw [assemble, ha]; simp only [if_neg (Nat.not_lt.2 hn), runWith]; rw [← ha]

/-! The link timer (R34) -/

theorem exec_linkTimerExpiry (l : LinkId) (s : State) :
    exec (.linkTimerExpiry l) s = .next (if s.linkTimedOut l then s.linkLost l else s) := rfl

theorem linkTimedOut_iff : s.linkTimedOut l = true ↔ s.part = .running ∧ (s.link l).state = .up
    ∧ ∃ t0, (s.link l).timer = some t0 ∧ (s.link l).timeout ≤ (s.clock - t0).toNat := by
  unfold State.linkTimedOut
  cases h : (s.link l).timer with
  | none => simp
  | some t0 => 
    simp only [Bool.and_eq_true, beq_iff_eq, and_assoc, elapsed, Option.some.injEq, exists_eq_left']
    exact and_congr_right' (and_congr_right' decide_eq_true_iff)

/-- Settles O32: an UP link whose timer has run out. -/
theorem linkTimeoutMakesLinkDown : Obligations.LinkTimeoutMakesLinkDown := by
  unfold Obligations.LinkTimeoutMakesLinkDown
  intro s l due
  refine ⟨fun hd hm => ?_, fun hd => by rw [exec_linkTimerExpiry, if_neg fun h => hd (linkTimedOut_iff.1 h)]⟩
  generalize hu : (s.setLink l { s.link l with state := .down, timer := none }).raise .link = u
  have hl : ∀ m, u.link m = if m = l then { s.link l with state := .down, timer := none } else s.link m := fun m => by
    subst hu; exact State.link_setLink ..
  have hmu : u.memoryLaw := by subst hu; exact hm
  have hr : raised s u .link := by subst hu; exact raised_raise (s := s.setLink l { s.link l with state := .down, timer := none }) .link
  have hk : wordsKept s u fun _ => False := by subst hu; exact fun _ _ => ⟨rfl, rfl⟩
  obtain ⟨hshown, hkept⟩ := summary_written hmu
  refine ⟨u.writeLinkSummary, ?_, (hl l).trans (if_pos rfl), fun m hm => (hl m).trans (if_neg hm), hr, hshown, fun a ha => ?_, ?_⟩
  · rw [exec_linkTimerExpiry, if_pos (linkTimedOut_iff.2 hd), ← hu]; rfl
  · exact ⟨(hkept a ha).1.trans (hk a id).1, (hkept a ha).2.trans (hk a id).2⟩
  · subst hu; rfl

/-! Good frames (R28, R34) -/

theorem frameKind_zero_iff : frameKind r = 0 ↔ (runByte r 1).toNat < 64 := by
  unfold frameKind; omega

/-- A link that has heard a good frame. -/
theorem link_linkHeard : (s.linkHeard l).link m = if m = l then { s.link l with
    state := if (s.link l).state = .down then .up else (s.link l).state
    timer := if (s.link l).state = .disabled then (s.link l).timer else some s.clock } else s.link m := by
  unfold State.linkHeard; dsimp only
  cases h : (s.link l).state
  case disabled =>
    simp only [reduceCtorEq, if_false, if_true]
    split
    · next e => subst e; rw [← h]
    · rfl
  case down => simp [State.raise]; exact State.link_setLink ..
  case up => simp

/-- Hearing a link writes its summary word and raises LINK where it was DOWN, and nothing else. -/
structure Heard (s t : State) (down : Prop) : Prop where
  shown : down → SummaryShown t
  kept : wordsKept s t fun a => a = 36 ∧ down
  raises : down → raised s t .link
  quiet : ¬ down → t.causes = s.causes
  frame : t = { s with links := t.links, ram := t.ram, badParity := t.badParity, causes := t.causes }

theorem heard_linkHeard (hm : s.memoryLaw) : Heard s (s.linkHeard l) ((s.link l).state = .down) := by
  unfold State.linkHeard; dsimp only
  cases h : (s.link l).state
  case disabled => exact ⟨(nomatch ·), fun _ _ => ⟨rfl, rfl⟩, (nomatch ·), fun _ => rfl, rfl⟩
  case up => exact ⟨(nomatch ·), fun _ _ => ⟨rfl, rfl⟩, (nomatch ·), fun _ => rfl, rfl⟩
  case down =>
    generalize hu : s.setLink l _ = u
    have hmu : (u.raise .link).memoryLaw := by subst hu; exact hm
    obtain ⟨h1, h2⟩ := summary_written hmu
    have hr : raised s (u.raise .link).writeLinkSummary .link := by subst hu; exact raised_raise (s := s) .link
    refine ⟨fun _ => h1, fun a ha => ?_, fun _ => hr, fun hn => absurd rfl hn, by subst hu; rfl⟩
    have := h2 a fun e => ha ⟨e, rfl⟩
    subst hu; exact this

/-- A good frame counted, and its report put into the holding slot. -/
def State.frameTaken (s : State) (l : LinkId) (r : Run) : State :=
  if frameKind r = 0 then (s.countLink l ctrGood).setLink l { (s.countLink l ctrGood).link l with slot := some (reportOf r) }
  else s.countLink l ctrGood

theorem goodFrame_eq : s.goodFrame l r = (s.frameTaken l r).linkHeard l := rfl

theorem link_frameTaken : (s.frameTaken l r).link m = if m = l then { s.link l with
    counters := counted (s.link l).counters ctrGood, slot := if frameKind r = 0 then some (reportOf r) else (s.link l).slot } else s.link m := by
  unfold State.frameTaken
  split
  · rw [State.link_setLink]
    split
    · rw [link_countLink, if_pos rfl]
    · next h => rw [link_countLink, if_neg h]
  · exact link_countLink l m ctrGood

theorem frameTaken_frame : s.frameTaken l r = { s with
    links := (s.frameTaken l r).links, ram := (s.frameTaken l r).ram, badParity := (s.frameTaken l r).badParity } := by
  unfold State.frameTaken
  split
  · unfold State.countLink; dsimp only; split <;> rfl
  · unfold State.countLink; dsimp only; split <;> rfl

theorem frameTaken_ram : (s.frameTaken l r).ram = (s.countLink l ctrGood).ram ∧ (s.frameTaken l r).badParity = (s.countLink l ctrGood).badParity := by
  unfold State.frameTaken; split <;> exact ⟨rfl, rfl⟩

theorem memoryLaw_frameTaken (hm : s.memoryLaw) : (s.frameTaken l r).memoryLaw := by
  have h := (flows_countLink l ctrGood).memory hm
  unfold State.memoryLaw at *
  rw [frameTaken_ram.1, frameTaken_ram.2]
  exact h

theorem countShown_frameTaken (hm : s.memoryLaw) : CountShown s (s.frameTaken l r) l 0 False := by
  have hr : ∀ a, (s.frameTaken l r).readWord a = (s.countLink l ctrGood).readWord a := readWord_congr frameTaken_ram.1
  have hb : ∀ a, (s.frameTaken l r).wordBad a = (s.countLink l ctrGood).wordBad a := wordBad_congr frameTaken_ram.2
  refine ⟨fun hlt => ?_, False.elim, fun a ha => ⟨?_, ?_⟩⟩
  · rw [hr, readWord_countLink hm.1]; exact if_pos ⟨rfl, hlt⟩
  · rw [hr, readWord_countLink hm.1]; exact if_neg fun h => ha (.inl h)
  · rw [hb]; exact wordBad_countLink_other fun h => ha (.inl h)

/-- The report of a seat-report frame has the fields of its bytes (R184). -/
theorem reportOf_fields (h : (runByte r 1).toNat < 64) : (reportOf r).channel.val = (runByte r 1).toNat
    ∧ (reportOf r).txId.toNat = 256 * (runByte r 2).toNat + (runByte r 3).toNat
    ∧ (reportOf r).reading.toNat = 256 * ((runByte r 7).toNat % 4) + (runByte r 8).toNat := by
  have h2 := (runByte r 2).isLt
  have h3 := (runByte r 3).isLt
  have h8 := (runByte r 8).isLt
  refine ⟨Nat.mod_eq_of_lt h, ?_, ?_⟩
  · simp only [reportOf, wordOfBytes, word, BitVec.toNat_ofNat]; omega
  · simp only [reportOf, BitVec.toNat_ofNat]; omega

/-- Settles O31: the frame counted and held, and its link heard. -/
theorem gapTakesGoodFrames : Obligations.GapTakesGoodFrames := by
  unfold Obligations.GapTakesGoodFrames
  intro s l k b hp he hm ha hslot hs hpar hc hlead hsum hch
  have hgood : discardCause (s.link l).slot.isSome (s.link l).run = none := by
    rw [show (s.link l).slot = none from hslot]
    refine (discardCause_ten hs hpar hc).trans ?_
    rw [if_neg (not_not.2 hlead), if_neg (not_not.2 hsum), if_neg (Nat.not_le.2 hch)]
  have hexec : exec (.gap l) s = .next (((s.dropRun l).frameTaken l k.run).linkHeard l) := by
    rw [exec_gap, if_pos (receives_iff.2 ⟨hp, he⟩), gapOn_run (.inl ha), endRun_takes hgood]; rfl
  have hd : ∀ m, (s.dropRun l).link m = if m = l then { k with assembler := .idle, run := emptyRun } else s.link m := fun m => link_dropRun l m
  have hmd : (s.dropRun l).memoryLaw := hm
  have hf := frameTaken_frame (s := s.dropRun l) (l := l) (r := k.run)
  have hlu := fun m => link_frameTaken (s := s.dropRun l) (l := l) (r := k.run) (m := m)
  have hcount := countShown_frameTaken (l := l) (r := k.run) hmd
  have hmu := memoryLaw_frameTaken (l := l) (r := k.run) hmd
  generalize (s.dropRun l).frameTaken l k.run = u at *
  have hlink : ∀ m, u.link m = if m = l then { k with
      assembler := .idle, run := emptyRun, counters := counted k.counters 0
      slot := if frameKind k.run = 0 then some (reportOf k.run) else none } else s.link m := fun m => by
    rw [hlu, hd, hd, if_pos rfl]
    split
    · rw [hslot]; rfl
    · rfl
  have hheard := heard_linkHeard (l := l) hmu
  have hstate : (u.link l).state = k.state := by rw [hlink, if_pos rfl]
  rw [hstate] at hheard
  have hcauses : u.causes = s.causes := by rw [hf]; rfl
  have hclock : u.clock = s.clock := by rw [hf]; rfl
  have ht : (u.linkHeard l).link l = { k with
      assembler := .idle, run := emptyRun, counters := counted k.counters 0
      slot := if frameKind k.run = 0 then some (reportOf k.run) else none
      state := if k.state = .down then .up else k.state
      timer := if k.state = .disabled then k.timer else some s.clock } := by
    rw [link_linkHeard, if_pos rfl, hlink, if_pos rfl, hclock]
  have hkept : ∀ a, a ≠ 36 ∨ k.state ≠ .down → (u.linkHeard l).readWord a = u.readWord a ∧ (u.linkHeard l).wordBad a = u.wordBad a :=
    fun a h => hheard.kept a fun ⟨h1, h2⟩ => h.elim (· h1) (· h2)
  obtain ⟨hcounter, -, hwords⟩ := hcount
  have hk : ((s.dropRun l).link l).counters = k.counters := by rw [hd, if_pos rfl]
  rw [hk] at hcounter hwords
  refine ⟨_, hexec, by rw [ht], fun h => ?_, fun h => ?_, fun h => ⟨(hheard.raises h).1, fun d hd => ?_⟩, fun h => (hheard.quiet h).trans hcauses,
    fun m hne => ?_, ⟨fun hlt => ?_, hheard.shown, fun a ha => ?_⟩, ?_⟩
  · rw [ht]; exact if_neg fun h0 => absurd (frameKind_zero_iff.1 h0) (Nat.not_lt.2 h)
  · obtain ⟨h1, h2, h3⟩ := reportOf_fields h
    rw [ht]
    exact ⟨reportOf k.run, if_pos (frameKind_zero_iff.2 h), h1, h2, rfl, rfl, h3, rfl, rfl, rfl, rfl⟩
  · rw [(hheard.raises h).2 d hd, State.causeSet, hcauses]; rfl
  · rw [link_linkHeard, if_neg hne, hlink, if_neg hne]
  · rw [(hkept _ (.inl (by omega))).1]; exact hcounter hlt
  · have h := hkept a (or_iff_not_imp_left.2 fun h h2 => ha (.inr ⟨not_not.1 h, h2⟩))
    have h' := hwords a fun hc => hc.elim (fun hc => ha (.inl hc)) And.right
    exact ⟨h.1.trans h'.1, h.2.trans h'.2⟩
  · rw [hheard.frame]
    generalize (u.linkHeard l).links = x1
    generalize (u.linkHeard l).ram = x2
    generalize (u.linkHeard l).badParity = x3
    generalize (u.linkHeard l).causes = x4
    rw [hf]; rfl

end Sys2Proof.Machine
end

section
/-! PROOFS. The transmitters: the frame on the line (O35) and its completion (O36); the reports that are turned away (O33). -/
namespace Sys2Proof.Machine
open Sys2Proof

variable {s t u : State} {l m : LinkId} {i j : Seat}

/-! Characters and frames on the line (R25, R38) -/

theorem sentCharacter_eq (d : Byte) : sentCharacter d
    = false :: ((List.range 8).map (fun i => d.getLsbD i) ++ [onesOf d % 2 == 0, true]) := rfl

theorem characterSpelled_sent (d : Byte) : CharacterSpelled d (sentCharacter d) where
  length := by simp [sentCharacter]
  start := rfl
  data k hk := by
    rw [sentCharacter_eq, Nat.add_comm, List.getElem?_cons_succ, List.getElem?_append_left (by simpa using hk),
      List.getElem?_map, List.getElem?_range hk, Option.map_some]
  parity := by
    have hc : ((sentCharacter d).drop 1).take 9 = (List.range 8).map (fun i => d.getLsbD i) ++ [onesOf d % 2 == 0] := rfl
    have ho : ((List.range 8).map (fun i => d.getLsbD i)).count true = onesOf d := by
      simp [List.count_eq_countP, List.countP_map, onesOf, Function.comp_def]
    rw [hc, List.count_append, ho]
    by_cases h : onesOf d % 2 = 0
    · simp [h]; omega
    · simp [h]; omega
  stop := rfl

/-- The n-th of the characters sent back to back. -/
theorem slice_flatMap {f : Byte → List Bool} (hf : ∀ d, (f d).length = 11) (bs : List Byte) {n : Nat} {d : Byte} (h : bs[n]? = some d) :
    ((bs.flatMap f).drop (11 * n)).take 11 = f d := by
  induction bs generalizing n with
  | nil => cases h
  | cons b bs ih =>
    rw [List.flatMap_cons]
    cases n with
    | zero =>
      obtain rfl : b = d := by simpa using h
      rw [Nat.mul_zero, List.drop_zero, List.take_append_of_le_length (hf b).ge, List.take_of_length_le (hf b).le]
    | succ n =>
      rw [Nat.mul_succ, Nat.add_comm, ← List.drop_drop, List.drop_append_of_le_length (hf b).ge, List.drop_of_length_le (hf b).le,
        List.nil_append]
      exact ih (by simpa using h)

theorem length_flatMap_sent (bs : List Byte) : (bs.flatMap sentCharacter).length = 11 * bs.length := by
  induction bs with
  | nil => rfl
  | cons b bs ih => rw [List.flatMap_cons, List.length_append, ih, (characterSpelled_sent b).length, List.length_cons]; omega

/-- The six bytes of a command frame sum to 0 modulo 256. -/
theorem commandFrame_sum (x : SeatState) : ((commandFrame x).map BitVec.toNat).sum % 256 = 0 := by
  rw [← byteSum_eq_zero_iff]
  unfold commandFrame; dsimp only
  generalize [_, _, _, _, _] = bs
  have h : byteSum (bs ++ [checkByte bs]) = byteSum bs + checkByte bs := by simp [byteSum]
  rw [h, checkByte]
  exact BitVec.add_right_neg _

theorem commandFrame_bytes (x : SeatState) : ∃ check, commandFrame x = [0x3C#8, BitVec.ofNat 8 x.ctx.channel.val, x.ctx.txId.extractLsb' 8 8,
    x.ctx.txId.extractLsb' 0 8, if x.channel.intent = .muted then 0x01#8 else 0x02#8, check] := by
  unfold commandFrame
  cases x.channel.intent <;> exact ⟨_, rfl⟩

/-! The transmitter takes the queue's head (R37, R38) -/

theorem exec_transmitStart (l : LinkId) (s : State) : exec (.transmitStart l) s = .next (s.transmit l) := rfl

/-- The frame that the transmitter takes for a seat. -/
def State.frameFor (s : State) (i : Seat) : Frame := { seat := i, cancelled := false, bytes := commandFrame (s.seat i) }

theorem transmit_head {rest : List Seat} (hp : s.part = .running) (ht : (s.link l).tx = .idle) (hu : (s.link l).state = .up)
    (hq : (s.link l).queue = i :: rest) :
    s.transmit l = s.setLink l (refill { s.link l with queue := rest, tx := .sending (s.frameFor i) }) := by
  simp only [State.transmit, hp, ht, hu, hq]; rfl

theorem transmit_not (h : s.part ≠ .running ∨ (s.link l).tx ≠ .idle ∨ (s.link l).state ≠ .up ∨ (s.link l).queue = []) : s.transmit l = s := by
  unfold State.transmit; dsimp only
  split
  · next h1 h2 h3 h4 => rcases h with h | h | h | h <;> simp_all
  · rfl

theorem refill_nil {k : Link} (h : k.deferred = []) : refill k = k := by rw [refill, h]
theorem refill_cons {k : Link} {d : Seat} {ds : List Seat} (h : k.deferred = d :: ds) :
    refill k = { k with queue := k.queue ++ [d], deferred := ds } := by rw [refill, h]
theorem refill_frame {k : Link} : refill k = { k with queue := (refill k).queue, deferred := (refill k).deferred } := by
  unfold refill; split <;> rfl

/-- The lowest member of an ascending list is its head. -/
theorem ascending_lowest {d : Seat} {ds : List Seat} (h : ds.Pairwise (· < ·)) (hd : d ∈ ds) (hl : ∀ e ∈ ds, d ≤ e) : ds = d :: ds.erase d := by
  cases ds with
  | nil => cases hd
  | cons e ds =>
    obtain rfl : d = e := (List.mem_cons.1 hd).elim id fun hm =>
      absurd ((List.pairwise_cons.1 h).1 d hm) (Fin.not_lt.2 (hl e List.mem_cons_self))
    rw [List.erase_cons_head]

/-- Settles O35: the head of the queue on the line, and the lowest deferred seat in its room. -/
theorem transmitterTakesQueueHead : Obligations.TransmitterTakesQueueHead := by
  unfold Obligations.TransmitterTakesQueueHead
  intro s l k
  refine ⟨fun i rest hp ht hu hq hlaw => ?_, fun h => by rw [exec_transmitStart, transmit_not h], fun h => ?_⟩
  · generalize hx : ({ k with queue := rest, tx := .sending (s.frameFor i) } : Link) = x
    have hexec : exec (.transmitStart l) s = .next (s.setLink l (refill x)) := by rw [exec_transmitStart, transmit_head hp ht hu hq, ← hx]
    have hl : (s.setLink l (refill x)).link l = refill x := (State.link_setLink ..).trans (if_pos rfl)
    have htx : (refill x).tx = .sending (s.frameFor i) := refill_tx.trans (by rw [← hx])
    have hline : (refill x).transmitLine = (commandFrame (s.seat i)).flatMap sentCharacter := by rw [Link.transmitLine, htx]; rfl
    have hxd : x.deferred = k.deferred := by rw [← hx]
    have hxq : x.queue = rest := by rw [← hx]
    refine ⟨_, s.frameFor i, hexec, by rw [hl, htx], rfl, rfl, commandFrame_bytes _, commandFrame_sum _, ?_, fun n d hd => ?_, fun hd => ?_, fun d hd hlow => ?_, ?_,
      fun m hm => (State.link_setLink ..).trans (if_neg hm), rfl⟩
    · rw [hl, hline, length_flatMap_sent]; rfl
    · rw [hl, hline, slice_flatMap (fun b => (characterSpelled_sent b).length) (commandFrame (s.seat i)) hd]
      exact characterSpelled_sent d
    · rw [hl, refill_nil (hxd.trans hd)]; exact ⟨hxq, hxd.trans hd⟩
    · rw [hl, refill_cons (hxd.trans (ascending_lowest hlaw.2.2.1 hd hlow))]
      exact ⟨by rw [hxq], rfl⟩
    · rw [hl, refill_frame, ← hx]
  · unfold Link.transmitLine
    cases ht : k.tx with
    | sending f => exact absurd ht (h f)
    | idle => rfl
    | spacing => rfl

/-! The completion (R39, R130) -/

theorem exec_commandFrameCompletion (l : LinkId) (s : State) : exec (.commandFrameCompletion l) s = .next (s.completeFrame l) := rfl

/-- The transmitter of link l spaces. -/
def State.spacing (s : State) (l : LinkId) : State := s.setLink l { s.link l with tx := .spacing }

theorem link_spacing : (s.spacing l).link m = if m = l then { s.link l with tx := .spacing } else s.link m := State.link_setLink ..

theorem completeFrame_sending {f : Frame} (h : (s.link l).tx = .sending f) :
    s.completeFrame l = if f.cancelled then s.spacing l else publishVisible s ((s.spacing l).muteCompletion f.seat) [f.seat] := by
  rw [State.completeFrame, h]; rfl

theorem completeFrame_other (h : ∀ f, (s.link l).tx ≠ .sending f) : s.completeFrame l = s := by
  unfold State.completeFrame; split
  · next f hf => exact absurd hf (h f)
  · rfl

/-- The channel of a seat whose command has gone out. -/
def sentChannel (s : State) (i : Seat) : MuteChannel :=
  { (s.seat i).channel with state := .awaiting, deadline := some (s.clock + BitVec.ofNat 32 (s.seatClass i).confirmTime) }

theorem muteCompletion_sending (h : (s.seat i).channel.state = .sending) :
    (s.spacing l).muteCompletion i = (s.spacing l).setChannel i (sentChannel s i) := if_pos h
theorem muteCompletion_other (h : (s.seat i).channel.state ≠ .sending) : (s.spacing l).muteCompletion i = s.spacing l := if_neg h

/-- Settles O36: a completion by the frame's cancellation and its seat's channel. -/
theorem completionStartsConfirmation : Obligations.CompletionStartsConfirmation := by
  unfold Obligations.CompletionStartsConfirmation
  intro s l k
  refine ⟨fun f ht hc hs hp hi => ?_, fun f ht h => ⟨s.spacing l, ?_, link_spacing.trans (if_pos rfl), fun m hm => link_spacing.trans (if_neg hm), rfl⟩,
    fun h => by rw [exec_commandFrameCompletion, completeFrame_other h]⟩
  · generalize hu : (s.spacing l).setChannel f.seat (sentChannel s f.seat) = u
    have hexec : exec (.commandFrameCompletion l) s = .next (publishVisible s u [f.seat]) := by
      rw [exec_commandFrameCompletion, completeFrame_sending ht, if_neg (by rw [hc]; decide), muteCompletion_sending hs, hu]
    have hseat : ∀ j, u.seat j = if j = f.seat then { s.seat f.seat with channel := sentChannel s f.seat } else s.seat j := fun j => by
      subst hu; exact seat_setChannel _
    have hlink : ∀ m, u.link m = if m = l then { k with tx := .spacing } else s.link m := fun m => by subst hu; exact link_spacing
    have hpub : u.publishes f.seat = true := by subst hu; exact publishes_iff.2 ⟨hi, hp⟩
    have hframe : u = { s with links := u.links, seats := u.seats } := by subst hu; rfl
    have hone := publishedOne (s := s) hpub (by rw [hseat, if_pos rfl]) (by subst hu; rfl) (by subst hu; rfl)
    generalize publishVisible s u [f.seat] = t at hexec hone
    have hlinks : ∀ m, t.link m = u.link m := fun m => by rw [hone.frame]; rfl
    have hdiff : ¬ SamePicture s t f.seat := fun h => by
      have := h.channel
      rw [hone.seat, hseat, if_pos rfl, hs] at this
      cases this
    obtain ⟨hboard, hwrites⟩ := hone.published.2 hdiff
    refine ⟨t, hexec, by rw [hlinks, hlink, if_pos rfl], fun m hm => by rw [hlinks, hlink, if_neg hm], ?_, fun j hj => ?_, hwrites, ?_⟩
    · rw [hone.seat, hboard, hseat, if_pos rfl]; rfl
    · rw [hone.others j hj, hseat, if_neg hj]
    · have hl : t.links = u.links := by rw [hone.frame]
      rw [hl, hone.frame]
      generalize t.seats = x
      generalize t.boardWrites = y
      rw [hframe]
  · rw [exec_commandFrameCompletion, completeFrame_sending ht]
    by_cases hc : f.cancelled = true
    · rw [if_pos hc]
    · rw [if_neg hc, muteCompletion_other (h.resolve_left hc), publishVisible_one, if_pos (show s.picture f.seat = (s.spacing l).picture f.seat from rfl)]

/-! Reports turned away (R19, R20) -/

theorem exec_reportTake (l : LinkId) (s : State) : exec (.reportTake l) s = .next (if s.part = .running then s.takeReport l else s) := rfl

/-- The holding slot of link l is empty. -/
def State.slotEmptied (s : State) (l : LinkId) : State := s.setLink l { s.link l with slot := none }

theorem link_slotEmptied : (s.slotEmptied l).link m = if m = l then { s.link l with slot := none } else s.link m := State.link_setLink ..

theorem takeReport_held {r : Report} (h : (s.link l).slot = some r) : s.takeReport l = (s.slotEmptied l).judgeReport l r := by
  rw [State.takeReport, h]; rfl
theorem takeReport_none (h : (s.link l).slot = none) : s.takeReport l = s := by rw [State.takeReport, h]

theorem judgeReport_unmapped {r : Report} (h : s.carrier l r.channel = none) : s.judgeReport l r = s.countDiscard l ctrUnmapped := by
  rw [State.judgeReport, h]

/-- The seat's foreign seen flag set. -/
def State.foreignSeen (s : State) (i : Seat) : State := s.setCtx i { (s.seat i).ctx with foreignSeen := true }

theorem judgeReport_foreign {r : Report} (h : s.carrier l r.channel = some i) (hr : r.txId ≠ (s.seat i).ctx.txId) :
    s.judgeReport l r = (s.countDiscard l ctrForeign).foreignSeen i := by
  rw [State.judgeReport, h]; exact if_neg hr

/-- What a discarded report leaves: its slot empty, its count and ERRORS-SEEN. -/
structure Discarded (s t : State) (l : LinkId) (n : Fin 11) : Prop where
  link : t.link l = { s.link l with slot := none, counters := counted (s.link l).counters n, errorsSeen := true }
  others : linksKept s t (· = l)
  shown : CountShown s t l n ((s.link l).errorsSeen = false)
  frame : t = { s with links := t.links, ram := t.ram, badParity := t.badParity }

theorem discarded_slotEmptied (hm : s.memoryLaw) (n : Fin 11) : Discarded s ((s.slotEmptied l).countDiscard l n) l n := by
  have hl : (s.slotEmptied l).link l = { s.link l with slot := none } := link_slotEmptied.trans (if_pos rfl)
  refine ⟨?_, fun m hne => ?_, ?_, ?_⟩
  · rw [link_countDiscard, if_pos rfl, hl]
  · rw [link_countDiscard, if_neg hne, link_slotEmptied, if_neg hne]
  · obtain ⟨h1, h2, h3⟩ := countShown_countDiscard (s := s.slotEmptied l) hm l n
    rw [hl] at h1 h2 h3
    exact ⟨h1, h2, h3⟩
  · exact eq_of_erase_count ((erase_countDiscard opens_fCount).trans (erase_setLink (opens_fCount.mono (by decide))))

/-- Settles O33: UNMAPPED and FOREIGN reports. -/
theorem reportsTurnedAway : Obligations.ReportsTurnedAway := by
  unfold Obligations.ReportsTurnedAway
  intro s l r k counts
  refine ⟨fun hp hm hs hc => ?_, fun i hp hm hs hc hr => ?_, fun h => ?_⟩
  · have hd := discarded_slotEmptied (l := l) hm ctrUnmapped
    refine ⟨_, ?_, ⟨hd.link, hd.others, hd.shown⟩, hd.frame⟩
    rw [exec_reportTake, if_pos hp, takeReport_held hs, judgeReport_unmapped (s := s.slotEmptied l) hc]
  · have hd := discarded_slotEmptied (l := l) hm ctrForeign
    have hexec : exec (.reportTake l) s = .next (((s.slotEmptied l).countDiscard l ctrForeign).foreignSeen i) := by
      rw [exec_reportTake, if_pos hp, takeReport_held hs, judgeReport_foreign (s := s.slotEmptied l) hc hr]
    generalize (s.slotEmptied l).countDiscard l ctrForeign = u at hd hexec
    have hseat : ∀ j, u.seat j = s.seat j := fun j => by rw [hd.frame]; rfl
    refine ⟨_, hexec, ⟨hd.link, hd.others, hd.shown.counter, hd.shown.shown, hd.shown.kept⟩, ?_, fun j hj => ?_, ?_⟩
    · rw [State.foreignSeen, seat_setCtx, if_pos rfl, hseat]
    · rw [State.foreignSeen, seat_setCtx, if_neg hj, hseat]
    · have frame : ∀ x, ({ u with seats := x } : State) = { s with links := u.links, seats := x, ram := u.ram, badParity := u.badParity } :=
        fun x => by rw [hd.frame]
      exact frame _
  · rw [exec_reportTake]
    split
    · next hp => rw [takeReport_none (h.resolve_left (not_not.2 hp))]
    · rfl

end Sys2Proof.Machine
end

section
/-! PROOFS. The scan timer: a pass starts, or an expiry is late (O38). -/
namespace Sys2Proof.Machine
open Sys2Proof

variable {s t u : State} {i j : Seat} {k : Nat}

/-! The next active seat (R51) -/

/-- An active seat is left from number k on. -/
def State.seatLeft (s : State) (k : Nat) : Prop := ∃ i : Seat, k ≤ i.val ∧ i.val < s.layout.seatCount ∧ (s.seat i).ctx.active = true

theorem nextActive_isNone_iff : (s.nextActive k).isNone = true ↔ ¬ s.seatLeft k := by
  simp only [State.nextActive, State.seatLeft, Option.isNone_iff_eq_none, List.find?_eq_none, not_exists]
  refine ⟨fun h i hi => h i (by simp [allSeats]) (by simpa [and_assoc] using hi), fun h i _ hi => h i (by simpa [and_assoc] using hi)⟩

theorem settlePass_none (h : s.pass = none) : s.settlePass = s := by rw [State.settlePass, h]
theorem settlePass_left (h : s.pass = some k) (hl : s.seatLeft k) : s.settlePass = s := by
  rw [State.settlePass, h]; exact if_neg fun hn => nextActive_isNone_iff.1 hn hl
theorem settlePass_over (h : s.pass = some k) (hl : ¬ s.seatLeft k) : s.settlePass = { s with pass := none } := by
  rw [State.settlePass, h]; exact if_pos (nextActive_isNone_iff.2 hl)

/-! The words of a pass (R48, R50) -/

/-- The words 32 to 34 of the header written. -/
structure PassShown (s t : State) (count : Word) : Prop where
  count : t.readWord 34 = count
  low : t.readWord 32 = lowHalf s.clock
  high : t.readWord 33 = highHalf s.clock
  kept : wordsKept s t (fun a => 32 ≤ a ∧ a ≤ 34)

theorem passShown (hm : s.memoryLaw) (c : Word) : PassShown s ((s.putWord hdrPassCount c).writeClockHeader) c := by
  have hr : ∀ a, ((s.putWord hdrPassCount c).writeClockHeader).readWord a =
      if a = 33 then highHalf s.clock else if a = 32 then lowHalf s.clock else if a = 34 then c else s.readWord a := fun a => by
    unfold State.writeClockHeader
    rw [readWord_putWord (wf_putWord (wf_putWord hm.1)), readWord_putWord (wf_putWord hm.1), readWord_putWord hm.1]
    simp [hdrClock, hdrPassCount, ramWords, State.putWord]
  refine ⟨by rw [hr]; rfl, by rw [hr]; rfl, by rw [hr]; rfl, fun a ha => ⟨?_, ?_⟩⟩
  · rw [hr, if_neg (by omega), if_neg (by omega), if_neg (by omega)]
  · unfold State.writeClockHeader
    rw [wordBad_putWord, if_neg fun h => ha (by have := h.1; simp only [hdrClock] at this; omega), wordBad_putWord,
      if_neg fun h => ha (by have := h.1; simp only [hdrClock] at this; omega), wordBad_putWord,
      if_neg fun h => ha (by have := h.1; simp only [hdrPassCount] at this; omega)]

/-! An expiry (R47 to R49) -/

theorem exec_scanExpiry (s : State) : exec .scanExpiry s = .next (match s.scanDue with
    | none => s
    | some t => State.onExpiry { s with scanTimer := some t }) := rfl

theorem scanDue_some {t0 : Clock} (h : s.part = .running ∧ s.scanTimer = some t0 ∧ s.scanPeriod ≤ (s.clock - t0).toNat) :
    s.scanDue = some (t0 + BitVec.ofNat 32 s.scanPeriod) := by
  obtain ⟨hp, ht, hd⟩ := h
  rw [State.scanDue, ht]; exact if_pos ⟨hp, hd⟩

theorem scanDue_none {t0 : Clock} (h : s.scanTimer = none ∨ s.scanTimer = some t0 ∧
    ¬ (s.part = .running ∧ s.scanTimer = some t0 ∧ s.scanPeriod ≤ (s.clock - t0).toNat)) : s.scanDue = none := by
  rcases h with h | ⟨ht, hn⟩
  · rw [State.scanDue, h]
  · rw [State.scanDue, ht]; exact if_neg fun hd => hn ⟨hd.1, ht, hd.2⟩

/-- The pass state is IDLE: no pass is in flight that has an active seat left. -/
def State.passIdle (s : State) : Prop := ∀ k, s.pass = some k → ¬ s.seatLeft k

theorem onExpiry_idle (h : s.passIdle) : s.onExpiry = State.startPass { s with pass := none } := by
  unfold State.onExpiry; dsimp only
  cases hp : s.pass with
  | none => rw [settlePass_none hp, hp]; dsimp only; rw [← hp]
  | some k => rw [settlePass_over hp (h k hp)]

theorem onExpiry_late (h : ¬ s.passIdle) : s.onExpiry = s.lateExpiry := by
  obtain ⟨k, hk⟩ := not_forall.1 h
  obtain ⟨hp, hl⟩ := Classical.not_imp.1 hk
  unfold State.onExpiry; dsimp only
  rw [settlePass_left hp (not_not.1 hl), hp]

/-- The pass count, the refresh decision and the pass state of a pass that starts (R48). -/
def State.passBegun (s : State) : State :=
  { s with
    pass := some 0, passCount := s.passCount + 1, refreshPass := decide (s.countdown ≤ 1)
    countdown := if s.countdown ≤ 1 then s.refreshInterval else s.countdown - 1 }

theorem startPass_eq : s.startPass = ((s.passBegun.putWord hdrPassCount (s.passCount + 1)).writeClockHeader).settlePass := by
  unfold State.startPass State.passBegun; dsimp only
  by_cases h : s.countdown ≤ 1
  · simp only [show s.countdown - 1 = 0 by omega, h, if_true]; rfl
  · have h0 : s.countdown - 1 ≠ 0 := by omega
    simp only [h, h0, if_false, decide_false, beq_eq_false_iff_ne.2 h0]

theorem startPass_pass : (s.seatLeft 0 → s.startPass.pass = some 0) ∧ (¬ s.seatLeft 0 → s.startPass.pass = none)
    ∧ s.startPass = { (s.passBegun.putWord hdrPassCount (s.passCount + 1)).writeClockHeader with pass := s.startPass.pass } := by
  rw [startPass_eq]
  generalize hu : (s.passBegun.putWord hdrPassCount (s.passCount + 1)).writeClockHeader = u
  have hp : u.pass = some 0 := by subst hu; rfl
  have hl : u.seatLeft 0 ↔ s.seatLeft 0 := by subst hu; exact Iff.rfl
  refine ⟨fun h => ?_, fun h => ?_, ?_⟩
  · rw [settlePass_left hp (hl.2 h), hp]
  · rw [settlePass_over hp fun h' => h (hl.1 h')]
  · by_cases h : u.seatLeft 0
    · rw [settlePass_left hp h]
    · rw [settlePass_over hp h]

/-- Settles O38: an expiry by the pass state that it finds. -/
theorem scanExpiryStartsPassOrIsLate : Obligations.ScanExpiryStartsPassOrIsLate := by
  unfold Obligations.ScanExpiryStartsPassOrIsLate
  intro s t0 left due idle
  refine ⟨fun hd hi hm => ?_, fun hd hi hm => ?_, fun h => by rw [exec_scanExpiry, scanDue_none h]⟩
  · generalize hv : ({ s with scanTimer := some (t0 + BitVec.ofNat 32 s.scanPeriod), pass := none } : State) = v
    have hexec : exec .scanExpiry s = .next v.startPass := by
      rw [exec_scanExpiry, scanDue_some hd]; dsimp only
      rw [onExpiry_idle (s := { s with scanTimer := some (t0 + BitVec.ofNat 32 s.scanPeriod) }) hi, ← hv]
    have hmv : v.passBegun.memoryLaw := hv ▸ hm
    obtain ⟨h1, h2, h3⟩ := startPass_pass (s := v)
    obtain ⟨w1, w2, w3, w4⟩ := passShown hmv (v.passCount + 1)
    have hx : (v.passBegun.putWord hdrPassCount (v.passCount + 1)).writeClockHeader = { v.passBegun with
        ram := ((v.passBegun.putWord hdrPassCount (v.passCount + 1)).writeClockHeader).ram
        badParity := ((v.passBegun.putWord hdrPassCount (v.passCount + 1)).writeClockHeader).badParity } := rfl
    generalize (v.passBegun.putWord hdrPassCount (v.passCount + 1)).writeClockHeader = x at *
    generalize v.startPass = t at *
    have hr : t.ram = x.ram ∧ t.badParity = x.badParity := by rw [h3]; exact ⟨rfl, rfl⟩
    have hread : ∀ a, t.readWord a = x.readWord a := readWord_congr hr.1
    have hf : t = { v.passBegun with pass := t.pass, ram := t.ram, badParity := t.badParity } := by
      rw [hr.1, hr.2]
      conv_lhs => rw [h3, hx]
    subst hv
    have hcount : t.passCount = s.passCount + 1 := by rw [hf]; rfl
    refine ⟨t, hexec, by rw [hf]; rfl, hcount, by rw [hf]; rfl, by rw [hf]; rfl, h1, h2, ?_, (hread 32).trans w2, (hread 33).trans w3,
      fun a ha => ⟨(hread a).trans (w4 a ha).1, (wordBad_congr hr.2 a).trans (w4 a ha).2⟩, ?_⟩
    · rw [hread, w1, hcount]
    · rw [hf]; rfl
  · generalize hv : ({ s with scanTimer := some (t0 + BitVec.ofNat 32 s.scanPeriod) } : State) = v
    have hexec : exec .scanExpiry s = .next v.lateExpiry := by
      rw [exec_scanExpiry, scanDue_some hd]; dsimp only
      rw [onExpiry_late (s := { s with scanTimer := some (t0 + BitVec.ofNat 32 s.scanPeriod) }) hi, ← hv]
    have hs := stored_putWord (s := { v with lateCount := satSucc 65535 v.lateCount }) (a := 35) (v := word (satSucc 65535 v.lateCount)) (hv ▸ hm) (by decide)
    have hr := raised_raise (s := ({ v with lateCount := satSucc 65535 v.lateCount } : State).putWord 35 (word (satSucc 65535 v.lateCount))) .late
    subst hv
    exact ⟨_, hexec, rfl, rfl, hr, hs.word, hs.kept, rfl⟩

end Sys2Proof.Machine
end

section
/-! PROOFS. What an order in hand leaves: the entry of its slot, its work, and the slot finished, said once for every order. -/
namespace Sys2Proof.Machine
open Sys2Proof

variable {s t u f : State} {i j : Seat} {w : PageWork} {o : Slot} {code : ResultCode} {a b : Word} {p : Nat → Prop}

/-! The seat that a slot names (R178) -/

theorem seatOf_out (h : s.layout.seatCount ≤ o.seat.toNat ∨ 512 ≤ o.seat.toNat) : s.seatOf o.seat = none := by
  unfold State.seatOf
  split
  · rw [if_neg (by omega)]
  · rfl

theorem seatWord_toNat : (seatWord i).toNat = i.val := by
  simp only [seatWord, word, BitVec.toNat_ofNat]; omega

theorem seatOf_named (h : i.val < s.layout.seatCount) (ho : o.seat = seatWord i) : s.seatOf o.seat = some i := by
  have hi := i.isLt
  unfold State.seatOf
  rw [ho]
  simp only [seatWord_toNat, hi, h, dif_pos, if_true]

/-! The state in which an order works -/

theorem Entered.layout (h : Entered s t w o) : t.layout = s.layout := by rw [h.frame]
theorem Entered.part (h : Entered s t w o) : t.part = s.part := by rw [h.frame]
theorem Entered.clock (h : Entered s t w o) : t.clock = s.clock := by rw [h.frame]
theorem Entered.roster (h : Entered s t w o) : t.roster = s.roster := by rw [h.frame]
theorem Entered.lift (h : Entered s t w o) : t.lift = s.lift := by rw [h.frame]
theorem Entered.suspended (h : Entered s t w o) : t.suspended = s.suspended := by rw [h.frame]
theorem Entered.boardWrites (h : Entered s t w o) : t.boardWrites = s.boardWrites := by rw [h.frame]
theorem Entered.seat (h : Entered s t w o) (i : Seat) : t.seat i = s.seat i := by rw [h.frame]; rfl
theorem Entered.link (h : Entered s t w o) (l : LinkId) : t.link l = s.link l := by rw [h.frame]; rfl
theorem Entered.carrier (h : Entered s t w o) (l : LinkId) (c : Channel) : t.carrier l c = s.carrier l c := by rw [h.frame]; rfl
theorem Entered.seatOf (h : Entered s t w o) (x : Word) : t.seatOf x = s.seatOf x := by rw [h.frame]; rfl
theorem Entered.lockedUnlifted (h : Entered s t w o) (i : Seat) : t.lockedUnlifted i = s.lockedUnlifted i := by rw [h.frame]; rfl
theorem Entered.worked (h : Entered s t w o) : t.worked = some { w with begun := true } := by rw [h.frame]
theorem Entered.publishes (h : Entered s t w o) (i : Seat) : t.publishes i = s.publishes i := publishes_congr h.layout h.part

theorem lockedUnlifted_iff : s.lockedUnlifted i = true ↔ (s.seat i).ctx.locked = true ∧ s.lift ≠ some i := by
  simp [State.lockedUnlifted]

theorem lockedUnlifted_eq_false (h : (s.seat i).ctx.locked = false ∨ s.lift = some i) : s.lockedUnlifted i = false := by
  rw [← Bool.not_eq_true, lockedUnlifted_iff]
  rintro ⟨h1, h2⟩
  rcases h with h | h
  · rw [h] at h1; cases h1
  · exact h2 h

/-- While a slot that has no more to read is worked, the order waits for no access. -/
theorem orderRequest_over (hw : t.worked = some w) (hb : w.bulk = none) (hg : w.begun = true) (hn : t.nextOrderRead w t.reads = none) :
    t.orderRequest = none := by
  unfold State.orderRequest State.orderWaits
  rw [hw]; simp [hb, hg, hn]

/-- An order whose reading has ended works where the slot's entry has left the state, and asks for nothing while it works. -/
structure Works (s t : State) (w : PageWork) (o : Slot) : Prop where
  entered : Entered s t w o
  idle : t.orderRequest = none

/-- The kinds that read no more than the slot's three words. -/
abbrev simpleKind (k : Word) : Prop := k ≠ kindLoadSeat ∧ k ≠ kindReloadClasses

theorem slotOf_take {rs : List ReadWord} (h : 3 ≤ rs.length) : slotOf (valuesOf (rs.take 3)) = slotOf (valuesOf rs) := by
  match rs, h with
  | x :: y :: z :: rest, _ => rfl

theorem nextOrderRead_simple {rs : List ReadWord} (h3 : 3 ≤ rs.length) (hk : simpleKind (slotOf (valuesOf rs)).kind) : s.nextOrderRead w rs = none := by
  unfold State.nextOrderRead
  split
  · rfl
  rw [if_neg (Nat.not_lt.2 h3)]; dsimp only
  split
  · rfl
  rw [if_neg (by simpa using hk.1), if_neg (by simpa using hk.2)]

theorem works_simple (h : s.OrderInHand w o) (hm : s.memoryLaw) (hl : s.layoutSound) (hk : simpleKind o.kind) : Works s (s.enterSlot w) w o := by
  obtain ⟨L, m, e, he, hL, -⟩ := enterSlot_slot h hm hl
  have hs : slotOf (valuesOf L) = o := (slotOf_take hL).symm.trans he.slot
  have hn : ∀ u : State, u.nextOrderRead { w with begun := true } L = none := fun u => nextOrderRead_simple hL (hs ▸ hk)
  rw [e, readOn_over (hn _)]
  exact ⟨he, orderRequest_over he.worked (slotReady_iff h.ready).2.1 rfl (hn _)⟩

/-! The slot finished -/

/-- What finishing the slot leaves of the state `u` that the order's work left: the words `p` that the work wrote, and the
answer. -/
structure Finishes (s u f : State) (w : PageWork) (code : ResultCode) (a b : Word) (p : Nat → Prop) : Prop where
  done : OrderDone s f w code a b
  words : wordsKept s f (fun x => slotWords s w x ∨ p x)
  header : ∀ x < 256, f.readWord x = u.readWord x
  frame : f = { u with worked := f.worked, lift := none, reads := [], ram := f.ram, badParity := f.badParity }

theorem finishes (h : s.OrderInHand w o) (hl : s.layoutSound) (he : Entered s t w o) (hu : u.layout = s.layout) (hm : u.memoryLaw)
    (hp : wordsKept t u p) (hlow : ∀ x, p x → x < 256) :
    Finishes s u (u.finishOrder { w with begun := true } { code := code, a := a, b := b }) w code a b p := by
  have hbase : 256 ≤ s.layout.pageBase ({ w with begun := true } : PageWork).page := header_below_pages hl w.page
  obtain ⟨hframe, -, -, -, hkept, -⟩ := finishOrder_spec (u := u) (w := { w with begun := true }) (e := { code := code, a := a, b := b })
    hm (by rw [hu]; exact pageBase_le hl w.page) (OrderInHand.slot_lt h).2
  refine ⟨orderDone_finish h hl he hu hm ?_, wordsKept_finish h hl he hu hm hp, fun x hx => (hkept x ?_).1, ?_⟩
  · refine (hp _ fun hc => ?_).1
    have := hlow _ hc
    rw [progressAddr_eq] at this
    have : 256 ≤ s.layout.pageBase w.page := hbase
    omega
  · rw [hu, slotAddr_eq]
    rintro ⟨k, -, -, hk⟩
    omega
  · rw [hframe]

/-- The words that an order leaves when its work writes none. -/
theorem Finishes.only (h : Finishes s u f w code a b fun _ => False) : wordsKept s f (slotWords s w) :=
  fun x hx => h.words x fun hc => hc.elim hx id

theorem Finishes.seats (h : Finishes s u f w code a b p) : f.seats = u.seats := by rw [h.frame]
theorem Finishes.seat (h : Finishes s u f w code a b p) (i : Seat) : f.seat i = u.seat i := by rw [State.seat, h.seats]; rfl
theorem Finishes.links (h : Finishes s u f w code a b p) : f.links = u.links := by rw [h.frame]
theorem Finishes.link (h : Finishes s u f w code a b p) (l : LinkId) : f.link l = u.link l := by rw [State.link, h.links]; rfl
theorem Finishes.roster (h : Finishes s u f w code a b p) : f.roster = u.roster := by rw [h.frame]
theorem Finishes.clock (h : Finishes s u f w code a b p) : f.clock = u.clock := by rw [h.frame]
theorem Finishes.layout (h : Finishes s u f w code a b p) : f.layout = u.layout := by rw [h.frame]
theorem Finishes.boardWrites (h : Finishes s u f w code a b p) : f.boardWrites = u.boardWrites := by rw [h.frame]

/-- The write that an order leaves is the one its publication took. -/
theorem orderWrite_congr (h1 : f.seat i = u.seat i) (h2 : f.roster = u.roster) (h3 : f.clock = u.clock) (h4 : u.orderRequest = none) :
    orderWrite f i = changeWrite u i := by
  unfold orderWrite changeWrite State.boardBody State.seatFlags
  rw [h1, h2, h3, h4]

theorem Finishes.write (h : Finishes s u f w code a b p) (hi : u.orderRequest = none) : orderWrite f i = changeWrite u i :=
  orderWrite_congr (h.seat i) h.roster h.clock hi

theorem SamePicture.congr {s' t' : State} (h1 : s'.seat i = s.seat i) (h2 : s'.roster = s.roster) (h3 : t'.seat i = t.seat i)
    (h4 : t'.roster = t.roster) : SamePicture s' t' i ↔ SamePicture s t i := by
  rw [← picture_eq_iff, ← picture_eq_iff]
  unfold State.picture
  rw [h1, h2, h3, h4]

/-- A publication by an order, told of the states before and after the order. -/
theorem PublishedOne.order {v : State} (h : PublishedOne t v u i) (he : Entered s t w o) (hf : Finishes s u f w code a b p)
    (hv : v.orderRequest = none) : publishedIfChanged s f i (orderWrite f i) := by
  have hs : SamePicture s f i ↔ SamePicture t u i := SamePicture.congr (he.seat i).symm he.roster.symm (hf.seat i) hf.roster
  have hw := hf.write (i := i) (h.request.trans hv)
  have hp := h.published
  unfold publishedIfChanged at hp ⊢
  rw [hs, hf.seat, hf.boardWrites, hw, ← he.seat i, ← he.boardWrites, ← he.clock]
  exact hp

/-- An order of one event whose slot alone is read: the state in which it works, and its answer written there. -/
theorem order_works {kind : Word} {work : Slot → State → State × OrderEnd} (h : s.OrderInHand w o) (hm : s.memoryLaw) (hl : s.layoutSound)
    (hk : o.kind = kind) (hs : simpleKind kind) : ∃ t, Works s t w o
      ∧ workOrder kind work s = (work o t).1.finishOrder { w with begun := true } (work o t).2 :=
  have hw := works_simple h hm hl (hk ▸ hs)
  ⟨_, hw, workOrder_inHand h hk hw.entered⟩

/-- An order that answers and changes nothing. -/
theorem answers_order {work : Slot → State → State × OrderEnd} {c : Instr} (h : s.OrderInHand w o) (hl : s.layoutSound)
    (he : Entered s t w o) (hc : exec c s = .next ((work o t).1.finishOrder { w with begun := true } (work o t).2))
    (hu : work o t = (t, { code := code, a := a, b := b })) : ∃ t, exec c s = .next t ∧ answeredOnly s t w code a b :=
  ⟨_, by rw [hc, hu], answeredOnly_finish h hl he⟩

/-! SET FLOOR RULES (R126) -/

theorem writeFloorHeader_frame : s.writeFloorHeader = { s with ram := s.writeFloorHeader.ram, badParity := s.writeFloorHeader.badParity } := by
  unfold State.writeFloorHeader
  generalize rosterWords s.roster = ws
  generalize s.rulesWord = x
  have h := putWords_frame ws s hdrRoster
  generalize s.putWords hdrRoster ws = u at *
  generalize u.ram = y at *
  generalize u.badParity = z at *
  subst h; rfl

/-- The nine floor words written (R120). -/
theorem floorShown_written (hm : s.memoryLaw) : FloorShown s.writeFloorHeader ∧ wordsKept s s.writeFloorHeader floorWords := by
  have hw := wf_putWords (s := s) (a := hdrRoster) (rosterWords s.roster) hm.1
  have hlen : (rosterWords s.roster).length = 8 := by simp [rosterWords]
  have hroom : hdrRoster + (rosterWords s.roster).length ≤ ramWords := by rw [hlen]; decide
  have hread : ∀ x, s.writeFloorHeader.readWord x =
      if x = 49 then s.rulesWord else (s.putWords hdrRoster (rosterWords s.roster)).readWord x := fun x => by
    rw [State.writeFloorHeader, readWord_putWord hw]; simp [hdrRules, ramWords]
  have hf : s.writeFloorHeader.roster = s.roster ∧ s.writeFloorHeader.floorLimit = s.floorLimit
      ∧ s.writeFloorHeader.floorPolicy = s.floorPolicy := by
    rw [writeFloorHeader_frame]; exact ⟨rfl, rfl, rfl⟩
  refine ⟨⟨fun k hk => ?_, ?_⟩, fun x hx => ⟨?_, ?_⟩⟩
  · rw [hread, if_neg (by omega), readWord_putWords _ hm.1 hroom, dif_pos (by rw [hlen]; simp only [hdrRoster]; omega), hf.1]
    simp [rosterWords, hdrRoster]
  · rw [hread, if_pos rfl, hf.2.1, hf.2.2, State.rulesWord, wordOfBytes, policyCode_eq]
    congr 2
    cases s.floorPolicy <;> rfl
  · rw [hread, if_neg (fun e => hx (by rw [e]; unfold floorWords; omega)), readWord_putWords_other _ hm.1]
    rw [hlen]; unfold floorWords at hx; simp only [hdrRoster]; omega
  · rw [State.writeFloorHeader, wordBad_putWord, if_neg (fun e => hx (by rw [e.1]; unfold floorWords hdrRules; omega)), wordBad_putWords_other]
    rw [hlen]; unfold floorWords at hx; simp only [hdrRoster]; omega

theorem memoryLaw_writeFloorHeader (hm : s.memoryLaw) : s.writeFloorHeader.memoryLaw :=
  memoryLaw_putWord (memoryLaw_putWords _ hm)

theorem FloorShown.congr (h : FloorShown s) (hw : ∀ x < 256, t.readWord x = s.readWord x) (h1 : t.roster = s.roster)
    (h2 : t.floorLimit = s.floorLimit) (h3 : t.floorPolicy = s.floorPolicy) : FloorShown t :=
  ⟨fun k hk => by rw [hw _ (by omega), h1, h.members k hk], by rw [hw _ (by decide), h2, h3, h.rules]⟩

theorem clampedLimit (x : Word) : clampTo 1 8 (lowByte x) =
    if x.toNat % 256 = 0 then 1 else if 8 < x.toNat % 256 then 8 else x.toNat % 256 := by
  unfold clampTo lowByte
  by_cases h : x.toNat % 256 = 0
  · rw [if_pos (by omega), if_pos h]
  · rw [if_neg (by omega), if_neg h]

/-- The state with a new limit and a new policy. -/
def State.withRules (s : State) (limit : Nat) (policy : FloorPolicy) : State := { s with floorLimit := limit, floorPolicy := policy }

theorem setFloorRulesWork_busy (h : clampTo 1 8 (lowByte o.arg) < t.roster.length) : setFloorRulesWork o t =
    (t, { code := .floorBusy, a := word t.roster.length, b := word (clampTo 1 8 (lowByte o.arg)) }) := if_pos h

theorem setFloorRulesWork_ok (h : t.roster.length ≤ clampTo 1 8 (lowByte o.arg)) : setFloorRulesWork o t =
    ((t.withRules (clampTo 1 8 (lowByte o.arg)) (policyOf (highByte o.arg))).writeFloorHeader,
      { code := .ok, a := word (clampTo 1 8 (lowByte o.arg)), b := word (policyOf (highByte o.arg)).code }) := if_neg (Nat.not_lt.2 h)

/-- Settles O50: FLOOR_BUSY, or the new rules in the store and in the header. -/
theorem setFloorRules : Obligations.SetFloorRules := by
  unfold Obligations.SetFloorRules
  intro s w o h hk hm hl limit policy
  obtain ⟨t, ⟨he, -⟩, hwork⟩ := order_works (work := setFloorRulesWork) h hm hl hk (by decide)
  have hexec : exec .setFloorRules s = .next (workOrder kindSetFloorRules setFloorRulesWork s) := rfl
  rw [hwork] at hexec
  have hlimit : clampTo 1 8 (lowByte o.arg) = limit := clampedLimit o.arg
  refine ⟨fun hlt => ?_, fun hle => ?_⟩
  · refine answers_order h hl he hexec ?_
    rw [setFloorRulesWork_busy (by rw [hlimit, he.roster]; exact hlt), hlimit, he.roster]
  · rw [setFloorRulesWork_ok (by rw [hlimit, he.roster]; exact hle), hlimit] at hexec
    have hmv : (t.withRules limit (policyOf (highByte o.arg))).memoryLaw := he.memory
    obtain ⟨hshown, hkept⟩ := floorShown_written hmv
    have hu := writeFloorHeader_frame (s := t.withRules limit (policyOf (highByte o.arg)))
    have hmu := memoryLaw_writeFloorHeader hmv
    generalize (t.withRules limit (policyOf (highByte o.arg))).writeFloorHeader = u at *
    have hfin := finishes (code := .ok) (a := word limit) (b := word (policyOf (highByte o.arg)).code) h hl he (by rw [hu]; exact he.layout) hmu
      hkept fun x hx => by unfold floorWords at hx; omega
    generalize u.finishOrder { w with begun := true } { code := .ok, a := word limit, b := word (policyOf (highByte o.arg)).code } = f at *
    have e1 : f.floorLimit = limit := by rw [hfin.frame, hu]; rfl
    have e2 : f.floorPolicy = policyOf policy := by rw [hfin.frame, hu]; rfl
    refine ⟨f, hexec, ?_, e1, fun h0 => by rw [e2]; exact if_pos h0, fun h0 => by rw [e2]; exact if_neg h0, ?_, hfin.words, ?_⟩
    · have hb : (if policy = 0 then 0 else 1 : Word) = word (policyOf (highByte o.arg)).code := by
        show _ = word (policyOf policy).code
        unfold policyOf; split <;> rfl
      rw [hb]; exact hfin.done
    · exact hshown.congr hfin.header hfin.roster (by rw [hfin.frame]) (by rw [hfin.frame])
    · rw [e1, e2]
      conv_lhs => rw [hfin.frame, hu]
      rw [State.withRules]
      conv_lhs => rw [he.frame]
      rfl

end Sys2Proof.Machine
end

section
/-! PROOFS. The orders on one seat's monitors and estimator (O51, O52). -/
namespace Sys2Proof.Machine
open Sys2Proof

variable {s t u v f : State} {i j : Seat} {w : PageWork} {o : Slot} {code : ResultCode} {a b : Word}

/-! An order on one active seat -/

theorem onActiveSeat_out {work : Seat → State × OrderEnd} (h : s.seatOf o.seat = none) :
    onActiveSeat o s work = (s, { code := .seatRange, a := o.seat, b := 0 }) := by rw [onActiveSeat, h]; rfl
theorem onActiveSeat_inactive {work : Seat → State × OrderEnd} (h : s.seatOf o.seat = some i) (ha : (s.seat i).ctx.active = false) :
    onActiveSeat o s work = (s, { code := .seatInactive, a := o.seat, b := 0 }) := by
  rw [onActiveSeat, h]; exact if_neg (by rw [ha]; decide)
theorem onActiveSeat_active {work : Seat → State × OrderEnd} (h : s.seatOf o.seat = some i) (ha : (s.seat i).ctx.active = true) :
    onActiveSeat o s work = work i := by rw [onActiveSeat, h]; exact if_pos ha

/-- What an order leaves that changes one seat to `x` and publishes it if that made a visible change. -/
structure SeatOrder (s f : State) (w : PageWork) (i : Seat) (x : SeatState) (a b : Word) : Prop where
  done : OrderDone s f w .ok a b
  published : publishedIfChanged s f i (orderWrite f i)
  seat : f.seat i = { x with board := (f.seat i).board }
  others : seatsKept s f (· = i)
  words : wordsKept s f (slotWords s w)
  frame : f = { s with
    seats := f.seats, boardWrites := f.boardWrites, worked := f.worked, lift := none, reads := [], ram := f.ram, badParity := f.badParity }

theorem seatOrder (h : s.OrderInHand w o) (hl : s.layoutSound) (hw : Works s t w o) (hi : s.publishes i = true)
    (hv : v = { t with seats := v.seats }) (hb : (v.seat i).board = (t.seat i).board) (hk : (v.seat i).ctx = (t.seat i).ctx)
    (ho : seatsKept t v (· = i)) :
    SeatOrder s ((publishVisible t v [i]).finishOrder { w with begun := true } { code := .ok, a := a, b := b }) w i (v.seat i) a b := by
  obtain ⟨he, hidle⟩ := hw
  have hvi : v.orderRequest = none := by
    refine (orderRequest_congr (s := t) (by rw [hv]) (by rw [hv]) (fun p => by rw [hv]; cases p <;> rfl) (by rw [hv]) (by rw [hv])
      (by rw [hv]) (by rw [hv]) fun j => ?_).trans hidle
    by_cases hj : j = i
    · rw [hj, hk]
    · rw [ho j hj]
  have hp : v.publishes i = true := (publishes_congr (by rw [hv]) (by rw [hv])).trans ((he.publishes i).trans hi)
  have hone := publishedOne (s := t) hp hb (by rw [hv]) (by rw [hv])
  generalize publishVisible t v [i] = u at *
  have hu : u = { t with seats := u.seats, boardWrites := u.boardWrites } := by
    conv_lhs => rw [hone.frame, hv]
  have hfin := finishes (u := u) (code := .ok) (a := a) (b := b) (p := fun _ => False) h hl he (by rw [hu]; exact he.layout)
    (by rw [hu]; exact he.memory) (by rw [hu]; exact fun _ _ => ⟨rfl, rfl⟩) fun _ h => h.elim
  generalize u.finishOrder { w with begun := true } { code := .ok, a := a, b := b } = f at *
  refine ⟨hfin.done, hone.order he hfin hvi, by rw [hfin.seat]; exact hone.seat, fun j hj => ?_, hfin.only, ?_⟩
  · rw [hfin.seat, hone.others j hj, ho j hj, he.seat]
  · rw [hfin.seats, hfin.boardWrites]
    conv_lhs => rw [hfin.frame, hu, he.frame]

/-! Acknowledgement and reset (R76, R77, R79) -/

theorem acknowledged_spec (m : Monitor) : Acknowledged m (acknowledged m) := by
  constructor
  · rintro (h | h | h) <;> simp [acknowledged, h]
  all_goals intro h; simp [acknowledged, h]

theorem ackChanged_iff (m m' : Monitor) : ackChanged m m' = true ↔ acked m m' := by
  simp only [ackChanged, acked, Bool.or_eq_true, bne_iff_ne, or_assoc]
  exact or_congr ne_comm (or_congr ne_comm ne_comm)

theorem getElem_ackMonitors (mask : Byte) (ms : Vector Monitor 8) (c : Fin 8) :
    (ackMonitors mask ms)[c] = if mask.getLsbD c.val then acknowledged ms[c] else ms[c] := by
  simp [ackMonitors]

/-- A mask of as many flags is below that power of 2. -/
theorem maskOf_lt (bs : List Bool) : maskOf bs < 2 ^ bs.length := by
  induction bs with
  | nil => decide
  | cons b bs ih =>
    rw [List.length_cons, Nat.pow_succ]
    cases b <;> simp only [maskOf, bit] <;> simp <;> omega

/-- The word of an eight-flag mask. -/
theorem maskWord {bs : List Bool} (h : bs.length = 8) : (word (maskOf bs)).toNat < 256
    ∧ ∀ c : Fin 8, (word (maskOf bs)).getLsbD c.val = (bs[c.val]?).getD false := by
  have hlt := maskOf_lt bs
  rw [h] at hlt
  have hw : (word (maskOf bs)).toNat = maskOf bs := by simp only [word, BitVec.toNat_ofNat]; omega
  exact ⟨by rw [hw]; exact hlt, fun c => by rw [BitVec.getLsbD, hw, maskOf_testBit]⟩

theorem changedMask_spec (x y : Vector Monitor 8) : (word (changedMask x y)).toNat < 256
    ∧ ∀ c : Fin 8, (word (changedMask x y)).getLsbD c.val = true ↔ acked x[c] y[c] := by
  obtain ⟨h1, h2⟩ := maskWord (bs := (x.toList.zip y.toList).map fun p => ackChanged p.1 p.2) (by simp)
  refine ⟨h1, fun c => ?_⟩
  rw [changedMask, h2, ← ackChanged_iff]
  simp

theorem standingMask_spec (x : Vector Monitor 8) : (word (standingMask x)).toNat < 256
    ∧ ∀ c : Fin 8, (word (standingMask x)).getLsbD c.val = true ↔ x[c] ≠ clearMonitor := by
  obtain ⟨h1, h2⟩ := maskWord (bs := x.toList.map fun m => m != clearMonitor) (by simp)
  refine ⟨h1, fun c => ?_⟩
  rw [standingMask, h2]
  simp

theorem setMonitors_kept (x : Vector Monitor 8) : seatsKept t (t.setMonitors i x) (· = i) := fun j hj => by
  rw [seat_setMonitors, if_neg hj]

theorem mask_bit (o : Slot) (c : Fin 8) : o.mask.getLsbD c.val = o.arg.getLsbD c.val := mask_getLsbD o c

/-- An order on an active seat that changes its monitors alone. -/
theorem monitorsOrder (h : s.OrderInHand w o) (hl : s.layoutSound) (hw : Works s t w o) (hi : s.publishes i = true) (x : Vector Monitor 8) :
    let f := (publishVisible t (t.setMonitors i x) [i]).finishOrder { w with begun := true } { code := .ok, a := a, b := b }
    SeatOrder s f w i { s.seat i with monitors := x } a b := by
  have hx : (t.setMonitors i x).seat i = { s.seat i with monitors := x } := by rw [seat_setMonitors, if_pos rfl, hw.entered.seat]
  have := seatOrder (a := a) (b := b) h hl hw hi (v := t.setMonitors i x) rfl (by rw [hx, hw.entered.seat]) (by rw [hx, hw.entered.seat]) (setMonitors_kept x)
  rwa [hx] at this

theorem monitors_of_seatOrder {x : Vector Monitor 8} (h : SeatOrder s f w i { s.seat i with monitors := x } a b) :
    (f.seat i).monitors = x := by rw [h.seat]

/-- Settles O51: the two orders on a seat's warnings. -/
theorem warningsAcknowledgedAndReset : Obligations.WarningsAcknowledgedAndReset := by
  unfold Obligations.WarningsAcknowledgedAndReset
  intro s w o h hm hl hp done
  have finished : ∀ {f : State} {i : Seat} {x : Vector Monitor 8} {b : Word}, SeatOrder s f w i { s.seat i with monitors := x } o.seat b → done f i :=
    fun hs => ⟨hs.published, by rw [hs.seat], hs.others, hs.words, hs.frame⟩
  refine ⟨fun hk => ?_, fun hk => ?_⟩
  · obtain ⟨t, hw, hwork⟩ := order_works (work := acknowledgeWork) h hm hl hk (by decide)
    have hexec : exec .acknowledge s = .next (workOrder kindAcknowledge acknowledgeWork s) := rfl
    rw [hwork] at hexec
    refine ⟨fun hr => answers_order h hl hw.entered hexec ?_, fun i hi hs => ?_⟩
    · exact onActiveSeat_out ((hw.entered.seatOf _).trans (seatOf_out hr))
    have hseat : t.seatOf o.seat = some i := (hw.entered.seatOf _).trans (seatOf_named hi hs)
    refine ⟨fun ha => answers_order h hl hw.entered hexec ?_, fun ha => ?_⟩
    · exact onActiveSeat_inactive hseat (by rw [hw.entered.seat]; exact ha)
    · have hdo : acknowledgeWork o t = _ := onActiveSeat_active hseat (by rw [hw.entered.seat]; exact ha)
      rw [hdo] at hexec
      have hs := monitorsOrder (a := o.seat) (b := word (t.acknowledgeMask i o.mask)) h hl hw (publishes_iff.2 ⟨hi, hp⟩) (ackMonitors o.mask (t.seat i).monitors)
      obtain ⟨h1, h2⟩ := changedMask_spec (t.seat i).monitors (ackMonitors o.mask (t.seat i).monitors)
      have hmon := monitors_of_seatOrder hs
      rw [hw.entered.seat] at h2 hmon hs h1
      have hmask : t.acknowledgeMask i o.mask = changedMask (s.seat i).monitors (ackMonitors o.mask (s.seat i).monitors) := by
        rw [State.acknowledgeMask, hw.entered.seat]
      rw [State.acknowledgeSeat, hw.entered.seat] at hexec
      dsimp only at hexec
      rw [hmask] at hexec hs hmon
      generalize State.finishOrder _ _ _ = f at hexec hs hmon
      refine ⟨f, _, hexec, hs.done, h1, fun c hc => ?_, fun c hc => ?_, fun c => ?_, finished hs⟩
      · rw [hmon, getElem_ackMonitors, if_pos ((mask_bit o c).trans hc)]; exact acknowledged_spec _
      · rw [hmon, getElem_ackMonitors, if_neg (by rw [mask_bit, hc]; decide)]
      · rw [hmon, ← h2]
  · obtain ⟨t, hw, hwork⟩ := order_works (work := resetWarningsWork) h hm hl hk (by decide)
    have hexec : exec .resetWarnings s = .next (workOrder kindResetWarnings resetWarningsWork s) := rfl
    rw [hwork] at hexec
    refine ⟨fun hr => answers_order h hl hw.entered hexec ?_, fun i hi hs => ?_⟩
    · exact onActiveSeat_out ((hw.entered.seatOf _).trans (seatOf_out hr))
    have hseat : t.seatOf o.seat = some i := (hw.entered.seatOf _).trans (seatOf_named hi hs)
    have hdo : (s.seat i).ctx.active = true → resetWarningsWork o t = _ := fun ha => onActiveSeat_active hseat (by rw [hw.entered.seat]; exact ha)
    refine ⟨fun ha => answers_order h hl hw.entered hexec ?_, fun ha hlk hlift => answers_order h hl hw.entered hexec ?_, fun ha hfree => ?_⟩
    · exact onActiveSeat_inactive hseat (by rw [hw.entered.seat]; exact ha)
    · exact (hdo ha).trans (if_pos ((hw.entered.lockedUnlifted i).trans (lockedUnlifted_iff.2 ⟨hlk, hlift⟩)))
    · have hno : ¬ t.lockedUnlifted i = true := by rw [hw.entered.lockedUnlifted, lockedUnlifted_eq_false hfree]; decide
      rw [(hdo ha).trans (if_neg hno)] at hexec
      have hs := monitorsOrder (a := o.seat) (b := word (standingMask (t.seat i).monitors)) h hl hw (publishes_iff.2 ⟨hi, hp⟩) (Vector.replicate 8 clearMonitor)
      obtain ⟨h1, h2⟩ := standingMask_spec (t.seat i).monitors
      have hmon := monitors_of_seatOrder hs
      rw [hw.entered.seat] at h2 h1 hexec hs hmon
      dsimp only [State.clearMonitors] at hexec
      generalize State.finishOrder _ _ _ = f at hexec hs hmon
      refine ⟨f, _, hexec, hs.done, h1, fun c => ?_, h2, finished hs⟩
      rw [hmon]; simp

/-! RESTART ESTIMATOR (R104, R105, R107) -/

theorem seatGeneration_entered (h : Entered s t w o) : t.seatGeneration i = s.seatGeneration i := by
  rw [h.frame]; rfl

theorem getElem_clearedBattery (x : Vector Monitor 8) (c : Fin 8) : ((x.set condLow clearMonitor).set condCritical clearMonitor)[c] =
    if c = condLow ∨ c = condCritical then clearMonitor else x[c] := by
  simp only [Fin.getElem_fin, Vector.getElem_set, Fin.ext_iff, condLow, condCritical]
  by_cases h4 : c.val = 4
  · simp [h4]
  · by_cases h3 : c.val = 3
    · simp [h3]
    · simp [h3, h4, Ne.symm h3, Ne.symm h4]

/-- Settles O52: the estimator restarted, and its two monitors clear. -/
theorem restartEstimator : Obligations.RestartEstimator := by
  unfold Obligations.RestartEstimator
  intro s w o h hk hm hl hp
  obtain ⟨t, hw, hwork⟩ := order_works (work := restartEstimatorWork) h hm hl hk (by decide)
  have hexec : exec .restartEstimator s = .next (workOrder kindRestartEstimator restartEstimatorWork s) := rfl
  rw [hwork] at hexec
  refine ⟨fun hr => answers_order h hl hw.entered hexec ?_, fun i hi hs => ?_⟩
  · exact onActiveSeat_out ((hw.entered.seatOf _).trans (seatOf_out hr))
  have hseat : t.seatOf o.seat = some i := (hw.entered.seatOf _).trans (seatOf_named hi hs)
  refine ⟨fun ha => answers_order h hl hw.entered hexec ?_, fun ha => ?_⟩
  · exact onActiveSeat_inactive hseat (by rw [hw.entered.seat]; exact ha)
  · have hdo : restartEstimatorWork o t = _ := onActiveSeat_active hseat (by rw [hw.entered.seat]; exact ha)
    rw [hdo] at hexec
    have hx : (t.restartEstimator i).seat i = _ := seat_restartEstimator.trans (if_pos rfl)
    have hs := seatOrder (a := o.seat) (b := word (t.seat i).estimator.status.code) h hl hw (publishes_iff.2 ⟨hi, hp⟩)
      (v := t.restartEstimator i) rfl (by rw [hx]) (by rw [hx]) fun j hj => by rw [seat_restartEstimator, if_neg hj]
    rw [hx, hw.entered.seat, seatGeneration_entered hw.entered] at hs
    rw [hw.entered.seat] at hexec
    dsimp only at hexec
    generalize State.finishOrder _ _ _ = f at hexec hs
    have hseat := hs.seat
    have hdone := hs.done
    rw [statusCode_eq] at hdone
    refine ⟨f, hexec, hdone, ?_, fun c => ?_, hs.published, ?_, hs.others, hs.words, hs.frame⟩
    · rw [hseat]; rfl
    · rw [hseat]; exact getElem_clearedBattery _ c
    · rw [hseat]

end Sys2Proof.Machine
end

section
/-! PROOFS. The orders that leave more than an answer to the unit: LIFT LOCK (O46) and the start of a bulk order (O56). -/
namespace Sys2Proof.Machine
open Sys2Proof

variable {s t u v f : State} {i j : Seat} {w : PageWork} {o : Slot} {e : OrderEnd}

/-- A slot finished on the state that its entry left. -/
structure Answered (s f : State) (w : PageWork) (e : OrderEnd) : Prop where
  result : f.readWord (s.layout.slotAddr w.page w.slot + 3) = resultWord e.code
  detailA : f.readWord (s.layout.slotAddr w.page w.slot + 4) = e.a
  detailB : f.readWord (s.layout.slotAddr w.page w.slot + 5) = e.b
  worked : f.worked = some { w with
    slot := w.slot + 1, begun := false, refusals := w.refusals || !e.code.success, bound := e.bound, bulk := none, ending := e.ending }
  lift : f.lift = e.lift
  words : wordsKept s f (slotWords s w)
  frame : f = { s with worked := f.worked, lift := f.lift, reads := [], ram := f.ram, badParity := f.badParity }

theorem answered (h : s.OrderInHand w o) (hl : s.layoutSound) (he : Entered s t w o) :
    Answered s (t.finishOrder { w with begun := true } e) w e := by
  obtain ⟨hframe, h3, h4, h5, -, -⟩ := finishOrder_spec (u := t) (w := { w with begun := true }) (e := e) he.memory
    (by rw [he.layout]; exact pageBase_le hl w.page) (OrderInHand.slot_lt h).2
  have hwords := wordsKept_finish (e := e) (p := fun _ => False) h hl he he.layout he.memory fun _ _ => ⟨rfl, rfl⟩
  rw [he.layout] at h3 h4 h5
  refine ⟨h3.trans (word_resultCode _), h4, h5, by rw [hframe], by rw [hframe], fun x hx => hwords x fun hc => hc.elim hx id, ?_⟩
  generalize t.finishOrder { w with begun := true } e = f at *
  have h1 : f.lift = e.lift := by rw [hframe]
  have h2 : f.worked = some { w with
    slot := w.slot + 1, begun := false, refusals := w.refusals || !e.code.success, bound := e.bound, bulk := none, ending := e.ending } := by rw [hframe]
  rw [h1, h2]
  conv_lhs => rw [hframe, he.frame]

/-- An order whose slot alone is read, worked by `work`. -/
theorem slot_works {kind : Word} {work : PageWork → Slot → State → State × Option OrderEnd} (h : s.OrderInHand w o) (hm : s.memoryLaw)
    (hl : s.layoutSound) (hk : o.kind = kind) (hs : simpleKind kind) : ∃ t, Works s t w o
      ∧ ∀ u, (∀ e, work { w with begun := true } o t = (u, some e) → workSlot (· == kind) work s = u.finishOrder { w with begun := true } e)
        ∧ (work { w with begun := true } o t = (u, none) → workSlot (· == kind) work s = u) := by
  have hw := works_simple h hm hl (hk ▸ hs)
  have hwork := workSlot_inHand (takes := (· == kind)) (work := work) h (by simp [hk]) hw.entered
  exact ⟨_, hw, fun u => ⟨fun e hu => by rw [hwork, hu], fun hu => by rw [hwork, hu]⟩⟩

/-! LIFT LOCK (R152) -/

theorem liftLockWork_last (h : w.count ≤ w.slot + 1) : liftLockWork w o t = (t, some { code := .sequenceFault, a := o.seat, ending := some .sequenceFault }) :=
  if_pos h
theorem liftLockWork_out (h : w.slot + 1 < w.count) (hs : t.seatOf o.seat = none) :
    liftLockWork w o t = (t, some { code := .seatRange, a := o.seat, bound := some o.seat }) := by
  rw [liftLockWork, if_neg (Nat.not_le.2 h), hs]
theorem liftLockWork_free (h : w.slot + 1 < w.count) (hs : t.seatOf o.seat = some i) (hk : (t.seat i).ctx.locked = false) :
    liftLockWork w o t = (t, some { code := .notLocked, a := o.seat, bound := some o.seat }) := by
  rw [liftLockWork, if_neg (Nat.not_le.2 h), hs]; exact if_neg (by rw [hk]; decide)
theorem liftLockWork_locked (h : w.slot + 1 < w.count) (hs : t.seatOf o.seat = some i) (hk : (t.seat i).ctx.locked = true) :
    liftLockWork w o t = (t, some { code := .ok, a := o.seat, lift := some i, bound := some o.seat }) := by
  rw [liftLockWork, if_neg (Nat.not_le.2 h), hs]; exact if_pos hk

/-- Settles O46: LIFT LOCK by its place in the page, its seat and the seat's lock. -/
theorem liftLockBindsNextSlot : Obligations.LiftLockBindsNextSlot := by
  unfold Obligations.LiftLockBindsNextSlot
  intro s w o h hk hm hl ends
  obtain ⟨t, ⟨he, -⟩, hwork⟩ := slot_works (work := liftLockWork) h hm hl hk (by decide)
  have hexec : exec .liftLock s = .next (workSlot (· == kindLiftLock) liftLockWork s) := rfl
  have answer : ∀ (code : ResultCode) lift bound ending,
      liftLockWork { w with begun := true } o t = (t, some { code := code, a := o.seat, ending := ending, lift := lift, bound := bound }) →
        ends code lift bound ending := fun code lift bound ending hu => by
    have ha := answered (e := { code := code, a := o.seat, ending := ending, lift := lift, bound := bound }) h hl he
    exact ⟨_, by rw [hexec, (hwork t).1 _ hu], ha.result, ha.detailA, ha.detailB, ha.lift, ha.worked, ha.words, ha.frame⟩
  have hlt := (OrderInHand.slot_lt h).1
  refine ⟨fun hs => answer _ _ _ _ (liftLockWork_last (by show w.count ≤ w.slot + 1; omega)), fun hs => ⟨fun hr => ?_, fun i hi hseat => ?_⟩⟩
  · exact answer _ _ _ _ (liftLockWork_out hs ((he.seatOf _).trans (seatOf_out hr)))
  · have hof := (he.seatOf _).trans (seatOf_named hi hseat)
    exact ⟨fun hlk => answer _ _ _ _ (liftLockWork_free hs hof (by rw [he.seat]; exact hlk)),
      fun hlk => answer _ _ _ _ (liftLockWork_locked hs hof (by rw [he.seat]; exact hlk))⟩

/-! Bulk orders (R16, R78, R149, R151) -/

/-- A bulk order before its first slice. -/
structure Begun (s f : State) (w : PageWork) (b : Bulk) : Prop where
  worked : f.worked = some { w with begun := true, bulk := some b, bound := none }
  progress : w.begun = false → f.readWord (s.layout.progressAddr w.page) = word w.slot
  words : wordsKept s f (· = s.layout.progressAddr w.page)
  frame : f = { s with worked := f.worked, reads := [], ram := f.ram, badParity := f.badParity }

theorem begun_startBulk (he : Entered s t w o) (b : Bulk) : Begun s (t.startBulk { w with begun := true } b) w b where
  worked := rfl
  progress h := he.progress h
  words x hx := he.kept x fun h => hx h.1
  frame := by
    unfold State.startBulk
    conv_lhs => rw [he.frame]

theorem sliceEnd_newBulk (kind : BulkKind) (m n : Nat) : (newBulk kind m n).sliceEnd = if m + 16 ≤ n then m + 16 else n := by
  show min (m + 16) n = _
  rw [Nat.min_def]

theorem loadRangeWork_nested (h : t.suspended.isSome = true) : loadRangeWork w o t = (t, some { code := .nestedBulk }) := if_pos h
theorem loadRangeWork_out (h : ¬ t.suspended.isSome = true)
    (hc : o.arg.toNat = 0 ∨ 255 < o.arg.toNat ∨ t.layout.seatCount < o.seat.toNat + o.arg.toNat) :
    loadRangeWork w o t = (t, some { code := .seatRange }) := (if_neg h).trans (if_pos hc)
theorem loadRangeWork_ok (h : ¬ t.suspended.isSome = true)
    (hc : ¬ (o.arg.toNat = 0 ∨ 255 < o.arg.toNat ∨ t.layout.seatCount < o.seat.toNat + o.arg.toNat)) :
    loadRangeWork w o t = (t.startBulk w (newBulk .loadRange o.seat.toNat (o.seat.toNat + o.arg.toNat)), none) := (if_neg h).trans (if_neg hc)
theorem acknowledgeAllWork_nested (h : t.suspended.isSome = true) : acknowledgeAllWork w o t = (t, some { code := .nestedBulk }) := if_pos h
theorem acknowledgeAllWork_ok (h : ¬ t.suspended.isSome = true) :
    acknowledgeAllWork w o t = (t.startBulk w (newBulk (.ackAll o.mask) 0 t.layout.seatCount), none) := if_neg h

/-- Settles O56: the two bulk orders, refused or begun. -/
theorem bulkOrdersStart : Obligations.BulkOrdersStart := by
  unfold Obligations.BulkOrdersStart
  intro s w o c h hm hl hc operandsFit
  rcases hc with ⟨rfl, hk⟩ | ⟨rfl, hk⟩
  · obtain ⟨t, ⟨he, -⟩, hwork⟩ := slot_works (work := loadRangeWork) h hm hl hk (by decide)
    have hexec : exec .loadRange s = .next (workSlot (· == kindLoadRange) loadRangeWork s) := rfl
    have hfit : operandsFit ↔ ¬ (o.arg.toNat = 0 ∨ 255 < o.arg.toNat ∨ t.layout.seatCount < o.seat.toNat + o.arg.toNat) := by
      rw [he.layout]
      exact ⟨fun hf => by have := hf rfl; omega, fun hn _ => by omega⟩
    have hsus := he.suspended
    refine ⟨fun hn => ?_, fun hn hf => ?_, fun hn hf => ?_⟩
    · exact ⟨_, by rw [hexec, (hwork t).1 _ (loadRangeWork_nested (by rw [hsus]; exact hn))], answeredOnly_finish h hl he⟩
    · exact ⟨_, by rw [hexec, (hwork t).1 _ (loadRangeWork_out (by rw [hsus, hn]; decide) (not_not.1 (mt hfit.2 hf)))], answeredOnly_finish h hl he⟩
    · have hb := begun_startBulk he (newBulk .loadRange o.seat.toNat (o.seat.toNat + o.arg.toNat))
      exact ⟨_, _, by rw [hexec, (hwork _).2 (loadRangeWork_ok (by rw [hsus, hn]; decide) (hfit.1 hf))], hb.worked, rfl, rfl, sliceEnd_newBulk _ _ _,
        rfl, rfl, rfl, rfl, fun _ => ⟨rfl, rfl, rfl⟩, fun hc => (nomatch hc), hb.progress, hb.words, hb.frame⟩
  · obtain ⟨t, ⟨he, -⟩, hwork⟩ := slot_works (work := acknowledgeAllWork) h hm hl hk (by decide)
    have hexec : exec .acknowledgeAll s = .next (workSlot (· == kindAcknowledgeAll) acknowledgeAllWork s) := rfl
    have hfit : operandsFit := fun hc => nomatch hc
    have hsus := he.suspended
    refine ⟨fun hn => ?_, fun hn hf => absurd hfit hf, fun hn _ => ?_⟩
    · exact ⟨_, by rw [hexec, (hwork t).1 _ (acknowledgeAllWork_nested (by rw [hsus]; exact hn))], answeredOnly_finish h hl he⟩
    · have hb := begun_startBulk he (newBulk (.ackAll o.mask) 0 t.layout.seatCount)
      exact ⟨_, _, by rw [hexec, (hwork _).2 (acknowledgeAllWork_ok (by rw [hsus, hn]; decide))], hb.worked, rfl, rfl, sliceEnd_newBulk _ _ _,
        rfl, rfl, rfl, rfl, fun hc => (nomatch hc), fun _ => ⟨rfl, rfl, congrArg Layout.seatCount he.layout⟩, hb.progress, hb.words, hb.frame⟩

end Sys2Proof.Machine
end

section
/-! PROOFS. Readings with bad parity, and the slots that fault (O44, O45). -/
namespace Sys2Proof.Machine
open Sys2Proof

variable {s t u v f : State} {w : PageWork} {o : Slot} {e : OrderEnd} {rs : List ReadWord} {addr : Nat → Nat} {k n : Nat}

/-! Readings (R6, R146, R173) -/

/-- What a reading that has `rs` has of its k-th word: what it read, or the word as it stands. -/
def State.readsAs (s : State) (rs : List ReadWord) (addr : Nat → Nat) (k : Nat) : ReadWord := (rs[k]?).getD (s.look (addr k))

theorem readsAs_read (h : k < rs.length) : s.readsAs rs addr k = rs[k] := by simp [State.readsAs, h]
theorem readsAs_stands (h : rs.length ≤ k) : s.readsAs rs addr k = s.look (addr k) := by
  rw [State.readsAs, List.getElem?_eq_none h]; rfl

/-- The words of a reading that has gone on through n more. -/
theorem getElem?_looks (h : k < rs.length + n) : (rs ++ s.looks addr rs.length n)[k]? = some (s.readsAs rs addr k) := by
  by_cases hk : k < rs.length
  · rw [List.getElem?_append_left hk, readsAs_read hk, List.getElem?_eq_getElem hk]
  · rw [List.getElem?_append_right (by omega), readsAs_stands (by omega)]
    simp only [State.looks, List.getElem?_map]
    rw [List.getElem?_range' (by omega)]
    simp only [Option.map_some]; congr 3; omega

/-- The first bad word of a reading. -/
theorem firstBadRead_at {r : ReadWord} (hk : rs[k]? = some r) (hb : r.bad = true) (hg : ∀ j < k, ∀ x, rs[j]? = some x → x.bad = false) :
    firstBadRead rs = some r := by
  obtain ⟨hlt, rfl⟩ := List.getElem?_eq_some_iff.1 hk
  refine List.find?_eq_some_iff_getElem.2 ⟨hb, k, hlt, rfl, fun j hj => ?_⟩
  have := hg j hj _ (List.getElem?_eq_getElem (by omega))
  simpa using this

theorem firstBadRead_none_of (h : ∀ j < rs.length, ∀ x, rs[j]? = some x → x.bad = false) : firstBadRead rs = none :=
  firstBadRead_eq_none.2 fun r hr => by
    obtain ⟨j, hj, rfl⟩ := List.mem_iff_getElem.1 hr
    exact h j hj _ (List.getElem?_eq_getElem hj)

/-- A reading without a bad word through n more of its words. -/
theorem firstBadRead_looks (h : ∀ j < rs.length + n, (s.readsAs rs addr j).bad = false) : firstBadRead (rs ++ s.looks addr rs.length n) = none :=
  firstBadRead_none_of fun j hj x hx => by
    rw [List.length_append, length_looks] at hj
    rw [getElem?_looks hj] at hx
    cases hx; exact h j hj

theorem readOne_bad {a : Nat} (h : s.wordBad a = true) : s.readOne a = { s.recordFault a .parity with reads := s.reads ++ [s.look a] } := by
  unfold State.readOne State.readChecked
  rw [if_pos h]

/-- A reading that meets its first bad word records the fault there and ends. -/
theorem readOn_bad {next : List ReadWord → Option Nat} (m : Nat) (hk : rs.length ≤ k)
    (hn : ∀ j, rs.length + j ≤ k → next (rs ++ s.looks addr rs.length j) = some (addr (rs.length + j)))
    (hg : ∀ j < k, (s.readsAs rs addr j).bad = false) (hb : (s.readsAs rs addr k).bad = true)
    (hover : ∀ l, (firstBadRead l).isSome = true → next l = none) :
    State.readOn next (k - rs.length + (m + 1)) { s with reads := rs }
      = { s.recordFault (addr k) .parity with reads := rs ++ s.looks addr rs.length (k - rs.length + 1) } := by
  have hbad : s.wordBad (addr k) = true := by rw [readsAs_stands hk] at hb; exact hb
  have hlast : rs ++ s.looks addr rs.length (k - rs.length + 1) = rs ++ s.looks addr rs.length (k - rs.length) ++ [s.look (addr k)] := by
    rw [looks_succ, List.append_assoc, Nat.add_sub_cancel' hk]
  have hfirst : (firstBadRead (rs ++ s.looks addr rs.length (k - rs.length + 1))).isSome = true := by
    rw [firstBadRead_at (k := k) (getElem?_looks (by omega)) hb fun j hj x hx => ?_]
    · rfl
    · rw [getElem?_looks (by omega)] at hx
      cases hx; exact hg j hj
  rw [readOn_good addr (m + 1) (k - rs.length) rs (fun j hj => hn j (by omega)) fun j hj => ?_]
  · have hnext : next (rs ++ s.looks addr rs.length (k - rs.length)) = some (addr k) := by
      rw [hn (k - rs.length) (by omega), Nat.add_sub_cancel' hk]
    simp only [State.readOn, hnext]
    rw [readOne_bad (by exact hbad)]
    have hl := hover _ hfirst
    rw [hlast] at hl ⊢
    exact readOn_over (by exact hl) m
  · have := hg (rs.length + j) (by omega)
    rw [readsAs_stands (by omega)] at this
    exact this

/-! A slot entered, with what its reading recorded -/

/-- The words that the reading in progress of the slot in hand has. -/
def State.slotReads (s : State) (w : PageWork) : List ReadWord := if w.begun then s.reads else []

theorem orderRead_eq {a : Nat} : s.orderRead w k a = ((s.slotReads w)[k]?).getD (s.look a) := by
  unfold State.orderRead State.slotReads
  split
  · next r h => rw [h]; rfl
  · next h => rw [h]; rfl

theorem slotRead_orderRead : s.slotRead w k = s.orderRead w k (s.layout.slotAddr w.page w.slot + k) := rfl

/-- A slot entered: it has begun, and its reading changed what it read, the latch and the causes. -/
structure Opened (s t : State) (w : PageWork) : Prop where
  frame : t = { s with
    ram := t.ram, badParity := t.badParity, worked := some { w with begun := true }, reads := t.reads, faultLatch := t.faultLatch, causes := t.causes }
  progress : w.begun = false → t.readWord (s.layout.progressAddr w.page) = word w.slot
  kept : wordsKept s t (fun a => a = s.layout.progressAddr w.page ∧ w.begun = false)
  memory : t.memoryLaw

theorem beginSlot_opened (hw : s.worked = some w) (hm : s.memoryLaw) (hl : s.layoutSound) (L : List ReadWord) :
    Opened s { s.beginSlot w with reads := L } w ∧ (s.beginSlot w).faultLatch = s.faultLatch ∧ (s.beginSlot w).causes = s.causes
      ∧ (s.beginSlot w).reads = s.slotReads w := by
  obtain ⟨e1, e2, e3, e4, e5⟩ := beginSlot_spec hw hm (pageBase_le hl w.page)
  generalize s.beginSlot w = u at *
  refine ⟨⟨?_, e3, e4, e5⟩, by rw [e1], by rw [e1], e2⟩
  rw [e1]

theorem Opened.recorded (h : Opened s t w) (L : List ReadWord) (a : Nat) : Opened s { t.recordFault a .parity with reads := L } w := by
  have keep : ∀ x y z, ({ t with reads := x, faultLatch := y, causes := z } : State) = { s with
      ram := t.ram, badParity := t.badParity, worked := some { w with begun := true }, reads := x, faultLatch := y, causes := z } := fun _ _ _ => by
    conv_lhs => rw [h.frame]
  exact ⟨keep _ _ _, h.progress, h.kept, h.memory⟩

/-- What is told of the latch and the causes alone. -/
theorem FaultReported.congr {s' t' : State} {a : Nat} {x : FaultKind} (h : FaultReported s t a x) (h1 : s'.faultLatch = s.faultLatch)
    (h2 : s'.causes = s.causes) (h3 : t'.faultLatch = t.faultLatch) (h4 : t'.causes = t.causes) : FaultReported s' t' a x := by
  have c1 : ∀ c, s'.causeSet c = s.causeSet c := fun c => by rw [State.causeSet, h2]; rfl
  have c2 : ∀ c, t'.causeSet c = t.causeSet c := fun c => by rw [State.causeSet, h4]; rfl
  refine ⟨fun h' => ?_, fun f h' => ?_, fun c hc => ?_⟩
  · rw [h3, c2]; exact h.empty (h1 ▸ h')
  · rw [h3, c2, c1]; exact h.full f (h1 ▸ h')
  · rw [c2, c1]; exact h.others c hc

/-- A slot finished on the state that its entry left, with what its reading recorded. -/
structure Closed (s t f : State) (w : PageWork) (e : OrderEnd) : Prop where
  progress : w.begun = false → f.readWord (s.layout.progressAddr w.page) = word w.slot
  result : f.readWord (s.layout.slotAddr w.page w.slot + 3) = resultWord e.code
  detailA : f.readWord (s.layout.slotAddr w.page w.slot + 4) = e.a
  detailB : f.readWord (s.layout.slotAddr w.page w.slot + 5) = e.b
  worked : f.worked = some { w with
    slot := w.slot + 1, begun := false, refusals := w.refusals || !e.code.success, bound := e.bound, bulk := none, ending := e.ending }
  words : wordsKept s f (slotWords s w)
  latch : f.faultLatch = t.faultLatch
  causes : f.causes = t.causes
  frame : f = { s with
    worked := f.worked, lift := e.lift, reads := [], ram := f.ram, badParity := f.badParity, faultLatch := f.faultLatch, causes := f.causes }

theorem closed (hr : s.slotReady w = true) (hc : w.count ≤ 32) (hl : s.layoutSound) (ho : Opened s t w) :
    Closed s t (t.finishOrder { w with begun := true } e) w e := by
  have hlay : t.layout = s.layout := by rw [ho.frame]
  have hslot : w.slot < 32 := Nat.lt_of_lt_of_le (slotReady_iff hr).2.2 hc
  obtain ⟨hframe, h3, h4, h5, h6, -⟩ := finishOrder_spec (u := t) (w := { w with begun := true }) (e := e) ho.memory
    (by rw [hlay]; exact pageBase_le hl w.page) hslot
  rw [hlay] at h3 h4 h5 h6
  have h1 : (t.finishOrder { w with begun := true } e).faultLatch = t.faultLatch := by rw [hframe]
  have h2 : (t.finishOrder { w with begun := true } e).causes = t.causes := by rw [hframe]
  refine ⟨fun hb => ?_, h3.trans (word_resultCode _), h4, h5, by rw [hframe], fun x hx => ?_, h1, h2, ?_⟩
  · rw [(h6 _ ?_).1, ho.progress hb]
    simp only [slotAddr_eq, progressAddr_eq]
    rintro ⟨k, -, -, hk⟩; omega
  · simp only [slotWords, not_or] at hx
    have a1 := h6 x hx.2
    have a2 := ho.kept x fun h => hx.1 h.1
    exact ⟨a1.1.trans a2.1, a1.2.trans a2.2⟩
  · rw [h1, h2]
    generalize t.finishOrder { w with begun := true } e = f at *
    have h7 : f.worked = some { w with
      slot := w.slot + 1, begun := false, refusals := w.refusals || !e.code.success, bound := e.bound, bulk := none, ending := e.ending } := by rw [hframe]
    rw [h7]
    conv_lhs => rw [hframe, ho.frame]

/-! The words of a slot -/

/-- The address of the k-th word that the slot in hand reads first. -/
def State.slotWordAt (s : State) (w : PageWork) (k : Nat) : Nat := s.layout.slotAddr w.page w.slot + k

theorem nextOrderRead_bad (h : (firstBadRead rs).isSome = true) : s.nextOrderRead w rs = none := if_pos h
theorem nextOrderRead_slotWord (h : firstBadRead rs = none) (hn : rs.length < 3) : s.nextOrderRead w rs = some (s.slotWordAt w rs.length) := by
  rw [State.nextOrderRead, if_neg (by rw [h]; decide), if_pos hn]; rfl

theorem beginSlot_layout (hw : s.worked = some w) (hm : s.memoryLaw) (hl : s.layoutSound) : (s.beginSlot w).layout = s.layout := by
  have h := (beginSlot_opened hw hm hl (s.beginSlot w).reads).1.frame
  show ({ s.beginSlot w with reads := (s.beginSlot w).reads } : State).layout = s.layout
  rw [h]

/-- Beginning a slot writes its progress word alone. -/
theorem look_beginSlot_other (hw : s.worked = some w) (hm : s.memoryLaw) (hl : s.layoutSound) {a : Nat} (ha : a ≠ s.layout.progressAddr w.page) :
    (s.beginSlot w).look a = s.look a := by
  have h := (beginSlot_opened hw hm hl []).1.kept a fun h => ha h.1
  unfold State.look
  rw [show (s.beginSlot w).readWord a = s.readWord a from h.1, show (s.beginSlot w).wordBad a = s.wordBad a from h.2]

theorem readsAs_slot (hw : s.worked = some w) (hm : s.memoryLaw) (hl : s.layoutSound) (hk : k < 3) :
    (s.beginSlot w).readsAs (s.slotReads w) (s.slotWordAt w) k = s.slotRead w k := by
  rw [State.readsAs, look_beginSlot_other hw hm hl, slotRead_orderRead, orderRead_eq]; rfl
  simp only [State.slotWordAt, slotAddr_eq, progressAddr_eq]; omega

/-- What the entry of a slot leaves of its reading, up to the first bad word of the slot: the reading went on to that word or had
it, and the fault is recorded there in the first case. -/
theorem enterSlot_badWord (hw : s.worked = some w) (hm : s.memoryLaw) (hl : s.layoutSound) (hp : s.part ≠ .clearing) (hk : k < 3)
    (hg : ∀ j < k, (s.slotRead w j).bad = false) (hb : (s.slotRead w k).bad = true) :
    Opened s (s.enterSlot w) w ∧ firstBadRead ((s.enterSlot w).reads.take 3) = some (s.slotRead w k)
      ∧ ((s.slotReads w).length ≤ k → FaultReported s (s.enterSlot w) (s.slotWordAt w k) .parity)
      ∧ (k < (s.slotReads w).length → (s.enterSlot w).faultLatch = s.faultLatch ∧ (s.enterSlot w).causes = s.causes) := by
  obtain ⟨ho, hlatch, hcauses, hreads⟩ := beginSlot_opened hw hm hl (s.slotReads w)
  have hself : { s.beginSlot w with reads := s.slotReads w } = s.beginSlot w := by rw [← hreads]
  have hlay := beginSlot_layout hw hm hl
  have hread : ∀ j, j ≤ k → (s.beginSlot w).readsAs (s.slotReads w) (s.slotWordAt w) j = s.slotRead w j := fun j hj =>
    readsAs_slot hw hm hl (by omega)
  have hg' : ∀ j < k, ((s.beginSlot w).readsAs (s.slotReads w) (s.slotWordAt w) j).bad = false := fun j hj => by rw [hread j (by omega)]; exact hg j hj
  have hb' : ((s.beginSlot w).readsAs (s.slotReads w) (s.slotWordAt w) k).bad = true := by rw [hread k le_rfl]; exact hb
  have first : ∀ (L : List ReadWord), (∀ j ≤ k, L[j]? = some (s.slotRead w j)) → firstBadRead (L.take 3) = some (s.slotRead w k) := fun L hL =>
    firstBadRead_at (k := k) (by rw [List.getElem?_take_of_lt hk, hL k le_rfl]) hb fun j hj x hx => by
      rw [List.getElem?_take_of_lt (by omega), hL j (by omega)] at hx
      cases hx; exact hg j hj
  unfold State.enterSlot; dsimp only
  generalize hu : s.beginSlot w = u at *
  by_cases hlen : k < (s.slotReads w).length
  · have hL : ∀ j ≤ k, (s.slotReads w)[j]? = some (s.slotRead w j) := fun j hj => by
      rw [← hread j hj, readsAs_read (by omega), List.getElem?_eq_getElem (by omega)]
    have hbad : (firstBadRead (s.slotReads w)).isSome = true := by
      rw [firstBadRead_at (hL k le_rfl) hb fun j hj x hx => by rw [hL j (by omega)] at hx; cases hx; exact hg j hj]; rfl
    rw [readOn_over (by rw [hreads]; exact nextOrderRead_bad hbad)]
    refine ⟨hself ▸ ho, ?_, fun h => absurd hlen (Nat.not_lt.2 h), fun _ => ⟨hlatch, hcauses⟩⟩
    rw [hreads]; exact first _ hL
  · have hlen' := Nat.not_lt.1 hlen
    have hrun := readOn_bad (s := u) (next := u.nextOrderRead { w with begun := true }) (3 + tableWords - (k - (s.slotReads w).length) - 1) hlen' (addr := s.slotWordAt w)
      (fun j hj => by
        rw [nextOrderRead_slotWord (firstBadRead_looks fun i hi => hg' i (by omega)) (by simp; omega)]
        simp [State.slotWordAt, hlay]) hg' hb' fun l hl => nextOrderRead_bad hl
    rw [hself, show k - (s.slotReads w).length + (3 + tableWords - (k - (s.slotReads w).length) - 1 + 1) = 3 + tableWords by
      simp only [tableWords]; omega] at hrun
    rw [hrun]
    have hou : Opened s u w := hself ▸ ho
    refine ⟨hou.recorded _ _, first _ fun j hj => ?_, fun _ => ?_, fun h => absurd h hlen⟩
    · rw [getElem?_looks (by omega), hread j hj]
    · have hpu : u.part ≠ .clearing := by rw [hou.frame]; exact hp
      exact (faultReported_recordFault hpu _ _).congr hlatch.symm hcauses.symm rfl rfl

/-- A slot whose three words are good and whose order reads no more is entered with them alone. -/
theorem enterSlot_words (hw : s.worked = some w) (hm : s.memoryLaw) (hl : s.layoutSound) (hg : ∀ j < 3, (s.slotRead w j).bad = false)
    (hn : ∀ rs : List ReadWord, rs.take 3 = [s.slotRead w 0, s.slotRead w 1, s.slotRead w 2] → ∀ u : State, u.nextOrderRead { w with begun := true } rs = none) :
    Opened s (s.enterSlot w) w ∧ (s.enterSlot w).reads.take 3 = [s.slotRead w 0, s.slotRead w 1, s.slotRead w 2]
      ∧ (s.enterSlot w).faultLatch = s.faultLatch ∧ (s.enterSlot w).causes = s.causes := by
  obtain ⟨-, hlatch, hcauses, hreads⟩ := beginSlot_opened hw hm hl []
  have ho := fun L => (beginSlot_opened hw hm hl L).1
  have hlay := beginSlot_layout hw hm hl
  have hread : ∀ j, j < 3 → (s.beginSlot w).readsAs (s.slotReads w) (s.slotWordAt w) j = s.slotRead w j := fun j hj => readsAs_slot hw hm hl hj
  have words : ∀ n, 3 ≤ (s.slotReads w).length + n → (s.slotReads w ++ (s.beginSlot w).looks (s.slotWordAt w) (s.slotReads w).length n).take 3
      = [s.slotRead w 0, s.slotRead w 1, s.slotRead w 2] := fun n h3 => by
    refine List.ext_getElem? fun j => ?_
    by_cases hj : j < 3
    · rw [List.getElem?_take_of_lt hj, getElem?_looks (by omega), hread j hj]
      match j, hj with
      | 0, _ => rfl
      | 1, _ => rfl
      | 2, _ => rfl
    · rw [List.getElem?_eq_none (by rw [List.length_take]; omega), List.getElem?_eq_none (by simp only [List.length_cons, List.length_nil]; omega)]
  unfold State.enterSlot; dsimp only
  generalize s.beginSlot w = u at *
  have hrun := readOn_good (s := u) (next := u.nextOrderRead { w with begun := true }) (s.slotWordAt w)
    (3 + tableWords - (3 - (s.slotReads w).length)) (3 - (s.slotReads w).length) (s.slotReads w)
    (fun j hj => by
      rw [nextOrderRead_slotWord (firstBadRead_looks fun i hi => by rw [hread i (by omega)]; exact hg i (by omega)) (by simp; omega)]
      simp [State.slotWordAt, hlay])
    (fun j hj => by
      have := hg ((s.slotReads w).length + j) (by omega)
      rw [← hread _ (by omega), readsAs_stands (by omega)] at this
      exact this)
  have hself : ({ u with reads := s.slotReads w } : State) = u := by rw [← hreads]
  rw [hself, show 3 - (s.slotReads w).length + (3 + tableWords - (3 - (s.slotReads w).length)) = 3 + tableWords by
    simp only [tableWords]; omega] at hrun
  have hw3 := words (3 - (s.slotReads w).length) (by omega)
  rw [hrun, readOn_over (hn _ hw3 _)]
  exact ⟨ho _, hw3, hlatch, hcauses⟩

/-! The orders that work a slot -/

/-- A command that works the slot in hand as an order of some kinds. -/
def WorksSlot (c : Instr) (takes : Word → Bool) (work : PageWork → Slot → State → State × Option OrderEnd) : Prop :=
  ∀ s, exec c s = .next (workSlot takes work s)

/-- The order commands, each with its kind (R182). -/
def orderCommands : List (Instr × Word) :=
  [(.loadSeat, 0x01#16), (.loadRange, 0x02#16), (.reloadClasses, 0x03#16), (.grantFloor, 0x10#16), (.revokeFloor, 0x11#16),
    (.clearFloor, 0x12#16), (.setFloorRules, 0x13#16), (.acknowledge, 0x20#16), (.acknowledgeAll, 0x21#16), (.resetWarnings, 0x22#16),
    (.restartEstimator, 0x30#16), (.liftLock, 0x40#16), (.clearLinkCounts, 0x50#16)]

theorem exec_orderCommand {c : Instr} {kind : Word} (h : (c, kind) ∈ orderCommands) : ∃ work, WorksSlot c (· == kind) work := by
  simp only [orderCommands, List.mem_cons, Prod.mk.injEq, List.not_mem_nil, or_false] at h
  rcases h with ⟨rfl, rfl⟩ | ⟨rfl, rfl⟩ | ⟨rfl, rfl⟩ | ⟨rfl, rfl⟩ | ⟨rfl, rfl⟩ | ⟨rfl, rfl⟩ | ⟨rfl, rfl⟩ | ⟨rfl, rfl⟩ | ⟨rfl, rfl⟩ | ⟨rfl, rfl⟩ | ⟨rfl, rfl⟩
    | ⟨rfl, rfl⟩ | ⟨rfl, rfl⟩ <;> exact ⟨_, fun _ => rfl⟩

theorem exec_unknownKind : WorksSlot .unknownOrderKind (fun k => !knownKind k) unknownKindWork := fun _ => rfl

theorem workSlot_entered {takes : Word → Bool} {work : PageWork → Slot → State → State × Option OrderEnd} (hw : s.worked = some w)
    (hr : s.slotReady w = true) (hf : s.slotFor w takes = true) : workSlot takes work s = workEntered work { w with begun := true } (s.enterSlot w) := by
  rw [workSlot, hw]; exact if_pos (by rw [hr, hf]; rfl)

theorem slotFor_kind {takes : Word → Bool} (h : takes (s.slotRead w 0).value = true) : s.slotFor w takes = true := by
  rw [State.slotFor, h]; rfl

theorem slotFor_bad {takes : Word → Bool} (hk : k < 3) (h : (s.slotRead w k).bad = true) : s.slotFor w takes = true := by
  rw [State.slotFor, List.any_eq_true.2 ⟨k, List.mem_range.2 hk, h⟩, Bool.or_true]

theorem workEntered_bad {work : PageWork → Slot → State → State × Option OrderEnd} {r : ReadWord} (h : firstBadRead (t.reads.take 3) = some r) :
    workEntered work w t = t.finishOrder w { code := .ramFault, a := word r.addr, ending := some .ramFault } := by
  rw [workEntered]; dsimp only; rw [h]

theorem workEntered_broken {work : PageWork → Slot → State → State × Option OrderEnd} (h : firstBadRead (t.reads.take 3) = none)
    (ho : slotOf (valuesOf (t.reads.take 3)) = o) (hk : knownKind o.kind = true) (hp : pairingHolds w o = false) :
    workEntered work w t = t.finishOrder w { code := .sequenceFault, a := o.kind, b := o.seat, ending := some .sequenceFault } := by
  rw [workEntered]; dsimp only; rw [h, ho]; exact if_pos (by rw [hk, hp]; rfl)

theorem workEntered_unknown (h : firstBadRead (t.reads.take 3) = none) (ho : slotOf (valuesOf (t.reads.take 3)) = o) (hk : knownKind o.kind = false) :
    workEntered unknownKindWork w t = t.finishOrder w { code := .sequenceFault, a := o.kind, ending := some .sequenceFault } := by
  rw [workEntered]; dsimp only; rw [h, ho]; exact if_neg (by rw [hk, Bool.false_and]; decide)

theorem slotReady_part (h : s.slotReady w = true) : s.part ≠ .clearing := fun hp => by
  simp [State.slotReady, hp] at h

theorem Closed.quiet (h : Closed s t f w e) (hl : t.faultLatch = s.faultLatch) (hc : t.causes = s.causes) :
    f = { s with worked := f.worked, lift := e.lift, reads := [], ram := f.ram, badParity := f.badParity } := by
  have hf := h.frame
  rw [h.latch, hl, h.causes, hc] at hf
  exact hf

/-- The order that the slot in hand spells. -/
def State.slotOrder (s : State) (w : PageWork) : Slot := ⟨(s.slotRead w 0).value, (s.slotRead w 1).value, (s.slotRead w 2).value⟩

theorem slotOrder_of_words (h : rs.take 3 = [s.slotRead w 0, s.slotRead w 1, s.slotRead w 2]) :
    3 ≤ rs.length ∧ slotOf (valuesOf (rs.take 3)) = s.slotOrder w ∧ slotOf (valuesOf rs) = s.slotOrder w := by
  have h3 : 3 ≤ rs.length := by
    have := congrArg List.length h
    rw [List.length_take, List.length_cons, List.length_cons, List.length_cons, List.length_nil] at this; omega
  have hs : slotOf (valuesOf (rs.take 3)) = s.slotOrder w := by rw [h]; rfl
  exact ⟨h3, hs, (slotOf_take h3).symm.trans hs⟩

theorem firstBadRead_words (h : rs.take 3 = [s.slotRead w 0, s.slotRead w 1, s.slotRead w 2]) (hg : ∀ j < 3, (s.slotRead w j).bad = false) :
    firstBadRead (rs.take 3) = none := by
  rw [h, firstBadRead_eq_none]
  simp only [List.mem_cons, List.not_mem_nil, or_false]
  rintro r (rfl | rfl | rfl)
  · exact hg 0 (by decide)
  · exact hg 1 (by decide)
  · exact hg 2 (by decide)

theorem nextOrderRead_broken (h3 : 3 ≤ rs.length) (h : pairingHolds w (slotOf (valuesOf rs)) = false) : s.nextOrderRead w rs = none := by
  unfold State.nextOrderRead
  split
  · rfl
  rw [if_neg (Nat.not_lt.2 h3)]; dsimp only
  rw [if_pos (by rw [h]; rfl)]

/-- Settles O44: the slot is entered with its three words, for a kind that is none of the thirteen reads no more. -/
theorem unknownKindFaultsPage : Obligations.UnknownKindFaultsPage := by
  unfold Obligations.UnknownKindFaultsPage
  intro s w o hw hr hc hkind hg hm hl hnot
  have hunknown : knownKind o.kind = false := Bool.eq_false_iff.2 fun h => hnot (List.contains_iff_mem.1 h)
  have hsimple : simpleKind o.kind := ⟨fun h => hnot (h ▸ by decide), fun h => hnot (h ▸ by decide)⟩
  obtain ⟨ho, hwords, hlatch, hcauses⟩ := enterSlot_words hw hm hl hg fun rs hrs u => by
    obtain ⟨h3, -, hs⟩ := slotOrder_of_words hrs
    exact nextOrderRead_simple h3 (by rw [hs]; show simpleKind (s.slotRead w 0).value; rw [hkind]; exact hsimple)
  obtain ⟨-, hs, -⟩ := slotOrder_of_words hwords
  have hexec := exec_unknownKind s
  rw [workSlot_entered hw hr (slotFor_kind (by rw [hkind, hunknown]; rfl)), workEntered_unknown (firstBadRead_words hwords hg) hs
    (by rw [State.slotOrder, hkind]; exact hunknown), show (s.slotOrder w).kind = o.kind from hkind] at hexec
  have hclosed := closed (e := { code := .sequenceFault, a := o.kind, ending := some .sequenceFault }) hr hc hl ho
  refine ⟨_, hexec, hclosed.result, hclosed.detailA, hclosed.detailB, ?_, hclosed.words, hclosed.quiet hlatch hcauses⟩
  rw [hclosed.worked]; simp [ResultCode.success]

/-- Settles O45: the slot's reading ends at its first bad word, or with its three words where they break a pairing. -/
theorem faultySlots : Obligations.FaultySlots := by
  unfold Obligations.FaultySlots
  intro s w c kind hw hr hc hm hl orders read ends
  have closes : ∀ {t f : State} {code : ResultCode} {a b : Word} {x : Summary}, code.success = false →
      Closed s t f w { code := code, a := a, b := b, ending := some x } → ends f code a b x := fun hcode h =>
    ⟨h.progress, h.result, h.detailA, h.detailB, by rw [h.worked, hcode]; simp, h.words, h.frame⟩
  refine ⟨fun hcmd k hk hg hb => ?_, fun hcmd hg hkind x hx hbreak => ?_⟩
  · obtain ⟨takes, work, hworks⟩ : ∃ takes work, WorksSlot c takes work := by
      rcases hcmd with rfl | hcmd
      · exact ⟨_, _, exec_unknownKind⟩
      · exact (exec_orderCommand hcmd).imp' (fun _ => (· == kind)) fun work h => ⟨work, h⟩
    obtain ⟨ho, hfirst, hread, hhad⟩ := enterSlot_badWord hw hm hl (slotReady_part hr) hk hg hb
    have hexec := hworks s
    rw [workSlot_entered hw hr (slotFor_bad hk hb), workEntered_bad hfirst] at hexec
    have hclosed := closed (e := { code := .ramFault, a := word (s.slotRead w k).addr, ending := some .ramFault }) hr hc hl ho
    refine ⟨_, hexec, closes rfl hclosed, fun h => ?_, fun hbegun hlen => ?_⟩
    · have hlen : (s.slotReads w).length ≤ k := by
        unfold State.slotReads; split
        · next h' => exact h.elim (fun h => by rw [h'] at h; cases h) id
        · exact Nat.zero_le _
      refine ⟨?_, (hread hlen).congr rfl rfl hclosed.latch hclosed.causes⟩
      show (s.slotRead w k).addr = _
      rw [slotRead_orderRead, orderRead_eq, List.getElem?_eq_none hlen]; rfl
    · obtain ⟨h1, h2⟩ := hhad (by rw [State.slotReads, if_pos hbegun]; exact hlen)
      exact ⟨hclosed.latch.trans h1, hclosed.causes.trans h2⟩
  · obtain ⟨work, hworks⟩ := exec_orderCommand hcmd
    have hpair : pairingHolds { w with begun := true } (s.slotOrder w) = false := by
      rw [pairingHolds]; dsimp only; rw [hx]
      show (liftableKind (s.slotRead w 0).value && _) = false
      rw [show (s.slotRead w 0).value = kind from hkind, Bool.and_eq_false_iff]
      rcases hbreak with h | h
      · exact .inl (by simpa [liftableKind, not_or, and_assoc] using h)
      · exact .inr (beq_eq_false_iff_ne.2 h)
    have hknown : knownKind kind = true := by
      have h : kind ∈ orderCommands.map Prod.snd := List.mem_map_of_mem (f := Prod.snd) hcmd
      exact List.contains_iff_mem.2 h
    obtain ⟨ho, hwords, hlatch, hcauses⟩ := enterSlot_words hw hm hl hg fun rs hrs u => by
      obtain ⟨h3, -, hs⟩ := slotOrder_of_words hrs
      exact nextOrderRead_broken h3 (by rw [hs]; exact hpair)
    obtain ⟨-, hs, -⟩ := slotOrder_of_words hwords
    have hexec := hworks s
    rw [workSlot_entered hw hr (slotFor_kind (by rw [beq_iff_eq]; exact hkind)),
      workEntered_broken (firstBadRead_words hwords hg) hs (by rw [State.slotOrder]; exact hkind ▸ hknown) hpair] at hexec
    have hclosed := closed (e := { code := .sequenceFault, a := kind, b := (read 1).value, ending := some .sequenceFault }) hr hc hl ho
    refine ⟨_, ?_, closes rfl hclosed, hclosed.latch.trans hlatch, hclosed.causes.trans hcauses⟩
    rw [hexec, show (s.slotOrder w).kind = kind from hkind]; rfl

end Sys2Proof.Machine
end

section
/-! PROOFS. Words written one after another, and the taking (O42) and the end (O43) of a page. -/
namespace Sys2Proof.Machine
open Sys2Proof

variable {s t u v : State} {w : PageWork} {p : Page} {rest : List Page} {a k n : Nat} {x : Word} {ws : Nat → Option Word}

/-! Words written -/

/-- The words that `ws` gives have been written, with good parity, and no others. -/
structure Wrote (s t : State) (ws : Nat → Option Word) : Prop where
  spells : ∀ a, t.readWord a = (ws a).getD (s.readWord a)
  bad : ∀ a, t.wordBad a = if (ws a).isSome then false else s.wordBad a
  memory : t.memoryLaw

theorem Wrote.refl (hm : s.memoryLaw) : Wrote s s fun _ => none := ⟨fun _ => rfl, fun _ => rfl, hm⟩

theorem Wrote.put (h : Wrote s t ws) (ha : a < 16384) (x : Word) : Wrote s (t.putWord a x) (Function.update ws a (some x)) := by
  refine ⟨fun b => ?_, fun b => ?_, memoryLaw_putWord h.memory⟩
  · rw [readWord_putWord h.memory.1, Function.update_apply]
    by_cases hb : b = a
    · rw [if_pos ⟨hb, ha⟩, if_pos hb]; rfl
    · rw [if_neg fun h => hb h.1, if_neg hb, h.spells]
  · rw [wordBad_putWord, Function.update_apply]
    by_cases hb : b = a
    · rw [if_pos ⟨hb, ha⟩, if_pos hb]; rfl
    · rw [if_neg fun h => hb h.1, if_neg hb, h.bad]

/-- Only the RAM and its parity count. -/
theorem Wrote.congr (h : Wrote s t ws) (h1 : u.ram = t.ram) (h2 : u.badParity = t.badParity) : Wrote s u ws :=
  ⟨fun a => (readWord_congr h1 a).trans (h.spells a), fun a => (wordBad_congr h2 a).trans (h.bad a),
    by rw [State.memoryLaw, h1, h2]; exact h.memory⟩

theorem Wrote.from (h : Wrote s t ws) (h1 : s.ram = u.ram) (h2 : s.badParity = u.badParity) : Wrote u t ws :=
  ⟨fun a => by rw [h.spells, readWord_congr h1], fun a => by rw [h.bad, wordBad_congr h2], h.memory⟩

theorem Wrote.written (h : Wrote s t ws) (ha : ws a = some x) : t.readWord a = x := by rw [h.spells, ha]; rfl
theorem Wrote.other (h : Wrote s t ws) (ha : ws a = none) : t.readWord a = s.readWord a ∧ t.wordBad a = s.wordBad a :=
  ⟨by rw [h.spells, ha]; rfl, by rw [h.bad, ha]; rfl⟩
theorem Wrote.kept {q : Nat → Prop} (h : Wrote s t ws) (hq : ∀ a, ¬ q a → ws a = none) : wordsKept s t q := fun a ha => h.other (hq a ha)

theorem wordsKept.trans {q r : Nat → Prop} (h : wordsKept s t q) (h' : wordsKept t u r) : wordsKept s u fun a => q a ∨ r a := fun a ha =>
  have ha := not_or.1 ha
  ⟨(h' a ha.2).1.trans (h a ha.1).1, (h' a ha.2).2.trans (h a ha.1).2⟩

theorem wordsKept.mono {q r : Nat → Prop} (h : wordsKept s t q) (hr : ∀ a, q a → r a) : wordsKept s t r := fun a ha => h a fun hq => ha (hr a hq)

/-! The taking of a page (R145) -/

/-- The words of the header of a page that is taken. -/
def takenWords (base : Nat) : Nat → Option Word :=
  Function.update (Function.update (Function.update (fun _ => none) (base + 2) (some 0)) (base + 3) (some 0)) base (some 2)

theorem writePageState_ram {y : PageState} : (s.writePageState p y).ram = (s.putWord (s.layout.stateAddr p) (word y.code)).ram
    ∧ (s.writePageState p y).badParity = (s.putWord (s.layout.stateAddr p) (word y.code)).badParity := by cases p <;> exact ⟨rfl, rfl⟩

theorem Wrote.pageState {y : PageState} (h : Wrote s t ws) (ha : t.layout.stateAddr p < 16384) :
    Wrote s (t.writePageState p y) (Function.update ws (t.layout.stateAddr p) (some (word y.code))) :=
  (h.put ha _).congr writePageState_ram.1 writePageState_ram.2

theorem headTaken_wrote (hm : s.memoryLaw) (hb : s.layout.pageBase p + 196 ≤ 16384) :
    Wrote s (s.headTaken p rest) (takenWords (s.layout.pageBase p)) := by
  have h0 : Wrote s ({ s with posting := rest } : State) fun _ => none := (Wrote.refl hm).congr rfl rfl
  have h1 := h0.put (a := s.layout.summaryAddr p) (by simp only [Layout.summaryAddr]; omega) (word Summary.complete.code)
  have h2 := h1.put (a := s.layout.progressAddr p) (by simp only [Layout.progressAddr]; omega) (word 0)
  exact h2.pageState (p := p) (y := .taken) (by show s.layout.pageBase p < 16384; omega)

/-- A page's state written changes the page's state and the RAM alone. -/
theorem writePageState_frame_of {y : PageState} (h : t = { s with posting := rest, ram := t.ram, badParity := t.badParity }) :
    t.writePageState p y = { s with
      posting := rest, pageA := (t.writePageState p y).pageA, pageB := (t.writePageState p y).pageB, ram := (t.writePageState p y).ram,
      badParity := (t.writePageState p y).badParity } := by
  have hf : ∀ u : State, u = ({ t with pageA := u.pageA, pageB := u.pageB, ram := u.ram, badParity := u.badParity } : State) →
      u = { s with posting := rest, pageA := u.pageA, pageB := u.pageB, ram := u.ram, badParity := u.badParity } := fun u hu => by
    conv_lhs => rw [hu, h]
  exact hf _ (by cases p <;> rfl)

theorem headTaken_frame : s.headTaken p rest = { s with
    posting := rest, pageA := (s.headTaken p rest).pageA, pageB := (s.headTaken p rest).pageB, ram := (s.headTaken p rest).ram,
    badParity := (s.headTaken p rest).badParity } := by
  unfold State.headTaken; exact writePageState_frame_of rfl

theorem headTaken_pageState (q : Page) : (s.headTaken p rest).pageState q = if q = p then .taken else s.pageState q :=
  pageState_writePageState (s := (({ s with posting := rest } : State).writeSummary p .complete).writeProgress p 0) q

theorem otherPage_ne : otherPage p ≠ p := by cases p <;> decide

theorem takenWork_count {r : ReadWord} (hb : r.bad = false) (h1 : 1 ≤ r.value.toNat) (h2 : r.value.toNat ≤ 32) :
    (takenWork k p r).count = r.value.toNat ∧ (takenWork k p r).ending = none := by simp [takenWork, hb, h1, h2]
theorem takenWork_wrong {r : ReadWord} (hb : r.bad = false) (h : r.value.toNat = 0 ∨ 32 < r.value.toNat) :
    (takenWork k p r).count = 0 ∧ (takenWork k p r).ending = some .sequenceFault := by
  have hn : ¬ (1 ≤ r.value.toNat ∧ r.value.toNat ≤ 32) := by omega
  simp only [not_and_or, Nat.not_le] at hn
  rcases hn with hn | hn <;> simp [takenWork, hb, hn]
theorem takenWork_bad {r : ReadWord} (hb : r.bad = true) : (takenWork k p r).count = 0 ∧ (takenWork k p r).ending = some .ramFault := by
  simp [takenWork, hb]

/-- A checked read changes the latch and the causes alone. -/
theorem readChecked_frame : s.readChecked a = { s with faultLatch := (s.readChecked a).faultLatch, causes := (s.readChecked a).causes } := by
  unfold State.readChecked; split <;> rfl

theorem readChecked_bad (h : s.wordBad a = true) : s.readChecked a = s.recordFault a .parity := if_pos h

/-- The head of the posting order is taken. -/
theorem pageTaken (h : s.posting = p :: rest) (hm : s.memoryLaw) (hb : s.layout.pageBase p + 196 ≤ 16384) (hp : s.part ≠ .clearing) :
    PageTaken s s.takeHead p (takenWork s.takings p (s.look (s.layout.pageBase p + 1))) := by
  have hw := headTaken_wrote (rest := rest) hm hb
  have hf := headTaken_frame (s := s) (p := p) (rest := rest)
  have hps := headTaken_pageState (s := s) (p := p) (rest := rest)
  rw [takeHead_cons h, show s.layout.countAddr p = s.layout.pageBase p + 1 from rfl]
  generalize s.headTaken p rest = u at *
  have hcount := hw.other (a := s.layout.pageBase p + 1) (by simp [takenWords])
  have hlook : u.look (s.layout.pageBase p + 1) = s.look (s.layout.pageBase p + 1) := by rw [State.look, State.look, hcount.1, hcount.2]
  have hlatch : u.faultLatch = s.faultLatch := by rw [hf]
  have hcauses : u.causes = s.causes := by rw [hf]
  have hpu : u.part ≠ .clearing := by rw [hf]; exact hp
  rw [hlook]
  have hc := readChecked_frame (s := u) (a := s.layout.pageBase p + 1)
  have hgood : s.wordBad (s.layout.pageBase p + 1) = false → u.readChecked (s.layout.pageBase p + 1) = u := fun hg =>
    readChecked_good (hcount.2.trans hg)
  have hbad : s.wordBad (s.layout.pageBase p + 1) = true → FaultReported u (u.readChecked (s.layout.pageBase p + 1)) (s.layout.pageBase p + 1) .parity :=
    fun hb => by rw [readChecked_bad (hcount.2.trans hb)]; exact faultReported_recordFault hpu _ _
  generalize u.readChecked (s.layout.pageBase p + 1) = c at *
  have hstate : ∀ q, c.pageState q = if q = p then .taken else s.pageState q := fun q => by
    rw [← hps q, hc]; cases q <;> rfl
  have hwrote : Wrote s c (takenWords (s.layout.pageBase p)) := hw.congr (by rw [hc]) (by rw [hc])
  exact {
    worked := rfl
    posting := by show c.posting = _; rw [hc, h]; show u.posting = rest; rw [hf]
    state := by show c.pageState p = _; rw [hstate, if_pos rfl]
    other := by show c.pageState (otherPage p) = _; rw [hstate, if_neg otherPage_ne]
    place := rfl
    stateWord := hwrote.written (by simp [takenWords])
    summaryWord := hwrote.written (by simp [takenWords])
    progressWord := hwrote.written (by simp [takenWords])
    kept := hwrote.kept fun a ha => by
      obtain ⟨h1, h2, h3⟩ : a ≠ s.layout.pageBase p ∧ a ≠ s.layout.pageBase p + 2 ∧ a ≠ s.layout.pageBase p + 3 := by simpa [not_or] using ha
      simp [takenWords, h1, h2, h3]
    count := fun hg h1 h2 => takenWork_count hg h1 h2
    wrong := fun hg h => takenWork_wrong hg h
    sound := fun hg => by rw [hgood hg]; exact ⟨hlatch, hcauses⟩
    bad := fun hb => ⟨(takenWork_bad hb).1, (takenWork_bad hb).2, (hbad hb).congr hlatch.symm hcauses.symm rfl rfl⟩
    rest := by
      show ({ c with worked := _, takings := _, reads := [] } : State) = _
      conv_lhs => rw [hc, hf]
      conv_rhs => rw [hc, hf] }

/-- Settles O42: the head of the posting order is taken when the unit is free. -/
theorem headPageIsTaken : Obligations.HeadPageIsTaken := by
  unfold Obligations.HeadPageIsTaken
  intro s free
  have hexec : exec .takePage s = .next s.takeIfFree := rfl
  rw [hexec]
  refine ⟨fun p rest hfree hpost hm hb => ?_, fun h => ?_⟩
  · have ht := pageTaken hpost hm hb (by rw [hfree.1]; decide)
    refine ⟨s.takeHead, _, by rw [State.takeIfFree, if_pos hfree], ht, ?_⟩
    rw [ht.posting, hpost]; rfl
  · by_cases hfree : free
    · have hpost := h.resolve_left (not_not.2 hfree)
      rw [State.takeIfFree, if_pos hfree, State.takeHead, hpost]
    · rw [State.takeIfFree, if_neg hfree]

/-! The closing of a page (R147) -/

/-- The slots that `is` names are marked SKIPPED with details 0. -/
structure Skipped (s t : State) (p : Page) (is : List Nat) : Prop where
  frame : t = { s with ram := t.ram, badParity := t.badParity }
  words : ∀ i ∈ is, t.readWord (s.layout.slotAddr p i + 3) = resultWord .skipped ∧ t.readWord (s.layout.slotAddr p i + 4) = 0
    ∧ t.readWord (s.layout.slotAddr p i + 5) = 0
  kept : wordsKept s t fun a => ∃ i ∈ is, s.layout.slotAddr p i + 3 ≤ a ∧ a ≤ s.layout.slotAddr p i + 5
  memory : t.memoryLaw

theorem skipped_foldl (p : Page) : ∀ (is : List Nat) (s : State), s.memoryLaw → s.layout.pageBase p + 196 ≤ 16384 → (∀ i ∈ is, i < 32) →
    Skipped s (is.foldl (fun t i => t.writeResult p i .skipped 0 0) s) p is
  | [], s, hm, _, _ => ⟨rfl, fun _ h => (nomatch h), fun _ _ => ⟨rfl, rfl⟩, hm⟩
  | i :: is, s, hm, hb, hi => by
    have hf : s.writeResult p i .skipped 0 0
        = { s with ram := (s.writeResult p i .skipped 0 0).ram, badParity := (s.writeResult p i .skipped 0 0).badParity } := putWords_frame _ _ _
    have hmem : (s.writeResult p i .skipped 0 0).memoryLaw := memoryLaw_putWords _ hm
    have hlen : s.layout.slotAddr p i + 3 + [word ResultCode.skipped.code, (0 : Word), 0].length ≤ ramWords := by
      have := hi i List.mem_cons_self
      simp only [slotAddr_eq, List.length_cons, List.length_nil, ramWords]; omega
    have hword : ∀ a, (s.writeResult p i .skipped 0 0).readWord a = _ := fun a => readWord_putWords _ hm.1 hlen
    have hkept : wordsKept s (s.writeResult p i .skipped 0 0) fun a => s.layout.slotAddr p i + 3 ≤ a ∧ a ≤ s.layout.slotAddr p i + 5 := fun a ha => by
      have hx : a < s.layout.slotAddr p i + 3 ∨ s.layout.slotAddr p i + 3 + [word ResultCode.skipped.code, (0 : Word), 0].length ≤ a := by
        simp only [List.length_cons, List.length_nil]; omega
      exact ⟨readWord_putWords_other _ hm.1 hx, wordBad_putWords_other _ hx⟩
    have hlay : (s.writeResult p i .skipped 0 0).layout = s.layout := by rw [hf]
    rw [List.foldl_cons]
    generalize s.writeResult p i .skipped 0 0 = u at *
    obtain ⟨g1, g2, g3, g4⟩ := skipped_foldl p is u hmem (by rw [hlay]; exact hb) fun j hj => hi j (List.mem_cons_of_mem _ hj)
    rw [hlay] at g2 g3
    generalize is.foldl (fun t i => t.writeResult p i .skipped 0 0) u = t at *
    have hall : wordsKept s t fun a => ∃ j ∈ i :: is, s.layout.slotAddr p j + 3 ≤ a ∧ a ≤ s.layout.slotAddr p j + 5 :=
      (hkept.trans g3).mono fun a ha => ha.elim (fun h => ⟨i, List.mem_cons_self, h⟩) fun ⟨j, hj, h⟩ => ⟨j, List.mem_cons_of_mem _ hj, h⟩
    refine ⟨?_, fun j hj => ?_, hall, g4⟩
    · conv_lhs => rw [g1, hf]
    · by_cases hin : j ∈ is
      · exact g2 j hin
      obtain rfl : j = i := (List.mem_cons.1 hj).resolve_right hin
      have hstay : ∀ k, 3 ≤ k → k ≤ 5 → t.readWord (s.layout.slotAddr p j + k) = u.readWord (s.layout.slotAddr p j + k) := fun k h3 h5 =>
        (g3 _ fun ⟨m, hm', h⟩ => hin (by
          simp only [slotAddr_eq] at h
          exact (show m = j by omega) ▸ hm')).1
      rw [hstay 3 (by omega) (by omega), hstay 4 (by omega) (by omega), hstay 5 (by omega) (by omega), hword, hword, hword]
      simp only [List.length_cons, List.length_nil]
      refine ⟨?_, ?_, ?_⟩ <;> rw [dif_pos ⟨by omega, by omega⟩]
      · simp
      · simp [show s.layout.slotAddr p j + 4 - (s.layout.slotAddr p j + 3) = 1 by omega]
      · simp [show s.layout.slotAddr p j + 5 - (s.layout.slotAddr p j + 3) = 2 by omega]

/-- A page closed with its summary. -/
structure PageShut (s u : State) (w : PageWork) (x : Summary) : Prop where
  done : u.pageState w.page = .done
  other : u.pageState (otherPage w.page) = s.pageState (otherPage w.page)
  cause : raised s u (pageDoneCause w.page)
  stateWord : u.readWord (s.layout.pageBase w.page) = 4
  summary : u.readWord (s.layout.pageBase w.page + 2) = summaryWord x
  progress : u.readWord (s.layout.pageBase w.page + 3) = word w.slot
  skipped : ∀ i, w.slot ≤ i → i < w.count → u.readWord (s.layout.pageBase w.page + 4 + 6 * i + 3) = resultWord .skipped
    ∧ u.readWord (s.layout.pageBase w.page + 4 + 6 * i + 4) = 0 ∧ u.readWord (s.layout.pageBase w.page + 4 + 6 * i + 5) = 0
  kept : wordsKept s u fun a => a = s.layout.pageBase w.page ∨ a = s.layout.pageBase w.page + 2 ∨ a = s.layout.pageBase w.page + 3
    ∨ ∃ i, w.slot ≤ i ∧ i < w.count ∧ s.layout.pageBase w.page + 4 + 6 * i + 3 ≤ a ∧ a ≤ s.layout.pageBase w.page + 4 + 6 * i + 5
  frame : u = { s with
    worked := none, lift := none, pageA := u.pageA, pageB := u.pageB, causes := u.causes, reads := [], ram := u.ram, badParity := u.badParity }
  memory : u.memoryLaw

/-- The state with its page's cause raised and no page worked. -/
def State.leftPage (s : State) (c : Cause) : State := { s.raise c with worked := none, lift := none, reads := [] }

theorem pageShut {x : Summary} (hm : s.memoryLaw) (hb : s.layout.pageBase w.page + 196 ≤ 16384) (hc : w.count ≤ 32) :
    PageShut s (s.pageClosed w x) w x := by
  obtain ⟨e1, e2, e3, e4⟩ : Skipped s (s.skipSlots w) w.page _ := skipped_foldl w.page (List.range' w.slot (w.count - w.slot)) s hm hb
    fun i hi => by rw [List.mem_range'_1] at hi; omega
  obtain ⟨-, -, -, hstate⟩ := pageClosed_frame (s := s) (w := w) x
  have hmem : ∀ i, i ∈ List.range' w.slot (w.count - w.slot) ↔ w.slot ≤ i ∧ i < w.count := fun i => by rw [List.mem_range'_1]; omega
  have hu : s.pageClosed w x = ((((s.skipSlots w).writeProgress w.page w.slot).writeSummary w.page x).writePageState w.page .done).leftPage
    (pageDoneCause w.page) := rfl
  rw [hu] at hstate ⊢
  generalize s.skipSlots w = a at *
  have hlay : a.layout = s.layout := by rw [e1]
  have w1 := (Wrote.refl e4).put (a := a.layout.progressAddr w.page) (by rw [hlay]; simp only [Layout.progressAddr]; omega) (word w.slot)
  have w2 := w1.put (a := a.layout.summaryAddr w.page) (by rw [hlay]; simp only [Layout.summaryAddr]; omega) (word x.code)
  have w3 := w2.pageState (p := w.page) (y := .done) (by show a.layout.pageBase w.page < 16384; rw [hlay]; omega)
  have hframe := writePageState_frame_of (s := a) (t := (a.writeProgress w.page w.slot).writeSummary w.page x) (rest := a.posting) (p := w.page) (y := .done) rfl
  change Wrote a (((a.writeProgress w.page w.slot).writeSummary w.page x).writePageState w.page .done) (Function.update (Function.update
    (Function.update (fun _ => none) (a.layout.pageBase w.page + 3) _) (a.layout.pageBase w.page + 2) _) (a.layout.pageBase w.page) _) at w3
  rw [hlay] at w3
  generalize ((a.writeProgress w.page w.slot).writeSummary w.page x).writePageState w.page .done = b at *
  have hcauses : b.causes = s.causes := by rw [hframe, e1]
  have w4 : Wrote a (b.leftPage (pageDoneCause w.page)) _ := w3.congr rfl rfl
  have hr : raised b (b.leftPage (pageDoneCause w.page)) (pageDoneCause w.page) := by
    have := raised_raise (s := b) (pageDoneCause w.page)
    exact ⟨this.1, this.2⟩
  exact {
    done := by rw [hstate, if_pos rfl]
    other := by rw [hstate, if_neg otherPage_ne]
    cause := ⟨hr.1, fun d hd => by rw [hr.2 d hd, State.causeSet, hcauses]; rfl⟩
    stateWord := w4.written (by simp; rfl)
    summary := w4.written (by simp)
    progress := w4.written (by simp)
    skipped := fun i h1 h2 => by
      obtain ⟨g1, g2, g3⟩ := e2 i ((hmem i).2 ⟨h1, h2⟩)
      have out : ∀ k, (b.leftPage (pageDoneCause w.page)).readWord (s.layout.pageBase w.page + 4 + 6 * i + k) = a.readWord (s.layout.pageBase w.page + 4 + 6 * i + k) :=
        fun k => (w4.other (by
          rw [Function.update_of_ne (by omega), Function.update_of_ne (by omega), Function.update_of_ne (by omega)])).1
      rw [out, out, out]
      exact ⟨g1, g2, g3⟩
    kept := (e3.trans (w4.kept (q := fun a => a = s.layout.pageBase w.page ∨ a = s.layout.pageBase w.page + 2 ∨ a = s.layout.pageBase w.page + 3) fun y hy => by
        obtain ⟨h1, h2, h3⟩ := by simpa only [not_or] using hy
        rw [Function.update_of_ne h1, Function.update_of_ne h2, Function.update_of_ne h3])).mono fun y hy => by
      rcases hy with ⟨i, hi, h⟩ | h | h | h
      · obtain ⟨h1, h2⟩ := (hmem i).1 hi
        exact .inr (.inr (.inr ⟨i, h1, h2, h⟩))
      · exact .inl h
      · exact .inr (.inl h)
      · exact .inr (.inr (.inl h))
    frame := by
      have hleft : ∀ y : State, y = { a with posting := a.posting, pageA := y.pageA, pageB := y.pageB, ram := y.ram, badParity := y.badParity } →
          y.leftPage (pageDoneCause w.page) = { s with
            worked := none, lift := none, pageA := y.pageA, pageB := y.pageB, causes := (y.leftPage (pageDoneCause w.page)).causes, reads := [],
            ram := y.ram, badParity := y.badParity } := fun y hy => by
        show ({ y with causes := (y.leftPage (pageDoneCause w.page)).causes, worked := none, lift := none, reads := [] } : State) = _
        generalize (y.leftPage (pageDoneCause w.page)).causes = z
        conv_lhs => rw [hy, e1]
      exact hleft b hframe
    memory := w4.memory }

/-! When a page is at its end (R147, R148, R154) -/

/-- The summaries with which the worked page `w` is at its end. -/
def State.endsWith (s : State) (w : PageWork) (x : Summary) : Prop :=
  w.ending = some x
  ∨ (w.ending = none ∧ w.bulk = none ∧ w.begun = false) ∧ s.part = .stopping ∧ x = .stopped
  ∨ (w.ending = none ∧ w.bulk = none ∧ w.begun = false) ∧ s.part = .running ∧ (s.pageState w.page = .aborting ∧ 1 ≤ w.slot) ∧ x = .aborted
  ∨ (w.ending = none ∧ w.bulk = none ∧ w.begun = false) ∧ s.part = .running ∧ ¬ (s.pageState w.page = .aborting ∧ 1 ≤ w.slot)
    ∧ w.count ≤ w.slot ∧ x = if w.refusals then .refusals else .complete

theorem pageSummary_iff {x : Summary} (hp : s.part = .running ∨ s.part = .stopping) : s.pageSummary w = some x ↔ s.endsWith w x := by
  have hpart : ¬ (s.part ≠ .running ∧ s.part ≠ .stopping) := fun h => hp.elim h.1 h.2
  unfold State.pageSummary State.endsWith
  rw [if_neg hpart]
  cases he : w.ending with
  | some y => simp
  | none =>
    rw [if_neg (by simp)]
    by_cases hb : w.bulk = none ∧ w.begun = false
    · rw [if_neg (by simp [hb])]
      rcases hp with hp | hp
      · rw [if_neg (by rw [hp]; decide), hp]
        by_cases ha : s.pageState w.page = .aborting ∧ 1 ≤ w.slot
        · rw [if_pos ha]; simp [ha, hb, @eq_comm _ x]
        · rw [if_neg ha]
          by_cases hn : w.slot < w.count
          · rw [if_pos hn]; simp [ha, Nat.not_le.2 hn]
          · rw [if_neg hn]; simp [ha, hb, Nat.not_lt.1 hn, @eq_comm _ x]
      · rw [if_pos hp, hp]; simp [hb, @eq_comm _ x]
    · have hb' : (w.bulk.isSome || w.begun) = true := by
        rw [Bool.or_eq_true, Option.isSome_iff_ne_none]
        by_cases h : w.bulk = none
        · exact .inr (Bool.not_eq_false _ ▸ fun h' => hb ⟨h, h'⟩)
        · exact .inl h
      rw [if_pos hb']
      simp [hb]

theorem pageSummary_out (h : ¬ (s.part = .running ∨ s.part = .stopping)) : s.pageSummary w = none := if_pos (not_or.1 h)

theorem exec_pageEnd {x : Summary} (hw : s.worked = some w) (hx : s.pageSummary w = some x) : exec .pageEnd s = .next (s.endPage w x) := by
  have h : exec .pageEnd s = .next (match s.worked with
    | none => s
    | some w => match s.pageSummary w with
      | none => s
      | some x => s.endPage w x) := rfl
  rw [h, hw]; dsimp only; rw [hx]

theorem exec_pageEnd_none (h : ∀ v, s.worked = some v → s.pageSummary v = none) : exec .pageEnd s = .next s := by
  have he : exec .pageEnd s = .next (match s.worked with
    | none => s
    | some w => match s.pageSummary w with
      | none => s
      | some x => s.endPage w x) := rfl
  rw [he]
  cases hw : s.worked with
  | none => rfl
  | some v => dsimp only; rw [h v hw]

/-! What follows a page (R145, R150, R154) -/

theorem quietOrders_worked (h : s.worked = some w) : s.quietOrders = s := by
  have : (s.orderQuiet || (s.part == .stopping && s.worked.isNone && s.suspended.isNone)) = s.orderQuiet := by rw [h]; simp
  unfold State.quietOrders; rw [this]

theorem quietOrders_idle (hw : s.worked = none) (hv : s.suspended = none) :
    s.quietOrders = { s with orderQuiet := s.orderQuiet || decide (s.part = .stopping) } := by
  unfold State.quietOrders; rw [hw, hv]; simp [beq_eq_decide]

theorem takeIfFree_none (h : s.part = .stopping ∨ s.posting = []) : s.takeIfFree = s := by
  unfold State.takeIfFree; split
  · next hf =>
    rw [State.takeHead, h.resolve_left (by rw [hf.1]; decide)]
  · rfl

/-- The suspended page takes up its work. -/
def State.resumed (s : State) (v : PageWork) : State := { s.writeSummary v.page .complete with worked := some v, suspended := none }

theorem resume_eq {y : PageWork} {b : Bulk} (hv : s.suspended = some y) (hb : y.bulk = some b) :
    s.resume = ((s.resumed y).boundaryCut y b).getD (s.resumed y) := by
  rw [State.resume, hv]; dsimp only; rw [hb]; rfl

theorem boundaryCut_none {b : Bulk} (h : ¬ (s.part = .stopping ∨ s.pageState w.page = .aborting)) : s.boundaryCut w b = none := by
  have h := not_or.1 h
  rw [State.boundaryCut, if_neg h.1, if_neg h.2]

theorem boundaryCut_some {b : Bulk} (h : s.part = .stopping ∨ s.pageState w.page = .aborting) :
    s.boundaryCut w b = some (s.cutBulk w b (if s.part = .stopping then .stopped else .aborted)) := by
  unfold State.boundaryCut
  by_cases hs : s.part = .stopping
  · rw [if_pos hs, if_pos hs]
  · rw [if_neg hs, if_neg hs, if_pos (h.resolve_left hs)]

/-- The details of a bulk order that ends with the counts so far. -/
theorem bulkDetails_eq (b : Bulk) : (bulkDetails b).1 = word b.handled ∧ (bulkDetails b).2 = (match b.kind with
    | .loadRange => word (b.refused % 256 + 256 * (b.second % 256))
    | .ackAll _ => word b.second) := by
  unfold bulkDetails; cases b.kind <;> exact ⟨rfl, rfl⟩

/-- A bulk order that a boundary ends. -/
structure CutShort (s t : State) (w : PageWork) (b : Bulk) (x : Summary) : Prop where
  result : t.readWord (s.layout.pageBase w.page + 4 + 6 * w.slot + 3) = resultWord .aborted
  detailA : t.readWord (s.layout.pageBase w.page + 4 + 6 * w.slot + 3 + 1) = word b.handled
  detailB : t.readWord (s.layout.pageBase w.page + 4 + 6 * w.slot + 3 + 2) = (match b.kind with
    | .loadRange => word (b.refused % 256 + 256 * (b.second % 256))
    | .ackAll _ => word b.second)
  worked : t.worked = some { w with
    slot := w.slot + 1, begun := false, refusals := true, bound := none, bulk := none, ending := some x }
  kept : wordsKept s t fun a => s.layout.pageBase w.page + 4 + 6 * w.slot + 3 ≤ a ∧ a ≤ s.layout.pageBase w.page + 4 + 6 * w.slot + 3 + 2
  frame : t = { s with worked := t.worked, lift := none, reads := [], ram := t.ram, badParity := t.badParity }

theorem cutShort (hm : s.memoryLaw) (hb : s.layout.pageBase w.page + 196 ≤ 16384) (hs : w.slot < 32) (b : Bulk) (x : Summary) :
    CutShort s (s.cutBulk w b x) w b x := by
  obtain ⟨d1, d2⟩ := bulkDetails_eq b
  obtain ⟨hframe, h3, h4, h5, hkept, -⟩ := finishOrder_spec (u := s) (w := w)
    (e := { code := .aborted, a := (bulkDetails b).1, b := (bulkDetails b).2, ending := some x }) hm hb hs
  unfold State.cutBulk
  refine ⟨h3.trans (word_resultCode _), h4.trans d1, h5.trans d2, ?_, hkept.mono fun a ⟨k, hk⟩ => ?_, ?_⟩
  · rw [hframe]; simp [ResultCode.success]
  · rw [slotAddr_eq] at hk; omega
  · generalize s.finishOrder w { code := .aborted, a := (bulkDetails b).1, b := (bulkDetails b).2, ending := some x } = t at *
    have hwk : t.worked = some { w with
      slot := w.slot + 1, begun := false, refusals := w.refusals || !ResultCode.aborted.success, bound := none, bulk := none, ending := some x } := by
      rw [hframe]
    rw [hwk]; exact hframe

/-- Settles O43: the page is closed, and then a suspended one resumes, the next one is taken, or the unit is quiet. -/
theorem pageEnds : Obligations.PageEnds := by
  unfold Obligations.PageEnds
  intro s w base boundary aborted ends closed
  refine ⟨fun x hw hp hx hm hl hlaw => ?_, fun h => exec_pageEnd_none fun v hv => ?_⟩
  · have hbase := pageBase_le hl
    obtain ⟨-, -, hworked, hsusp, hapart, -⟩ := pageLaw_iff.1 hlaw
    obtain ⟨⟨hcount, -⟩, -⟩ := hworked w hw
    have hshut := pageShut (x := x) hm (hbase w.page) hcount
    obtain ⟨hlay, hpost, hsus, hstate⟩ := pageClosed_frame (s := s) (w := w) x
    have hexec := exec_pageEnd hw ((pageSummary_iff hp).2 hx)
    rw [endPage_eq] at hexec
    generalize s.pageClosed w x = u at *
    have hpart : u.part = s.part := by rw [hshut.frame]
    have hnone : u.worked = none := by rw [hshut.frame]
    have hlift : u.lift = none := by rw [hshut.frame]
    have hreads : u.reads = [] := by rw [hshut.frame]
    have hquiet : u.orderQuiet = s.orderQuiet := by rw [hshut.frame]
    refine ⟨_, u, hexec, ⟨hshut.done, hshut.other, hshut.cause, hshut.stateWord, hshut.summary, hshut.progress, hshut.skipped, hshut.kept, hshut.frame⟩,
      fun hv hq => ?_, fun p rest hv hr hcons => ?_, fun v b hv hb => ?_⟩
    · rw [if_neg (by rw [hsus, hv]; decide), takeIfFree_none (by rw [hpart, hpost]; exact hq), quietOrders_idle hnone (hsus.trans hv), hquiet, hpart]
    · have hfree : u.part = .running ∧ u.worked = none ∧ u.suspended = none := ⟨hpart.trans hr, hnone, hsus.trans hv⟩
      have ht := pageTaken (hpost.trans hcons) hshut.memory (by rw [hlay]; exact hbase p) (by rw [hfree.1]; decide)
      rw [if_neg (by rw [hsus, hv]; decide), State.takeIfFree, if_pos hfree, quietOrders_worked ht.worked]
      exact ⟨_, ht⟩
    · have hpage : v.page ≠ w.page := (hapart v w hv hw).1.symm
      have hslot : v.slot < 32 := by
        obtain ⟨hc, -, hbulk⟩ := (hsusp v hv).1.1
        exact Nat.lt_of_lt_of_le (hbulk b hb).1 hc
      have hvu := hsus.trans hv
      rw [if_pos (by rw [hvu]; rfl), resume_eq hvu hb]
      have hcutIff : ((u.resumed v).part = .stopping ∨ (u.resumed v).pageState v.page = .aborting) ↔ (s.part = .stopping ∨ s.pageState v.page = .aborting) := by
        have h1 : (u.resumed v).pageState v.page = s.pageState v.page := by
          rw [show (u.resumed v).pageState v.page = u.pageState v.page by cases v.page <;> rfl, hstate, if_neg hpage]
        rw [show (u.resumed v).part = s.part from hpart, h1]
      have hwrote : Wrote u (u.resumed v) _ := ((Wrote.refl hshut.memory).put (a := s.layout.pageBase v.page + 2)
        (by have := hbase v.page; omega) 0).congr (u := u.resumed v) (by rw [← hlay]; rfl) (by rw [← hlay]; rfl)
      have hframe : u.resumed v = { u with worked := some v, suspended := none, ram := (u.resumed v).ram, badParity := (u.resumed v).badParity } := rfl
      have hparts : (u.resumed v).part = s.part := hpart
      have hlays : (u.resumed v).layout = s.layout := hlay
      generalize u.resumed v = r at *
      have hzero : r.readWord (s.layout.pageBase v.page + 2) = 0 := hwrote.written (by simp)
      have hkept : wordsKept u r (· = s.layout.pageBase v.page + 2) := hwrote.kept fun a ha => Function.update_of_ne ha _ _
      by_cases hcut : s.part = .stopping ∨ s.pageState v.page = .aborting
      · rw [boundaryCut_some (hcutIff.2 hcut), hparts]
        have hc := cutShort (w := v) hwrote.memory (by rw [hlays]; exact hbase v.page) hslot b (if s.part = .stopping then .stopped else .aborted)
        rw [Option.getD_some, quietOrders_worked hc.worked]
        generalize r.cutBulk v b _ = t at *
        obtain ⟨c1, c2, c3, c4, c5, c6⟩ := hc
        rw [hlays] at c1 c2 c3 c5
        refine ⟨(c5 _ (by omega)).1.trans hzero, fun h => absurd hcut h, fun _ => ⟨c1, c2, c3, c4, ?_, ?_⟩⟩
        · exact (hkept.trans c5).mono fun a ha => ha
        · have hset : ∀ y : State, y = { r with worked := y.worked, lift := none, reads := [], ram := y.ram, badParity := y.badParity } →
              y = { u with worked := y.worked, suspended := none, ram := y.ram, badParity := y.badParity } := fun y hy => by
            conv_lhs => rw [hy, hframe]
            rw [← hlift, ← hreads]
          exact hset t c6
      · have hwk : r.worked = some v := by rw [hframe]
        rw [boundaryCut_none (hcutIff.not.2 hcut), Option.getD_none, quietOrders_worked hwk]
        exact ⟨hzero, fun _ => ⟨hkept, hframe⟩, fun h => absurd h hcut⟩
  · by_cases hp : s.part = .running ∨ s.part = .stopping
    · rcases h with h | ⟨hw, h⟩ | h
      · rw [h] at hv; cases hv
      · rw [hw] at hv; cases hv
        exact Option.eq_none_iff_forall_not_mem.2 fun x hx => h x ((pageSummary_iff hp).1 hx)
      · exact absurd hp h
    · exact pageSummary_out hp

end Sys2Proof.Machine
end

section
/-! PROOFS. The orders on the floor: GRANT FLOOR (O47), REVOKE FLOOR (O48) and CLEAR FLOOR (O49). -/
namespace Sys2Proof.Machine
open Sys2Proof

variable {s t u v x f : State} {w : PageWork} {o : Slot} {i j : Seat} {is : List Seat} {a b : Word} {code : ResultCode} {k : Link}

/-! The issue of an intent on a link (R36, R40, R129) -/

theorem cancelOn_tx {c : Seat} : (∀ f, k.tx = .sending f → (cancelOn k c).tx = .sending { f with cancelled := f.cancelled || decide (f.seat = c) })
    ∧ ((∀ f, k.tx ≠ .sending f) → cancelOn k c = k) ∧ cancelOn k c = { k with tx := (cancelOn k c).tx } := by
  unfold cancelOn
  cases hk : k.tx with
  | sending f =>
    refine ⟨fun g hg => ?_, fun h => absurd rfl (h f), ?_⟩
    · cases hg
      dsimp only; split
      · next h => simp [h]
      · next h => rw [hk]; simp [h]
    · dsimp only; split
      · rfl
      · rfl
  | idle => exact ⟨fun _ h => (nomatch h), fun _ => rfl, by dsimp only⟩
  | spacing => exact ⟨fun _ h => (nomatch h), fun _ => rfl, by dsimp only⟩

theorem frameCancelled_cancelOn (c : Seat) {k' : Link} (h : k'.tx = k.tx) : FrameCancelled k (cancelOn k' c) c where
  flight f hf := cancelOn_tx.1 f (h.trans hf)
  quiet hn := by rw [cancelOn_tx.2.1 fun f hf => hn f (h.symm.trans hf), h]

theorem placedLink_placeOn (c : Seat) {running : Prop} [Decidable running] : PlacedLink running k (if running then placeOn k c else k) c := by
  have hin : (k.queue.contains c || k.deferred.contains c) = true ↔ c ∈ k.queue ∨ c ∈ k.deferred := by simp
  by_cases hr : running
  · rw [if_pos hr]; unfold placeOn
    by_cases h : c ∈ k.queue ∨ c ∈ k.deferred
    · rw [if_pos (hin.2 h)]
      exact ⟨rfl, fun _ => ⟨rfl, rfl⟩, fun _ h1 h2 => absurd h (not_or.2 ⟨h1, h2⟩), fun _ h1 h2 => absurd h (not_or.2 ⟨h1, h2⟩)⟩
    have hkeep : ¬ (¬ running ∨ c ∈ k.queue ∨ c ∈ k.deferred) := fun h' => h'.elim (fun h' => h' hr) h
    rw [if_neg (hin.not.2 h)]
    by_cases hq : k.queue.length < queueSize
    · rw [if_pos hq]
      exact ⟨rfl, fun h' => absurd h' hkeep, fun _ _ _ _ => ⟨rfl, rfl⟩, fun _ _ _ h' => absurd hq (Nat.not_lt.2 h')⟩
    · rw [if_neg hq]
      exact ⟨rfl, fun h' => absurd h' hkeep, fun _ _ _ h' => absurd h' hq,
        fun _ _ h2 _ => ⟨rfl, fun j => mem_deferIn, fun hs => pairwise_deferIn hs h2⟩⟩
  · rw [if_neg hr]
    exact ⟨rfl, fun _ => ⟨rfl, rfl⟩, fun h => absurd h hr, fun h => absurd h hr⟩

theorem issuedLink_issuedOn (c : Seat) {running : Prop} [Decidable running] : IssuedLink running k (issuedOn running k c) c := by
  have hp := placedLink_placeOn (k := k) c (running := running)
  have hc := (cancelOn_tx (k := if running then placeOn k c else k) (c := c)).2.2
  unfold issuedOn
  have htx : (if running then placeOn k c else k).tx = k.tx := by rw [hp.rest]
  refine ⟨?_, frameCancelled_cancelOn c htx⟩
  generalize cancelOn (if running then placeOn k c else k) c = m at *
  generalize (if running then placeOn k c else k) = n at *
  have hm : ({ m with tx := k.tx } : Link) = n := by
    rw [hc, ← htx]
  rw [hm]; exact hp

/-! A change of the floor (R121) -/

/-- The blocks' work of a floor order: the roster, the mute channels and the links alone change. -/
structure FloorChange (t x : State) : Prop where
  frame : x = { t with roster := x.roster, seats := x.seats, links := x.links }
  seat : ∀ j, x.seat j = { t.seat j with channel := (x.seat j).channel }

theorem FloorChange.refl : FloorChange t t := ⟨rfl, fun _ => rfl⟩

theorem FloorChange.trans (h : FloorChange t u) (h' : FloorChange u x) : FloorChange t x where
  frame := by conv_lhs => rw [h'.frame, h.frame]
  seat j := by
    have e := h'.seat j
    rw [h.seat j] at e
    exact e

theorem issue_frame : s.issue i = { s with seats := (s.issue i).seats, links := (s.issue i).links } := by
  unfold State.issue; dsimp only; split <;> rfl

theorem floorChange_takeFloor : FloorChange t (t.takeFloor i) where
  frame := by
    have h := issue_frame (s := t.leaveRoster i) (i := i)
    unfold State.takeFloor
    generalize (t.leaveRoster i).issue i = u at *
    rw [h]; rfl
  seat j := by
    rw [seat_takeFloor]; split
    · next h => rw [h]
    · rfl

/-- The seat joined to the roster's tail with its intent open. -/
def State.joined (s : State) (i : Seat) : State := State.setIntent { s with roster := s.roster ++ [i] } i .opened

theorem floorChange_giveFloor : FloorChange t (t.giveFloor i) where
  frame := by
    have h := issue_frame (s := t.joined i) (i := i)
    rw [show t.giveFloor i = (t.joined i).issue i from rfl]
    generalize (t.joined i).issue i = u at *
    rw [h]; rfl
  seat j := by
    rw [seat_giveFloor]; split
    · next h => rw [h]
    · rfl

/-! A floor order that changes the floor -/

/-- What a floor order leaves: the floor as the blocks' work `x` has it, shown in the header, and the seats `is` published. -/
structure FloorOrder (s x f : State) (w : PageWork) (is : List Seat) (code : ResultCode) (a b : Word) : Prop where
  done : OrderDone s f w code a b
  roster : f.roster = x.roster
  shown : FloorShown f
  seat : ∀ j, f.seat j = { s.seat j with
    channel := (x.seat j).channel
    board := if j ∈ is ∧ j.val < s.layout.seatCount then changedNow (s.seat j).board s.clock else (s.seat j).board }
  link : ∀ l, f.link l = x.link l
  boardWrites : f.boardWrites = s.boardWrites ++ orderWrites f is
  words : wordsKept s f (fun a => slotWords s w a ∨ floorWords a)
  frame : f = { s with
    roster := f.roster, seats := f.seats, links := f.links, boardWrites := f.boardWrites, worked := f.worked, lift := none, reads := [],
    ram := f.ram, badParity := f.badParity }

theorem floorOrder (h : s.OrderInHand w o) (hl : s.layoutSound) (hw : Works s t w o) (hp : s.part = .running ∨ s.part = .stopping)
    (hx : FloorChange t x) (hn : is.Nodup) (hvis : ∀ j ∈ is, ¬ SamePicture t x j) :
    FloorOrder s x ((publishVisible t x.writeFloorHeader is).finishOrder { w with begun := true } { code := code, a := a, b := b }) w is code a b := by
  obtain ⟨he, hidle⟩ := hw
  have hmx : x.memoryLaw := by rw [hx.frame]; exact he.memory
  obtain ⟨hshown, hkept⟩ := floorShown_written hmx
  have hv := writeFloorHeader_frame (s := x)
  have hmv := memoryLaw_writeFloorHeader hmx
  generalize x.writeFloorHeader = v at *
  have hall : (is.filter fun j => decide (t.picture j ≠ v.picture j)) = is := List.filter_eq_self.2 fun j hj => by
    have hsame : v.picture j = x.picture j := by rw [hv]; rfl
    rw [hsame, decide_eq_true_iff]
    exact fun e => hvis j hj ((picture_eq_iff t x j).1 e)
  rw [publishVisible_eq, hall]
  have hvseat : ∀ j, v.seat j = x.seat j := fun j => by rw [hv]; rfl
  have hvidle : v.orderRequest = none := by
    refine (orderRequest_congr (s := t) (by rw [hv, hx.frame]) (by rw [hv, hx.frame]) (fun p => by rw [hv, hx.frame]; cases p <;> rfl)
      (by rw [hv, hx.frame]) (by rw [hv, hx.frame]) (by rw [hv, hx.frame]) (by rw [hv, hx.frame]) fun j => ?_).trans hidle
    rw [hvseat, hx.seat]
  have hvlayout : v.layout = s.layout := by rw [hv, hx.frame]; exact he.layout
  have hvpart : v.part = s.part := by rw [hv, hx.frame]; exact he.part
  have hvclock : v.clock = s.clock := by rw [hv, hx.frame]; exact he.clock
  have hvwrites : v.boardWrites = s.boardWrites := by rw [hv, hx.frame]; exact he.boardWrites
  have hu := publishAll_frame (s := v) (is := is)
  have huseat := fun j => seat_publishAll (s := v) (is := is) (j := j)
  have huwrites := publishAll_boardWrites (s := v) hn
  have huidle := (publishAll_orderRequest (s := v) (is := is)).trans hvidle
  generalize v.publishAll is = u at *
  have hulayout : u.layout = s.layout := by rw [hu]; exact hvlayout
  have hfin := finishes (code := code) (a := a) (b := b) (p := floorWords) h hl he hulayout (by rw [hu]; exact hmv)
    (show wordsKept t u floorWords from fun y hy => by
      have hxy : x.readWord y = t.readWord y ∧ x.wordBad y = t.wordBad y := by rw [hx.frame]; exact ⟨rfl, rfl⟩
      have huv : u.readWord y = v.readWord y ∧ u.wordBad y = v.wordBad y := by rw [hu]; exact ⟨rfl, rfl⟩
      exact ⟨huv.1.trans ((hkept y hy).1.trans hxy.1), huv.2.trans ((hkept y hy).2.trans hxy.2)⟩)
    fun y hy => by unfold floorWords at hy; omega
  generalize u.finishOrder { w with begun := true } { code := code, a := a, b := b } = f at *
  have hurost : u.roster = x.roster := by rw [hu, hv]
  have hfclock : f.clock = u.clock := hfin.clock
  exact {
    done := hfin.done
    roster := hfin.roster.trans hurost
    shown := hshown.congr (fun y hy => (hfin.header y hy).trans (by rw [hu]; rfl)) (by rw [hfin.frame, hu]) (by rw [hfin.frame, hu])
      (by rw [hfin.frame, hu])
    seat := fun j => by
      rw [hfin.seat, huseat, hvseat, hvclock, hx.seat, he.seat]
      have hpub : v.publishes j = true ↔ j.val < s.layout.seatCount := by
        rw [publishes_iff, hvlayout, hvpart]; exact and_iff_left hp
      rw [if_congr (and_congr_right fun _ => hpub) rfl rfl]
    link := fun l => by rw [hfin.link, hu, hv]; rfl
    boardWrites := by
      have hwrite : changeWrite u = orderWrite f := funext fun j => (hfin.write (i := j) huidle).symm
      rw [hfin.boardWrites, huwrites, hvwrites, changeWrites_congr (by rw [hulayout, hvlayout]) (by rw [hvpart]; exact hp)]
      unfold changeWrites orderWrites
      rw [hfin.layout, hwrite]
    words := hfin.words
    frame := by
      have hr : f.roster = u.roster := hfin.roster
      have hk : f.links = u.links := hfin.links
      rw [hr, hk, hfin.seats, hfin.boardWrites]
      have hlast : u = { t with roster := u.roster, links := u.links, seats := u.seats, boardWrites := u.boardWrites, ram := u.ram, badParity := u.badParity } := by
        conv_lhs => rw [hu, hv, hx.frame]
        rw [hu, hv]
      conv_lhs => rw [hfin.frame, hlast, he.frame] }

theorem FloorOrder.channel (h : FloorOrder s x f w is code a b) (j : Seat) : (f.seat j).channel = (x.seat j).channel := by rw [h.seat]

theorem FloorOrder.seat_in (h : FloorOrder s x f w is code a b) (hj : j ∈ is) (hc : j.val < s.layout.seatCount) :
    f.seat j = { s.seat j with channel := (f.seat j).channel, board := changedNow (s.seat j).board s.clock } := by
  rw [h.channel, h.seat, if_pos ⟨hj, hc⟩]

theorem FloorOrder.seat_out (h : FloorOrder s x f w is code a b) (hj : j ∉ is) (hx : x.seat j = s.seat j) : f.seat j = s.seat j := by
  rw [h.seat, if_neg fun hh => hj hh.1, hx]

theorem FloorOrder.layout (h : FloorOrder s x f w is code a b) : f.layout = s.layout := by rw [h.frame]

/-! Taking and giving the floor -/

theorem issued_takeFloor : Issued t (t.takeFloor i) i .muted ∧ seatsKept t (t.takeFloor i) (· = i)
    ∧ linksKept t (t.takeFloor i) (· = (t.seat i).ctx.link) := by
  refine ⟨⟨by rw [seat_takeFloor, if_pos rfl], ?_⟩, fun j hj => by rw [seat_takeFloor, if_neg hj], fun l hl => by rw [link_takeFloor, if_neg hl]⟩
  rw [link_takeFloor, if_pos rfl]; exact issuedLink_issuedOn i

theorem issued_giveFloor : Issued t (t.giveFloor i) i .opened ∧ seatsKept t (t.giveFloor i) (· = i)
    ∧ linksKept t (t.giveFloor i) (· = (t.seat i).ctx.link) := by
  refine ⟨⟨by rw [seat_giveFloor, if_pos rfl], ?_⟩, fun j hj => by rw [seat_giveFloor, if_neg hj], fun l hl => by rw [link_giveFloor, if_neg hl]⟩
  rw [link_giveFloor, if_pos rfl]; exact issuedLink_issuedOn i

/-- Only the part state, the seat, its channel and the links count. -/
theorem Issued.congr {s' t' : State} {y : Intent} (h : Issued s t i y) (h1 : s'.part = s.part) (h2 : s'.seat i = s.seat i)
    (h3 : ∀ l, s'.link l = s.link l) (h4 : (t'.seat i).channel = (t.seat i).channel) (h5 : ∀ l, t'.link l = t.link l) : Issued s' t' i y :=
  ⟨h4.trans h.channel, by rw [h1, h2, h3, h5]; exact h.link⟩

/-! REVOKE FLOOR (R124) -/

theorem revokeFloorWork_out (h : t.seatOf o.seat = none) : revokeFloorWork o t = (t, { code := .seatRange, a := o.seat, b := 0 }) := by
  rw [revokeFloorWork, h]; rfl
theorem revokeFloorWork_off (h : t.seatOf o.seat = some i) (hi : i ∉ t.roster) :
    revokeFloorWork o t = (t, { code := .notOnFloor, a := o.seat, b := 0 }) := by
  rw [revokeFloorWork, h]; exact if_pos (by simpa using hi)
theorem revokeFloorWork_locked (h : t.seatOf o.seat = some i) (hi : i ∈ t.roster) (hk : t.lockedUnlifted i = true) :
    revokeFloorWork o t = (t, { code := .locked, a := o.seat, b := 0 }) := by
  rw [revokeFloorWork, h]; exact (if_neg (by simpa using hi)).trans (if_pos hk)
theorem revokeFloorWork_ok (h : t.seatOf o.seat = some i) (hi : i ∈ t.roster) (hk : t.lockedUnlifted i = false) :
    revokeFloorWork o t = (publishVisible t (t.takeFloor i).writeFloorHeader [i],
      { code := .ok, a := o.seat, b := word (t.takeFloor i).roster.length }) := by
  rw [revokeFloorWork, h]; exact (if_neg (by simpa using hi)).trans (if_neg (by rw [hk]; decide))

/-- One seat whose intent a floor order changed and published. -/
structure FloorSeat (s x f : State) (w : PageWork) (i : Seat) (y : Intent) (a b : Word) : Prop where
  order : FloorOrder s x f w [i] .ok a b
  issued : Issued s f i y
  seat : f.seat i = { s.seat i with channel := (f.seat i).channel, board := changedNow (s.seat i).board s.clock }
  boardWrites : f.boardWrites = s.boardWrites ++ [orderWrite f i]
  seats : seatsKept s f (· = i)
  links : linksKept s f (· = (s.seat i).ctx.link)

theorem floorSeat {y : Intent} (h : FloorOrder s x f w [i] .ok a b) (he : Entered s t w o) (hi : i.val < s.layout.seatCount)
    (hx : Issued t x i y ∧ seatsKept t x (· = i) ∧ linksKept t x (· = (t.seat i).ctx.link)) : FloorSeat s x f w i y a b := by
  obtain ⟨h1, h2, h3⟩ := hx
  refine ⟨h, h1.congr he.part.symm (he.seat i).symm (fun l => (he.link l).symm) (h.channel i) h.link, h.seat_in List.mem_cons_self hi, ?_,
    fun j hj => h.seat_out (by simpa using hj) ((h2 j hj).trans (he.seat j)), fun l hl => ?_⟩
  · rw [h.boardWrites, orderWrites, List.filter_cons, h.layout, if_pos (by simpa using hi)]; rfl
  · rw [h.link, h3 l (by rw [he.seat]; exact hl), he.link]

/-- Settles O48: the refusals, and the member taken off the floor. -/
theorem revokeFloor : Obligations.RevokeFloor := by
  unfold Obligations.RevokeFloor
  intro s w o h hk hm hl hroster hp answers
  obtain ⟨t, hw, hwork⟩ := order_works (work := revokeFloorWork) h hm hl hk (by decide)
  have he := hw.entered
  have hexec : exec .revokeFloor s = .next (workOrder kindRevokeFloor revokeFloorWork s) := rfl
  rw [hwork] at hexec
  refine ⟨fun hr => answers_order h hl he hexec (revokeFloorWork_out ((he.seatOf _).trans (seatOf_out hr))), fun i hi hseat => ?_⟩
  have hof := (he.seatOf _).trans (seatOf_named hi hseat)
  refine ⟨fun hn => answers_order h hl he hexec (revokeFloorWork_off hof (by rw [he.roster]; exact hn)), fun hin hlk hlift => ?_, fun hin hfree => ?_⟩
  · exact answers_order h hl he hexec (revokeFloorWork_locked hof (by rw [he.roster]; exact hin)
      (by rw [he.lockedUnlifted]; exact lockedUnlifted_iff.2 ⟨hlk, hlift⟩))
  · obtain ⟨-, -, -, hnodup, -⟩ := hroster
    rw [revokeFloorWork_ok hof (by rw [he.roster]; exact hin) (by rw [he.lockedUnlifted]; exact lockedUnlifted_eq_false hfree)] at hexec
    have hx : (t.takeFloor i).roster = s.roster.erase i := by rw [takeFloor_roster, he.roster]
    rw [hx, List.length_erase_of_mem hin] at hexec
    have hvis : ∀ j ∈ [i], ¬ SamePicture t (t.takeFloor i) j := fun j hj hs => by
      obtain rfl := List.mem_singleton.1 hj
      have := hs.onFloor.2 (by rw [he.roster]; exact hin)
      rw [hx] at this
      exact hnodup.not_mem_erase this
    have hord := floorOrder (code := .ok) (a := o.seat) (b := word (s.roster.length - 1)) h hl hw hp floorChange_takeFloor (List.nodup_singleton i) hvis
    have hone := floorSeat hord he hi issued_takeFloor
    exact ⟨_, hexec, hord.done, hord.roster.trans hx, hord.shown, hone.issued, hone.seat, hone.boardWrites, hone.seats, hone.links, hord.words,
      hord.frame⟩

/-! CLEAR FLOOR (R125) -/

/-- These members taken off the floor one after another. -/
def State.takeAll (s : State) (is : List Seat) : State := is.foldl State.takeFloor s

theorem takeAll_cons : t.takeAll (i :: is) = (t.takeFloor i).takeAll is := rfl

theorem floorChange_takeAll : FloorChange t (t.takeAll is) := by
  induction is generalizing t with
  | nil => exact .refl
  | cons i is ih => exact floorChange_takeFloor.trans ih

theorem roster_takeAll : (t.takeAll is).roster = t.roster.diff is := by
  induction is generalizing t with
  | nil => rfl
  | cons i is ih => rw [takeAll_cons, ih, takeFloor_roster, List.diff_cons]

theorem seat_takeAll : (t.takeAll is).seat j = if j ∈ is then
    { t.seat j with channel := { intent := .muted, state := .sending, attempt := .first, deadline := none } } else t.seat j := by
  induction is generalizing t with
  | nil => rw [if_neg List.not_mem_nil]; rfl
  | cons i is ih =>
    rw [takeAll_cons, ih, seat_takeFloor]
    by_cases hj : j = i
    · subst hj; simp
    · simp [hj]

theorem part_takeFloor : (t.takeFloor i).part = t.part := by
  have h := (floorChange_takeFloor (t := t) (i := i)).frame
  generalize t.takeFloor i = u at *
  rw [h]

theorem issuedInOrder_takeAll {home : Seat → LinkId} : ∀ (is : List Seat) (t : State), (∀ i, home i = (t.seat i).ctx.link) →
    IssuedInOrder (t.part = .running) home is t.link (t.takeAll is).link
  | [], _, _ => fun _ => rfl
  | i :: is, t, hh => by
    refine ⟨(t.takeFloor i).link (home i), ?_, ?_⟩
    · rw [hh]; exact issued_takeFloor.1.link
    · have hnext : (fun l => if l = home i then (t.takeFloor i).link (home i) else t.link l) = (t.takeFloor i).link := by
        funext l
        split
        · next h => rw [h]
        · next h => exact (issued_takeFloor.2.2 l (by rw [← hh]; exact h)).symm
      rw [hnext, takeAll_cons, ← part_takeFloor (t := t) (i := i)]
      exact issuedInOrder_takeAll is _ fun j => by rw [hh, seat_takeFloor]; split <;> simp_all

theorem linksKept_takeAll : linksKept t (t.takeAll is) (fun l => ∃ i ∈ is, (t.seat i).ctx.link = l) := by
  induction is generalizing t with
  | nil => exact fun _ _ => rfl
  | cons i is ih =>
    intro l hl
    have hctx : ∀ j, ((t.takeFloor i).seat j).ctx = (t.seat j).ctx := fun j => by rw [floorChange_takeFloor.seat j]
    rw [takeAll_cons, ih l fun ⟨j, hj, h⟩ => hl ⟨j, List.mem_cons_of_mem _ hj, by rw [← hctx]; exact h⟩]
    exact issued_takeFloor.2.2 l fun h => hl ⟨i, List.mem_cons_self, h.symm⟩

theorem clearFloorWork_eq : clearFloorWork o t = (publishVisible t (floorHeaderIfChanged t (t.takeAll t.clearable)) t.clearable,
    { code := .ok, a := word t.clearable.length, b := word (t.roster.length - t.clearable.length) }) := rfl

theorem orderWrites_nil : orderWrites t [] = [] := rfl

/-- Settles O49: the unlocked members taken off one after another, and no header word where there is none. -/
theorem clearFloor : Obligations.ClearFloor := by
  unfold Obligations.ClearFloor
  intro s w o h hk hm hl hroster hp out
  obtain ⟨t, hw, hwork⟩ := order_works (work := clearFloorWork) h hm hl hk (by decide)
  have he := hw.entered
  obtain ⟨-, -, -, hnodup, -⟩ := hroster
  have hexec : exec .clearFloor s = .next (workOrder kindClearFloor clearFloorWork s) := rfl
  have hout : t.clearable = out := by
    rw [State.clearable, he.roster]
    exact List.filter_congr fun j _ => by rw [he.seat]; cases (s.seat j).ctx.locked <;> rfl
  rw [hwork, clearFloorWork_eq, hout, he.roster] at hexec
  have hrest : (t.takeAll out).roster = s.roster.filter (fun j => (s.seat j).ctx.locked = true) := by
    rw [roster_takeAll, he.roster, List.Nodup.sdiff_eq_filter hnodup]
    exact List.filter_congr fun j hj => by simp [out, hj]
  have houtIn : ∀ j ∈ out, j ∈ s.roster := fun j hj => List.mem_of_mem_filter hj
  by_cases hnone : out = []
  · rw [hnone] at hrest
    have hex : floorHeaderIfChanged t t = t := if_pos rfl
    rw [hnone, show t.takeAll [] = t from rfl, hex, show publishVisible t t [] = t from rfl] at hexec
    obtain ⟨hdone, hwords, hframe⟩ := answeredOnly_finish (code := .ok) (a := word ([] : List Seat).length) (b := word (s.roster.length - ([] : List Seat).length)) h hl he
    rw [hnone]
    generalize t.finishOrder { w with begun := true } _ = f at *
    have hseat : ∀ j, f.seat j = s.seat j := fun j => by rw [hframe]; rfl
    have hlink : ∀ l, f.link l = s.link l := fun l => by rw [hframe]; rfl
    refine ⟨f, hexec, hdone, ?_, fun hh => absurd rfl hh, fun _ hi => absurd hi List.not_mem_nil, hlink, ?_, fun j _ => hseat j, fun l _ => hlink l,
      fun y hy => hwords y fun hh => hy (.inl hh), ?_⟩
    · rw [← hrest, show t.takeAll [] = t from rfl, he.roster, hframe]
    · rw [orderWrites_nil, List.append_nil, hframe]
    · rw [show f.roster = s.roster by rw [hframe], show f.seats = s.seats by rw [hframe], show f.links = s.links by rw [hframe],
        show f.boardWrites = s.boardWrites by rw [hframe]]
      exact hframe
  · obtain ⟨i, hi⟩ := List.exists_mem_of_ne_nil out hnone
    have hgone : ∀ j ∈ out, j ∉ (t.takeAll out).roster := fun j hj hin => by
      rw [hrest] at hin
      have h1 : (s.seat j).ctx.locked = false := by simpa using (List.mem_filter.1 hj).2
      have h2 : (s.seat j).ctx.locked = true := by simpa using (List.mem_filter.1 hin).2
      rw [h1] at h2; cases h2
    have hchanged : t.roster ≠ (t.takeAll out).roster := fun e => hgone i hi (by rw [← e, he.roster]; exact houtIn i hi)
    rw [floorHeaderIfChanged, if_neg hchanged] at hexec
    have hvis : ∀ j ∈ out, ¬ SamePicture t (t.takeAll out) j := fun j hj hs =>
      hgone j hj (hs.onFloor.2 (by rw [he.roster]; exact houtIn j hj))
    have hord := floorOrder (code := .ok) (a := word out.length) (b := word (s.roster.length - out.length)) h hl hw hp floorChange_takeAll
      (hnodup.filter _) hvis
    refine ⟨_, hexec, hord.done, hord.roster.trans hrest, fun _ => hord.shown, fun j hj => ⟨?_, ?_⟩, ?_, hord.boardWrites, fun j hj => ?_, fun l hl => ?_,
      fun y hy => hord.words y fun hh => hy (hh.imp_right fun hf => ⟨hf, hnone⟩), hord.frame⟩
    · rw [hord.channel, seat_takeAll, if_pos hj]
    · rw [hord.channel, hord.seat, if_congr (and_iff_right hj) rfl rfl]
    · have hlinks := issuedInOrder_takeAll (home := fun j => (s.seat j).ctx.link) out t fun j => by rw [he.seat]
      rw [show t.link = s.link from funext he.link, he.part, ← show _ = (t.takeAll out).link from funext hord.link] at hlinks
      exact hlinks
    · exact hord.seat_out hj (by rw [seat_takeAll, if_neg hj, he.seat])
    · rw [hord.link, linksKept_takeAll l (by simp only [he.seat]; exact hl), he.link]

/-! GRANT FLOOR (R122, R123) -/

theorem grantFloorWork_out (h : t.seatOf o.seat = none) : grantFloorWork o t = (t, { code := .seatRange, a := o.seat, b := 0 }) := by
  rw [grantFloorWork, h]; rfl
theorem grantFloorWork_inactive (h : t.seatOf o.seat = some i) (ha : (t.seat i).ctx.active = false) :
    grantFloorWork o t = (t, { code := .seatInactive, a := o.seat, b := 0 }) := by
  rw [grantFloorWork, h]; exact if_pos ha
theorem grantFloorWork_already (h : t.seatOf o.seat = some i) (ha : (t.seat i).ctx.active = true) (hi : i ∈ t.roster) :
    grantFloorWork o t = (t, { code := .already, a := o.seat, b := word (t.roster.idxOf i + 1) }) := by
  rw [grantFloorWork, h]; exact (if_neg (by rw [ha]; decide)).trans (if_pos (by simpa using hi))
theorem grantFloorWork_room (h : t.seatOf o.seat = some i) (ha : (t.seat i).ctx.active = true) (hi : i ∉ t.roster)
    (hr : t.roster.length < t.floorLimit) : grantFloorWork o t = (publishVisible t (t.giveFloor i).writeFloorHeader [i],
      { code := .ok, a := o.seat, b := word ((t.giveFloor i).position i) }) := by
  rw [grantFloorWork, h]; exact (if_neg (by rw [ha]; decide)).trans ((if_neg (by simpa using hi)).trans (if_pos hr))
theorem grantFloorWork_full (h : t.seatOf o.seat = some i) (ha : (t.seat i).ctx.active = true) (hi : i ∉ t.roster)
    (hr : t.floorLimit ≤ t.roster.length) (hd : t.floorPolicy = .refuse ∨ t.displaceable = none) :
    grantFloorWork o t = (t, { code := .floorFull, a := o.seat, b := word t.floorLimit }) := by
  rw [grantFloorWork, h]
  refine (if_neg (by rw [ha]; decide)).trans ((if_neg (by simpa using hi)).trans ((if_neg (Nat.not_lt.2 hr)).trans ?_))
  rcases hd with hd | hd
  · rw [hd]; rfl
  · rw [hd]; cases t.floorPolicy <;> rfl
theorem grantFloorWork_displaces (h : t.seatOf o.seat = some i) (ha : (t.seat i).ctx.active = true) (hi : i ∉ t.roster)
    (hr : t.floorLimit ≤ t.roster.length) (hp : t.floorPolicy = .displace) (hd : t.displaceable = some j) :
    grantFloorWork o t = (publishVisible t ((t.takeFloor j).giveFloor i).writeFloorHeader [j, i],
      { code := .displaced, a := o.seat, b := seatWord j }) := by
  rw [grantFloorWork, h]
  refine (if_neg (by rw [ha]; decide)).trans ((if_neg (by simpa using hi)).trans ((if_neg (Nat.not_lt.2 hr)).trans ?_))
  rw [hp, hd]

theorem displaceable_none (h : ∀ j ∈ t.roster, (t.seat j).ctx.priority = true ∨ (t.seat j).ctx.locked = true) : t.displaceable = none :=
  List.find?_eq_none.2 fun j hj => by
    rcases h j hj with h | h <;> simp [h]

theorem displaceable_some {before after : List Seat} (h : t.roster = before ++ j :: after)
    (hb : ∀ k ∈ before, (t.seat k).ctx.priority = true ∨ (t.seat k).ctx.locked = true) (hp : (t.seat j).ctx.priority = false)
    (hk : (t.seat j).ctx.locked = false) : t.displaceable = some j :=
  List.find?_eq_some_iff_append.2 ⟨by rw [hp, hk]; rfl, before, after, h, fun k hk' => by rcases hb k hk' with h | h <;> simp [h]⟩

/-- Settles O47: the seven cases of a grant. -/
theorem grantFloor : Obligations.GrantFloor := by
  unfold Obligations.GrantFloor
  intro s w o h hk hm hl hp answers
  obtain ⟨t, hw, hwork⟩ := order_works (work := grantFloorWork) h hm hl hk (by decide)
  have he := hw.entered
  have hexec : exec .grantFloor s = .next (workOrder kindGrantFloor grantFloorWork s) := rfl
  rw [hwork] at hexec
  have hlimit : t.floorLimit = s.floorLimit := by rw [he.frame]
  have hpolicy : t.floorPolicy = s.floorPolicy := by rw [he.frame]
  refine ⟨fun hr => answers_order h hl he hexec (grantFloorWork_out ((he.seatOf _).trans (seatOf_out hr))), fun i hi hseat => ?_⟩
  have hof := (he.seatOf _).trans (seatOf_named hi hseat)
  have full : (s.seat i).ctx.active = true → i ∉ s.roster → s.floorLimit ≤ s.roster.length → t.floorPolicy = .refuse ∨ t.displaceable = none →
      answers .floorFull (word s.floorLimit) := fun ha hn hr hd => by
    have hu := grantFloorWork_full hof (by rw [he.seat]; exact ha) (by rw [he.roster]; exact hn) (by rw [hlimit, he.roster]; exact hr) hd
    rw [hlimit] at hu
    exact answers_order h hl he hexec hu
  refine ⟨fun ha => ?_, fun ha hin => ?_, fun ha hn hr => ?_, fun ha hn hr href => ?_, fun ha hn hr hdis hall => ?_, fun before after j ha hn hr hdis hcons hjb hbefore hjp hjl hjo hja hjc => ?_⟩
  · exact answers_order h hl he hexec (grantFloorWork_inactive hof (by rw [he.seat]; exact ha))
  · have hu := grantFloorWork_already hof (by rw [he.seat]; exact ha) (by rw [he.roster]; exact hin)
    rw [he.roster] at hu
    exact answers_order h hl he hexec hu
  · have hx : (t.giveFloor i).roster = s.roster ++ [i] := by rw [giveFloor_roster, he.roster]
    have hpos : (t.giveFloor i).position i = s.roster.length + 1 := by
      rw [State.position, hx, List.idxOf_append_of_notMem hn]; simp
    rw [grantFloorWork_room hof (by rw [he.seat]; exact ha) (by rw [he.roster]; exact hn) (by rw [hlimit, he.roster]; exact hr), hpos] at hexec
    have hvis : ∀ j ∈ [i], ¬ SamePicture t (t.giveFloor i) j := fun j hj hs => by
      obtain rfl := List.mem_singleton.1 hj
      have := hs.onFloor.1 (by rw [hx]; simp)
      rw [he.roster] at this
      exact hn this
    have hord := floorOrder (code := .ok) (a := o.seat) (b := word (s.roster.length + 1)) h hl hw hp floorChange_giveFloor (List.nodup_singleton i) hvis
    have hone := floorSeat hord he hi issued_giveFloor
    exact ⟨_, hexec, hord.done, hord.roster.trans hx, hord.shown, hone.issued, hone.seat, hone.boardWrites, hone.seats, hone.links, hord.words,
      hord.frame⟩
  · exact full ha hn hr (.inl (hpolicy.trans href))
  · exact full ha hn hr (.inr (displaceable_none fun j hj => by rw [he.seat]; exact hall j (he.roster ▸ hj)))
  · have hij : i ≠ j := fun e => hn (by rw [hcons, e]; simp)
    have hd : t.displaceable = some j := displaceable_some (he.roster.trans hcons) (fun k hk => by rw [he.seat]; exact hbefore k hk)
      (by rw [he.seat]; exact hjp) (by rw [he.seat]; exact hjl)
    rw [grantFloorWork_displaces hof (by rw [he.seat]; exact ha) (by rw [he.roster]; exact hn) (by rw [hlimit, he.roster]; exact hr)
      (hpolicy.trans hdis) hd] at hexec
    have hx : ((t.takeFloor j).giveFloor i).roster = before ++ after ++ [i] := by
      rw [giveFloor_roster, takeFloor_roster, he.roster, hcons, List.erase_append_right _ hjb, List.erase_cons_head]
    obtain ⟨hissue, hseats, hlinks⟩ := issued_takeFloor (t := t) (i := j)
    obtain ⟨hissue', hseats', hlinks'⟩ := issued_giveFloor (t := t.takeFloor j) (i := i)
    have hpart := part_takeFloor (t := t) (i := j)
    have hchange := floorChange_takeFloor.trans (floorChange_giveFloor (t := t.takeFloor j) (i := i)) (t := t)
    generalize t.takeFloor j = u at *
    generalize u.giveFloor i = x at *
    have hvis : ∀ c ∈ [j, i], ¬ SamePicture t x c := fun c hc hs => by
      have hon := hs.onFloor
      rw [hx, he.roster] at hon
      rcases List.mem_pair.1 hc with rfl | rfl
      · have := hon.2 (by rw [hcons]; simp)
        simp only [List.mem_append, List.mem_singleton] at this
        exact this.elim (fun h => h.elim hjb hja) fun h => hij h.symm
      · exact hn (hon.1 (by simp))
    have hord := floorOrder (code := .displaced) (a := o.seat) (b := seatWord j) h hl hw hp hchange (is := [j, i]) (by simp [hij.symm]) hvis
    generalize (publishVisible t x.writeFloorHeader [j, i]).finishOrder _ _ = f at *
    have hlay := hord.layout
    have hui : u.seat i = s.seat i := (hseats i hij).trans (he.seat i)
    refine ⟨f, u, hexec, hord.done, hord.roster.trans hx, hord.shown,
      hissue.congr he.part.symm (he.seat j).symm (fun l => (he.link l).symm) rfl fun _ => rfl, fun l hl => ?_, hpart.trans he.part, hui,
      hissue'.congr rfl rfl (fun _ => rfl) (hord.channel i) hord.link, fun l hl => ?_, ?_, hord.seat_in (by simp) hi, ?_, fun c hc => ?_, hord.words, hord.frame⟩
    · rw [hlinks l (by rw [he.seat]; exact hl), he.link]
    · rw [hord.link, hlinks' l (by rw [hui]; exact hl)]
    · have := hord.seat_in (j := j) (by simp) hjc
      rw [this, hord.channel, hseats' j hij.symm]
    · rw [hord.boardWrites, orderWrites, List.filter_eq_self.2]
      · rfl
      · intro c hc
        rw [hlay, decide_eq_true_iff]
        rcases List.mem_pair.1 hc with rfl | rfl
        · exact hjc
        · exact hi
    · obtain ⟨hci, hcj⟩ := not_or.1 hc
      exact hord.seat_out (by simp [hci, hcj]) ((hseats' c hci).trans ((hseats c hcj).trans (he.seat c)))

end Sys2Proof.Machine
end

section
/-! PROOFS. An entry of the Warning Board and its writing (O41). -/
namespace Sys2Proof.Machine
open Sys2Proof

variable {s t u : State} {i j : Seat} {e : BoardEntry} {a n : Nat} {ws ws' : Nat → Option Word}

/-! Fields of a word (R183) -/

theorem word_toNat (h : n < 65536) : (word n).toNat = n := Nat.mod_eq_of_lt h

theorem word_bit (h : n < 65536) (k : Nat) : (word n).getLsbD k = decide (n / 2 ^ k % 2 = 1) := by
  rw [BitVec.getLsbD, word_toNat h, Nat.testBit_eq_decide_div_mod_eq]

theorem bit_le (b : Bool) : bit b ≤ 1 := by cases b <;> decide
theorem bit_iff {b : Bool} : bit b = 1 ↔ b = true := by cases b <;> decide

/-- The fields of the seat flags. -/
theorem flagFields {a b c d x y z v q : Nat} (ha : a ≤ 1) (hb : b ≤ 1) (hc : c ≤ 1) (hd : d ≤ 1) (hx : x ≤ 1) (hy : y ≤ 3) (hz : z ≤ 1)
    (hv : v ≤ 3) (hq : q ≤ 5) :
    let f := word (a + 2 * b + 4 * c + 8 * d + 16 * x + 32 * y + 128 * z + 256 * v + 1024 * q)
    (f.getLsbD 0 = true ↔ a = 1) ∧ (f.getLsbD 1 = true ↔ b = 1) ∧ (f.getLsbD 2 = true ↔ c = 1) ∧ (f.getLsbD 3 = true ↔ d = 1)
      ∧ (f.getLsbD 4 = true ↔ x = 1) ∧ f.toNat / 32 % 4 = y ∧ (f.getLsbD 7 = true ↔ z = 1) ∧ f.toNat / 256 % 4 = v ∧ f.toNat / 1024 = q := by
  intro f
  have hlt : a + 2 * b + 4 * c + 8 * d + 16 * x + 32 * y + 128 * z + 256 * v + 1024 * q < 65536 := by omega
  simp only [f, word_bit hlt, word_toNat hlt, decide_eq_true_iff, Nat.reducePow]
  refine ⟨?_, ?_, ?_, ?_, ?_, ?_, ?_, ?_, ?_⟩ <;> omega

/-- The board codes of a list of monitors, four bits each. -/
theorem codes_digit (ms : List Monitor) : (ms.foldr (fun m acc => m.state.code + 16 * acc) 0) < 16 ^ ms.length
    ∧ ∀ k (h : k < ms.length), (ms.foldr (fun m acc => m.state.code + 16 * acc) 0) / 16 ^ k % 16 = boardCode ms[k].state := by
  induction ms with
  | nil => exact ⟨by decide, fun k h => (nomatch h)⟩
  | cons m ms ih =>
    obtain ⟨hlt, hk⟩ := ih
    have hm : m.state.code ≤ 4 := by cases m.state <;> decide
    simp only [List.foldr_cons, List.length_cons]
    refine ⟨by rw [pow_succ]; omega, fun k h => ?_⟩
    cases k with
    | zero => rw [pow_zero, Nat.div_one, List.getElem_cons_zero, ← monitorCode_eq]; omega
    | succ k =>
      rw [pow_succ', ← Nat.div_div_eq_div_mul, List.getElem_cons_succ, ← hk k (by omega)]
      congr 2; omega

theorem codesWord_digit {ms : List Monitor} (h : ms.length = 4) {k : Nat} (hk : k < 4) :
    (codesWord ms).toNat / 16 ^ k % 16 = boardCode (ms[k]'(by omega)).state := by
  obtain ⟨hlt, hd⟩ := codes_digit ms
  rw [h] at hlt
  rw [codesWord, word_toNat hlt]
  exact hd k (by omega)

theorem wordOfBytes_toNat (x y : Nat) : (wordOfBytes x y).toNat = x % 256 + 256 * (y % 256) := word_toNat (by omega)

/-- The body of an entry spells the seat (R157, R183). -/
theorem entrySpelled (s : State) (i : Seat) : EntrySpelled s i (s.boardBody i) where
  length := rfl
  flags w hw := by
    cases hw
    have hin : bit (s.roster.contains i) = 1 ↔ i ∈ s.roster := bit_iff.trans (by simp)
    have hchannel : (s.seat i).channel.state.code = channelNumber (s.seat i).channel.state := by cases (s.seat i).channel.state <;> rfl
    have hsilence : (s.seat i).ctx.silence.code = silenceNumber (s.seat i).ctx.silence := by cases (s.seat i).ctx.silence <;> rfl
    have hintent : (s.seat i).channel.intent.code = 1 ↔ (s.seat i).channel.intent = .opened := by cases (s.seat i).channel.intent <;> decide
    have hattempt : (s.seat i).channel.attempt.code = 1 ↔ (s.seat i).channel.attempt = .second := by cases (s.seat i).channel.attempt <;> decide
    obtain ⟨h1, h2, h3, h4, h5, h6, h7, h8, h9⟩ := flagFields (bit_le (s.seat i).ctx.active) (bit_le (s.seat i).ctx.locked)
      (bit_le (s.seat i).ctx.priority) (bit_le (s.roster.contains i))
      (show (s.seat i).channel.intent.code ≤ 1 by cases (s.seat i).channel.intent <;> decide)
      (show (s.seat i).channel.state.code ≤ 3 by cases (s.seat i).channel.state <;> decide)
      (show (s.seat i).channel.attempt.code ≤ 1 by cases (s.seat i).channel.attempt <;> decide)
      (show (s.seat i).ctx.silence.code ≤ 3 by cases (s.seat i).ctx.silence <;> decide)
      (show (s.seat i).estimator.status.code ≤ 5 by cases (s.seat i).estimator.status <;> decide)
    refine ⟨Bool.eq_iff_iff.2 (h1.trans bit_iff), Bool.eq_iff_iff.2 (h2.trans bit_iff), Bool.eq_iff_iff.2 (h3.trans bit_iff), h4.trans hin,
      h5.trans hintent, h6.trans hchannel, h7.trans hattempt, h8.trans hsilence, h9.trans (statusCode_eq _)⟩
  codes k w hw := by
    have h8 : (s.seat i).monitors.toList.length = 8 := by simp
    by_cases hk : k.val < 4
    · have h0 : k.val / 4 = 0 := by omega
      rw [h0] at hw; cases hw
      rw [show k.val % 4 = k.val by omega, codesWord_digit (by simp) hk]
      simp
    · have h1 : k.val / 4 = 1 := by omega
      rw [h1] at hw; cases hw
      rw [codesWord_digit (by simp) (Nat.mod_lt _ (by decide))]
      simp [show 4 + k.val % 4 = k.val by omega]
  reps k w hw := by
    cases hw
    obtain ⟨hlt, hbit⟩ := maskWord (bs := (s.seat i).monitors.toList.map Monitor.rep) (by simp)
    have hmask : (word (maskOf ((s.seat i).monitors.toList.map Monitor.rep))).toNat = maskOf ((s.seat i).monitors.toList.map Monitor.rep) := by
      have := maskOf_lt ((s.seat i).monitors.toList.map Monitor.rep)
      exact word_toNat (Nat.lt_of_lt_of_le this (by simp))
    rw [hmask] at hlt
    have hb := hbit k
    rw [BitVec.getLsbD, hmask] at hb
    rw [BitVec.getLsbD, wordOfBytes_toNat, Nat.mod_eq_of_lt hlt, Nat.add_comm, Nat.testBit_two_pow_mul_add (i := 8) _ hlt, if_pos k.isLt, hb]
    simp
  onsets w hw := by cases hw; rw [wordOfBytes_toNat]; omega
  noSample h := by show some (wordOfBytes _ _) = _; rw [h]; rfl
  levels p w h hw := by
    cases hw
    rw [h, wordOfBytes_toNat]; rfl
  charge := by show some (boardCharge _) = _; unfold boardCharge; cases (s.seat i).estimator.status <;> rfl
  minutes := by show some (boardMinutes _) = _; unfold boardMinutes; cases (s.seat i).estimator.status <;> rfl
  noDropout h := by show some (word (dropoutLength _ _)) = _; unfold dropoutLength; rw [h]; rfl
  dropout d w h hw := by
    cases hw
    unfold dropoutLength; rw [h]; dsimp only
    rw [word_toNat (by omega)]
    unfold elapsed; split <;> omega
  changedAt w x hw hx := by
    cases hw; cases hx
    have := (s.seat i).board.changedAt.isLt
    simp only [lowHalf, highHalf, BitVec.toNat_ofNat]
    omega

/-! The words of a write (R156, R158) -/

theorem Wrote.trans (h : Wrote s t ws) (h' : Wrote t u ws') : Wrote s u fun a => (ws' a).or (ws a) where
  spells a := by rw [h'.spells, h.spells]; cases ws' a <;> rfl
  bad a := by rw [h'.bad, h.bad]; cases ws' a <;> rfl
  memory := h'.memory

/-- The words lo to hi of an entry, at their places from `base` on. -/
def entryWords (base : Nat) (e : BoardEntry) (stamp : Word) (lo hi : Nat) : Nat → Option Word := fun a =>
  if base + lo ≤ a ∧ a < base + hi then some (entryWord e stamp (a - base)) else none

/-- The stamp that a seat's write carries: it advances when the write begins. -/
def State.stampOf (s : State) (i : Seat) (e : BoardEntry) : Word := if e.written = 0 then (s.seat i).board.stamp + 1 else (s.seat i).board.stamp

/-- The write at its place in the queue of a seat's writes: no write before it is of the seat. -/
structure Waits (s : State) (i : Seat) (pre : List BoardEntry) (e : BoardEntry) (post : List BoardEntry) : Prop where
  place : s.boardWrites = pre ++ e :: post
  before : ∀ x ∈ pre, x.seat ≠ i
  seat : e.seat = i

theorem waits_of_find (h : s.boardWrites.find? (fun e => e.seat == i) = some e) : ∃ pre post, Waits s i pre e post := by
  obtain ⟨he, pre, post, hp, hpre⟩ := List.find?_eq_some_iff_append.1 h
  exact ⟨pre, post, hp, fun x hx => by simpa using hpre x hx, by simpa using he⟩

variable {pre post : List BoardEntry}

theorem Waits.find (h : Waits s i pre e post) : s.boardWrites.find? (fun e => e.seat == i) = some e :=
  List.find?_eq_some_iff_append.2 ⟨by simpa using h.seat, pre, post, h.place, fun x hx => by simpa using h.before x hx⟩

theorem Waits.not_before (h : Waits s i pre e post) : e ∉ pre := fun hm => h.before e hm h.seat

theorem Waits.erase (h : Waits s i pre e post) : s.boardWrites.erase e = pre ++ post := by
  rw [h.place, List.erase_append_right _ h.not_before, List.erase_cons_head]

theorem Waits.replace (h : Waits s i pre e post) (x : BoardEntry) : s.boardWrites.replace e x = pre ++ x :: post := by
  rw [h.place, List.replace_append_right h.not_before, List.replace_cons_self]

/-- The next word of a write put in its place, with the writes `b` waiting then. -/
def State.wordPut (s : State) (i : Seat) (e : BoardEntry) (b : List BoardEntry) : State :=
  { (s.setBoard i { (s.seat i).board with stamp := s.stampOf i e }).putWord (s.layout.boardAddr i + e.written) (entryWord e (s.stampOf i e) e.written) with
    boardWrites := b }

theorem boardWord_next (h : Waits s i pre e post) (hn : e.written < 11) :
    s.boardWord i = s.wordPut i e (pre ++ { e with written := e.written + 1 } :: post) := by
  rw [State.boardWord, h.find]; dsimp only
  rw [if_pos hn, State.wordPut, ← h.replace]; rfl

theorem boardWord_last (h : Waits s i pre e post) (hn : e.written = 11) :
    s.boardWord i = if e.change then (s.wordPut i e (pre ++ post)).offer i else s.wordPut i e (pre ++ post) := by
  rw [State.boardWord, h.find]; dsimp only
  rw [if_neg (by omega), State.wordPut, ← h.erase]; rfl

/-- What the words of a write from the next one up to `hi` leave. -/
structure EntryPut (s t : State) (i : Seat) (e : BoardEntry) (hi : Nat) (b : List BoardEntry) : Prop where
  frame : t = { s with seats := t.seats, boardWrites := b, ram := t.ram, badParity := t.badParity }
  seat : t.seat i = { s.seat i with board := { (s.seat i).board with stamp := s.stampOf i e } }
  seats : seatsKept s t (· = i)
  words : Wrote s t (entryWords (s.layout.boardAddr i) e (s.stampOf i e) e.written hi)

theorem entryPut_one (hm : s.memoryLaw) (ha : s.layout.boardAddr i + e.written < 16384) (b : List BoardEntry) :
    EntryPut s (s.wordPut i e b) i e (e.written + 1) b where
  frame := rfl
  seat := (seat_setBoard (s := s) _).trans (if_pos rfl)
  seats _ hj := (seat_setBoard (s := s) _).trans (if_neg hj)
  words := by
    have hw := ((Wrote.refl (s := s.setBoard i { (s.seat i).board with stamp := s.stampOf i e }) hm).put ha
      (entryWord e (s.stampOf i e) e.written)).from (u := s) rfl rfl
    have heq : Function.update (fun _ => none) (s.layout.boardAddr i + e.written) (some (entryWord e (s.stampOf i e) e.written))
        = entryWords (s.layout.boardAddr i) e (s.stampOf i e) e.written (e.written + 1) := funext fun a => by
      rw [Function.update_apply, entryWords]
      by_cases h : a = s.layout.boardAddr i + e.written
      · rw [if_pos h, if_pos (by omega), show a - s.layout.boardAddr i = e.written by omega]
      · rw [if_neg h, if_neg (by omega)]
    rw [heq] at hw
    exact hw.congr rfl rfl

/-- The words of a write, put one after another. -/
theorem boardWords_put (n : Nat) : ∀ {s : State} {e : BoardEntry}, Waits s i pre e post → s.memoryLaw → s.layout.boardAddr i + 12 ≤ 16384 → e.written + n = 11 →
    ∃ t, EntryPut s t i e 12 (pre ++ post) ∧ State.boardWords i (n + 1) s = if e.change then t.offer i else t := by
  induction n with
  | zero =>
    intro s e h hm hb hn
    have hput := entryPut_one (i := i) (e := e) hm (by omega) (pre ++ post)
    rw [show e.written + 1 = 12 by omega] at hput
    exact ⟨_, hput, boardWord_last h (by omega)⟩
  | succ n ih =>
    intro s e h hm hb hn
    have hput := entryPut_one (i := i) (e := e) hm (by omega) (pre ++ { e with written := e.written + 1 } :: post)
    have hnext := boardWord_next h (by omega)
    generalize s.wordPut i e (pre ++ { e with written := e.written + 1 } :: post) = u at *
    have hlay : u.layout = s.layout := by rw [hput.frame]
    have hstamp : u.stampOf i { e with written := e.written + 1 } = s.stampOf i e := by
      rw [State.stampOf, if_neg (Nat.succ_ne_zero _), hput.seat]
    obtain ⟨t, ht, hwords⟩ := ih (s := u) (e := { e with written := e.written + 1 }) ⟨by rw [hput.frame], h.before, h.seat⟩ hput.words.memory
      (by rw [hlay]; exact hb) (by show e.written + 1 + n = 11; omega)
    refine ⟨t, ⟨?_, ?_, fun j hj => (ht.seats j hj).trans (hput.seats j hj), ?_⟩, by rw [State.boardWords, hnext]; exact hwords⟩
    · conv_lhs => rw [ht.frame, hput.frame]
    · rw [ht.seat, hstamp, hput.seat]
    · have hw := hput.words.trans ht.words
      rw [hstamp, hlay] at hw
      have heq : (fun a => (entryWords (s.layout.boardAddr i) { e with written := e.written + 1 } (s.stampOf i e) (e.written + 1) 12 a).or
          (entryWords (s.layout.boardAddr i) e (s.stampOf i e) e.written (e.written + 1) a))
          = entryWords (s.layout.boardAddr i) e (s.stampOf i e) e.written 12 := funext fun a => by
        unfold entryWords
        by_cases h1 : s.layout.boardAddr i + (e.written + 1) ≤ a ∧ a < s.layout.boardAddr i + 12
        · rw [if_pos h1, Option.some_or, if_pos (by omega)]; rfl
        · rw [if_neg h1, Option.none_or]
          by_cases h2 : s.layout.boardAddr i + e.written ≤ a ∧ a < s.layout.boardAddr i + (e.written + 1)
          · rw [if_pos h2, if_pos (by omega)]
          · rw [if_neg h2, if_neg (by omega)]
      rw [← heq]; exact hw

/-! The regions of a sound layout -/

theorem pairwise_of_allApart : ∀ {rs : List (Nat × Nat)}, allApart rs = true → rs.Pairwise fun r r' => r.1 + r.2 ≤ r'.1 ∨ r'.1 + r'.2 ≤ r.1
  | [], _ => List.Pairwise.nil
  | r :: rs, h => by
    obtain ⟨h1, h2⟩ := Bool.and_eq_true_iff.1 h
    refine List.pairwise_cons.2 ⟨fun r' hr' => ?_, pairwise_of_allApart h2⟩
    simpa [apart] using List.all_eq_true.1 h1 r' hr'

theorem regions_apart (hl : s.layoutSound) : s.regions.Pairwise fun r r' => r.1 + r.2 ≤ r'.1 ∨ r'.1 + r'.2 ≤ r.1 := pairwise_of_allApart hl.2

/-- The list's region and the Board stand behind the header, in the RAM, and apart. -/
theorem list_region (hl : s.layoutSound) (hc : 1 ≤ s.capacity) : 256 ≤ s.layout.changeList ∧ s.layout.changeList + s.capacity ≤ 16384
    ∧ (s.layout.board + s.layout.seatCount * 12 ≤ s.layout.changeList ∨ s.layout.changeList + s.capacity ≤ s.layout.board) := by
  have hp := regions_apart hl
  have hf := hl.1 (s.layout.changeList, s.capacity) (by simp [State.regions])
  simp only [State.regions, List.pairwise_cons, List.mem_cons, forall_eq_or_imp] at hp
  obtain ⟨⟨-, -, h1, -⟩, -, ⟨h2, -⟩, -⟩ := hp
  simp only [ramWords] at hf
  omega

theorem board_region (hl : s.layoutSound) (hc : 1 ≤ s.layout.seatCount) : 256 ≤ s.layout.board ∧ s.layout.board + s.layout.seatCount * 12 ≤ 16384 := by
  have hp := regions_apart hl
  have hf := hl.1 (s.layout.board, s.layout.seatCount * 12) (by simp [State.regions])
  simp only [State.regions, List.pairwise_cons, List.mem_cons, forall_eq_or_imp] at hp
  obtain ⟨⟨-, h1, -⟩, -⟩ := hp
  simp only [ramWords] at hf
  omega

/-! A seat offered (R159, R160) -/

/-- The words that an append writes. -/
def appendWords (spot : Nat) (i : Seat) (fill : Word) : Nat → Option Word :=
  Function.update (Function.update (fun _ => none) spot (some (seatWord i))) 38 (some fill)

/-- A seat at the write position of the list, the header not yet written. -/
def State.atTail (s : State) (i : Seat) : State :=
  { (s.putWord (s.layout.changeList + s.writePos) (seatWord i)).setBoard i { (s.seat i).board with listed := true } with
    changeList := s.changeList ++ [i], writePos := (s.writePos + 1) % s.capacity, fillCount := s.fillCount + 1 }

theorem appendChange_eq : s.appendChange i = ((if s.changeList.isEmpty then s.raise .changes else s).atTail i).writeFill := by
  unfold State.appendChange; dsimp only; split <;> rfl

theorem appendChange_wrote (hm : s.memoryLaw) (ha : s.layout.changeList + s.writePos < 16384) :
    Wrote s (s.appendChange i) (appendWords (s.layout.changeList + s.writePos) i (s.fillCount + 1)) := by
  have tail : ∀ u : State, u.ram = s.ram → u.badParity = s.badParity → u.layout = s.layout → u.writePos = s.writePos → u.fillCount = s.fillCount →
      Wrote s (u.atTail i).writeFill (appendWords (s.layout.changeList + s.writePos) i (s.fillCount + 1)) := fun u h1 h2 h3 h4 h5 => by
    have hspot := ((Wrote.refl hm).congr h1 h2).put ha (seatWord i)
    have htail : Wrote s (u.atTail i) _ := hspot.congr (by rw [← h3, ← h4]; rfl) (by rw [← h3, ← h4]; rfl)
    rw [← h5]
    exact htail.put (a := 38) (by decide) (u.fillCount + 1)
  rw [appendChange_eq]
  split
  · exact tail _ rfl rfl rfl rfl rfl
  · exact tail _ rfl rfl rfl rfl rfl

theorem appendChange_frame : s.appendChange i = { s with
    changeList := s.changeList ++ [i], writePos := (s.writePos + 1) % s.capacity, fillCount := s.fillCount + 1,
    seats := (s.appendChange i).seats, causes := if s.changeList.isEmpty then s.causes ||| causeBit .changes else s.causes,
    ram := (s.appendChange i).ram, badParity := (s.appendChange i).badParity } := by
  unfold State.appendChange; split <;> rfl

/-- What an append to the list leaves. -/
structure Appended (s t : State) (i : Seat) : Prop where
  changeList : t.changeList = s.changeList ++ [i]
  writePos : t.writePos = (s.writePos + 1) % s.capacity
  fillCount : t.fillCount = s.fillCount + 1
  first : s.changeList = [] → raised s t .changes
  later : s.changeList ≠ [] → t.causes = s.causes
  seat : t.seat i = { s.seat i with board := { (s.seat i).board with listed := true } }
  seats : seatsKept s t (· = i)
  words : Wrote s t (appendWords (s.layout.changeList + s.writePos) i (s.fillCount + 1))
  frame : t = { s with
    changeList := t.changeList, writePos := t.writePos, fillCount := t.fillCount, seats := t.seats, causes := t.causes, ram := t.ram,
    badParity := t.badParity }

theorem appended (hm : s.memoryLaw) (ha : s.layout.changeList + s.writePos < 16384) : Appended s (s.appendChange i) i := by
  have hf := appendChange_frame (s := s) (i := i)
  have hseat := fun j => seat_appendChange (s := s) (i := i) (j := j)
  have hw := appendChange_wrote (i := i) hm ha
  generalize s.appendChange i = t at *
  have hcauses : t.causes = if s.changeList.isEmpty then s.causes ||| causeBit .changes else s.causes := by rw [hf]
  refine ⟨by rw [hf], by rw [hf], by rw [hf], fun h => ?_, fun h => ?_, by rw [hseat, if_pos rfl], fun j hj => by rw [hseat, if_neg hj], hw, ?_⟩
  · have hr := raised_raise (s := s) .changes
    rw [if_pos (by rw [h]; rfl)] at hcauses
    have hset : ∀ c, t.causeSet c = (s.raise .changes).causeSet c := fun c => by rw [State.causeSet, hcauses]; rfl
    exact ⟨(hset _).trans hr.1, fun d hd => (hset d).trans (hr.2 d hd)⟩
  · rw [hcauses, if_neg (by simpa using h)]
  · rw [show t.changeList = s.changeList ++ [i] by rw [hf], show t.writePos = (s.writePos + 1) % s.capacity by rw [hf],
      show t.fillCount = s.fillCount + 1 by rw [hf], hcauses]
    exact hf

/-- What an offer of a seat leaves, by the flags of the seat. -/
structure Offered (s t : State) (i : Seat) (appends owes : Prop) : Prop where
  append : appends → t.changeList = s.changeList ++ [i] ∧ t.writePos = (s.writePos + 1) % s.capacity ∧ t.fillCount = s.fillCount + 1
  same : ¬ appends → t.changeList = s.changeList ∧ t.writePos = s.writePos ∧ t.fillCount = s.fillCount
  owe : owes → t.owedCount = s.owedCount + 1
  notOwed : ¬ owes → t.owedCount = s.owedCount
  first : appends → s.changeList = [] → raised s t .changes
  quiet : ¬ (appends ∧ s.changeList = []) → t.causes = s.causes
  seats : seatsKept s t (· = i)
  spot : appends → t.readWord (s.layout.changeList + s.writePos) = seatWord i ∧ t.readWord 38 = t.fillCount
  owedWord : owes → t.readWord 37 = word t.owedCount
  kept : wordsKept s t fun a => appends ∧ (a = s.layout.changeList + s.writePos ∨ a = 38) ∨ owes ∧ a = 37
  frame : t = { s with
    seats := t.seats, changeList := t.changeList, writePos := t.writePos, fillCount := t.fillCount, owedCount := t.owedCount,
    causes := t.causes, ram := t.ram, badParity := t.badParity }

/-- An offer that leaves the list alone. -/
theorem offered_kept {x : BoardSeat} : Offered s (s.setBoard i x) i False False where
  append := False.elim
  same _ := ⟨rfl, rfl, rfl⟩
  owe := False.elim
  notOwed _ := rfl
  first := False.elim
  quiet _ := rfl
  seats _ hj := (seat_setBoard (s := s) _).trans (if_neg hj)
  spot := False.elim
  owedWord := False.elim
  kept _ _ := ⟨rfl, rfl⟩
  frame := rfl

theorem offered_appended (h : Appended s t i) (h38 : 38 < s.layout.changeList + s.writePos) : Offered s t i True False where
  append _ := ⟨h.changeList, h.writePos, h.fillCount⟩
  same hn := absurd trivial hn
  owe := False.elim
  notOwed _ := by rw [h.frame]
  first _ := h.first
  quiet hn := h.later fun he => hn ⟨trivial, he⟩
  seats := h.seats
  spot _ := ⟨h.words.written (by rw [appendWords, Function.update_of_ne (by omega), Function.update_self]),
    by rw [h.fillCount]; exact h.words.written (by rw [appendWords, Function.update_self])⟩
  owedWord := False.elim
  kept := h.words.kept fun a ha => by
    have ha : a ≠ s.layout.changeList + s.writePos ∧ a ≠ 38 := by simpa [not_or] using ha
    rw [appendWords, Function.update_of_ne ha.2, Function.update_of_ne ha.1]
  frame := by
    have ho : t.owedCount = s.owedCount := by rw [h.frame]
    rw [ho]; exact h.frame

/-- The seat is owed, and counted so. -/
def State.owe (s : State) (i : Seat) : State :=
  State.writeOwed { (s.setBoard i { (s.seat i).board with owed := true }) with owedCount := s.owedCount + 1 }

theorem owe_frame : s.owe i = { s with
    seats := (s.owe i).seats, owedCount := s.owedCount + 1, ram := (s.owe i).ram, badParity := (s.owe i).badParity } := rfl

theorem seat_owe : (s.owe i).seat j = if j = i then { s.seat i with board := { (s.seat i).board with owed := true } } else s.seat j :=
  seat_setBoard (s := s) _

theorem offered_owe (hm : s.memoryLaw) : Offered s (s.owe i) i False True := by
  have hw : Wrote s (s.owe i) (Function.update (fun _ => none) 37 (some (word (s.owedCount + 1)))) :=
    ((Wrote.refl hm).congr (u := { (s.setBoard i { (s.seat i).board with owed := true }) with owedCount := s.owedCount + 1 }) rfl rfl).put (a := 37) (by decide) _
  have hs := fun j => seat_owe (s := s) (i := i) (j := j)
  have hf := owe_frame (s := s) (i := i)
  generalize s.owe i = t at *
  have ho : t.owedCount = s.owedCount + 1 := by rw [hf]
  exact {
    append := False.elim
    same := fun _ => ⟨by rw [hf], by rw [hf], by rw [hf]⟩
    owe := fun _ => ho
    notOwed := fun h => absurd trivial h
    first := False.elim
    quiet := fun _ => by rw [hf]
    seats := fun j hj => by rw [hs, if_neg hj]
    spot := False.elim
    owedWord := fun _ => by rw [ho]; exact hw.written (Function.update_self _ _ _)
    kept := hw.kept fun a ha => Function.update_of_ne (by simpa using ha) _ _
    frame := by
      rw [ho, show t.changeList = s.changeList by rw [hf], show t.writePos = s.writePos by rw [hf],
        show t.fillCount = s.fillCount by rw [hf], show t.causes = s.causes by rw [hf]]
      exact hf }

theorem offered_same : Offered s s i False False where
  append := False.elim
  same _ := ⟨rfl, rfl, rfl⟩
  owe := False.elim
  notOwed _ := rfl
  first := False.elim
  quiet _ := rfl
  seats _ _ := rfl
  spot := False.elim
  owedWord := False.elim
  kept _ _ := ⟨rfl, rfl⟩
  frame := rfl

theorem Offered.of_iff {p q p' q' : Prop} (h : Offered s t i p q) (hp : p ↔ p') (hq : q ↔ q') : Offered s t i p' q' := by
  rw [← propext hp, ← propext hq]; exact h

/-- The seat is appended by an offer. -/
abbrev State.appends (s : State) (i : Seat) : Prop := (s.seat i).board.listed = false ∧ (s.seat i).board.owed = false ∧ s.changeList.length < s.capacity
/-- The seat is owed by an offer. -/
abbrev State.owes (s : State) (i : Seat) : Prop := (s.seat i).board.listed = false ∧ (s.seat i).board.owed = false ∧ s.changeList.length = s.capacity

theorem offered (hm : s.memoryLaw) (hshort : s.changeList.length ≤ s.capacity) (hpos : s.writePos < s.capacity) (h256 : 256 ≤ s.layout.changeList)
    (hfit : s.layout.changeList + s.capacity ≤ 16384) : Offered s (s.offer i) i (s.appends i) (s.owes i)
      ∧ (s.offer i).seat i = { s.seat i with board := { (s.seat i).board with
          listed := (s.seat i).board.listed || decide (s.appends i)
          owed := (s.seat i).board.owed || decide (s.owes i)
          relistDue := (s.seat i).board.relistDue || (s.seat i).board.listed } } := by
  have never : ∀ {p : Prop}, ¬ p → (False ↔ p) := fun h => (iff_false_intro h).symm
  by_cases hl : (s.seat i).board.listed = true
  · have hna : ¬ s.appends i := fun h => by rw [h.1] at hl; cases hl
    have hno : ¬ s.owes i := fun h => by rw [h.1] at hl; cases hl
    rw [offer_listed hl]
    refine ⟨offered_kept.of_iff (never hna) (never hno), ?_⟩
    rw [seat_setBoard, if_pos rfl, decide_eq_false hna, decide_eq_false hno, hl]
    simp [hl]
  have hl : (s.seat i).board.listed = false := by simpa using hl
  by_cases ho : (s.seat i).board.owed = true
  · have hna : ¬ s.appends i := fun h => by rw [h.2.1] at ho; cases ho
    have hno : ¬ s.owes i := fun h => by rw [h.2.1] at ho; cases ho
    rw [offer_owed hl ho]
    refine ⟨offered_same.of_iff (never hna) (never hno), ?_⟩
    have hdue : ((s.seat i).board.relistDue || (s.seat i).board.listed) = (s.seat i).board.relistDue := by rw [hl, Bool.or_false]
    rw [decide_eq_false hna, decide_eq_false hno, hdue, Bool.or_false, Bool.or_false]
  have ho : (s.seat i).board.owed = false := by simpa using ho
  by_cases hr : s.changeList.length < s.capacity
  · have ha : s.appends i := ⟨hl, ho, hr⟩
    have hno : ¬ s.owes i := fun h => by have := h.2.2; omega
    rw [offer_room hl ho hr]
    have happ := appended (i := i) hm (by omega)
    refine ⟨(offered_appended happ (by omega)).of_iff (iff_of_true trivial ha) (never hno), ?_⟩
    rw [happ.seat, decide_eq_true ha, decide_eq_false hno, hl]; simp
  · have hna : ¬ s.appends i := fun h => hr h.2.2
    have hoo : s.owes i := ⟨hl, ho, by omega⟩
    rw [offer_full hl ho hr]
    refine ⟨(offered_owe hm).of_iff (never hna) (iff_of_true trivial hoo), ?_⟩
    refine (seat_owe (s := s)).trans ?_
    rw [if_pos rfl, decide_eq_false hna, decide_eq_true hoo, hl, ho]; simp [hl]

theorem finishBoardWrite_none (h : ∀ e ∈ s.boardWrites, e.seat ≠ i) : s.finishBoardWrite i = s := by
  rw [State.finishBoardWrite, List.find?_eq_none.2 fun e he => by simpa using h e he]

theorem exec_boardWrite (i : Seat) (s : State) : exec (.boardWrite i) s
    = .next (if s.part = .running ∨ s.part = .stopping then s.finishBoardWrite i else s) := rfl

/-- Settles O41: the words of the write, and the offer of a change write's seat. -/
theorem boardWriteOffersSeat : Obligations.BoardWriteOffersSeat := by
  unfold Obligations.BoardWriteOffersSeat
  intro s i b
  refine ⟨entrySpelled s i, fun e hp hfind hwritten hm hlaw hl hi => ?_, fun h => ?_⟩
  · obtain ⟨pre, post, hwait⟩ := waits_of_find hfind
    obtain ⟨hsound, -⟩ := changeListLaw_iff.1 hlaw
    have hcap := hsound.bounds.1
    obtain ⟨hlist, hfit, hapart⟩ := list_region hl (by omega)
    obtain ⟨hb256, hbfit⟩ := board_region hl (by omega)
    have haddr : s.layout.boardAddr i = s.layout.board + 12 * i.val := rfl
    have hexec := exec_boardWrite i s
    rw [if_pos hp, State.finishBoardWrite, hwait.find] at hexec
    dsimp only at hexec
    obtain ⟨u, hput, hwords⟩ := boardWords_put (11 - e.written) hwait hm (by omega) (by omega)
    rw [show 12 - e.written = 11 - e.written + 1 by omega, hwords] at hexec
    have hstamp : (if e.written = 0 then b.stamp + 1 else b.stamp) = s.stampOf i e := rfl
    have hulist : u.changeList = s.changeList := by rw [hput.frame]
    have hucap : u.capacity = s.capacity := by rw [hput.frame]
    have hupos : u.writePos = s.writePos := by rw [hput.frame]
    have hulay : u.layout = s.layout := by rw [hput.frame]
    have hufill : u.fillCount = s.fillCount := by rw [hput.frame]
    have huowed : u.owedCount = s.owedCount := by rw [hput.frame]
    have hucauses : u.causes = s.causes := by rw [hput.frame]
    have huflags : (u.seat i).board.listed = b.listed ∧ (u.seat i).board.owed = b.owed ∧ (u.seat i).board.relistDue = b.relistDue := by
      rw [hput.seat]; exact ⟨rfl, rfl, rfl⟩
    have hset : ∀ c, u.causeSet c = s.causeSet c := fun c => by rw [State.causeSet, hucauses]; rfl
    obtain ⟨t, ht, ho, hseat⟩ : ∃ t, exec (.boardWrite i) s = .next t
        ∧ Offered u t i (e.change = true ∧ u.appends i) (e.change = true ∧ u.owes i)
        ∧ t.seat i = { u.seat i with board := { (u.seat i).board with
            listed := (u.seat i).board.listed || decide (e.change = true ∧ u.appends i)
            owed := (u.seat i).board.owed || decide (e.change = true ∧ u.owes i)
            relistDue := (u.seat i).board.relistDue || (e.change && (u.seat i).board.listed) } } := by
      refine ⟨_, hexec, ?_⟩
      cases hc : e.change with
      | false =>
        refine ⟨offered_same.of_iff (iff_of_false id fun h => by cases h.1) (iff_of_false id fun h => by cases h.1), ?_⟩
        simp
      | true =>
        obtain ⟨h1, h2⟩ := offered (i := i) hput.words.memory (by rw [hulist, hucap]; exact hsound.short) (by rw [hupos, hucap]; exact hsound.pos)
          (by rw [hulay]; exact hlist) (by rw [hulay, hucap]; exact hfit)
        refine ⟨h1.of_iff (and_iff_right rfl).symm (and_iff_right rfl).symm, h2.trans ?_⟩
        simp only [true_and, Bool.true_and]
    unfold State.appends State.owes at ho hseat
    rw [huflags.1, huflags.2.1, hulist, hucap] at ho
    rw [huflags.1, huflags.2.1, huflags.2.2, hulist, hucap] at hseat
    have hspot : s.layout.changeList + s.writePos < s.layout.changeList + s.capacity := Nat.add_lt_add_left hsound.pos _
    refine ⟨t, ht, fun k h1 h2 => ?_, ?_, ?_, fun h => ?_, fun h => ?_, fun h => ⟨?_, ?_⟩, fun h => ?_, fun h hn => ?_, fun h => ?_, fun j hj => ?_, ?_, ?_⟩
    · have hout : u.readWord (s.layout.board + 12 * i.val + k) = entryWord e (s.stampOf i e) k := by
        refine hput.words.written ?_
        rw [entryWords, haddr, if_pos (by omega), Nat.add_sub_cancel_left]
      rw [(ho.kept _ ?_).1, hout]
      · rfl
      · rw [hulay, hupos]; omega
    · rw [ho.frame, hwait.erase, hput.frame]
    · rw [hseat, hput.seat]; rfl
    · obtain ⟨g1, g2, g3⟩ := ho.append h
      obtain ⟨g4, g5⟩ := ho.spot h
      rw [hulay, hupos] at g4
      exact ⟨by rw [g1, hulist], g4, by rw [g2, hupos, hucap], by rw [g3, hufill], g5⟩
    · obtain ⟨g1, g2, g3⟩ := ho.same h
      exact ⟨g1.trans hulist, g2.trans hupos, g3.trans hufill⟩
    · rw [ho.owe h, huowed]
    · exact ho.owedWord h
    · rw [ho.notOwed h, huowed]
    · obtain ⟨g1, g2⟩ := ho.first h (hulist.trans hn)
      exact ⟨g1, fun d hd => (g2 d hd).trans (hset d)⟩
    · rw [ho.quiet (by rw [hulist]; exact h), hucauses]
    · rw [ho.seats j hj, hput.seats j hj]
    · refine ((hput.words.kept (q := fun a => s.layout.board + 12 * i.val + e.written ≤ a ∧ a ≤ s.layout.board + 12 * i.val + 11) fun a ha => ?_).trans ho.kept).mono
        fun a ha => ?_
      · exact if_neg (by rw [haddr]; omega)
      · rw [hulay, hupos] at ha
        exact ha
    · conv_lhs => rw [ho.frame, hput.frame]
      rw [show t.boardWrites = pre ++ post by rw [ho.frame, hput.frame]]
  · rw [exec_boardWrite]
    by_cases hp : s.part = .running ∨ s.part = .stopping
    · rw [if_pos hp, finishBoardWrite_none (h.resolve_right (not_not.2 hp))]
    · rw [if_neg hp]

end Sys2Proof.Machine
end

section
/-! PROOFS. The release of entries of the change list by a taken count (O28). -/
namespace Sys2Proof.Machine
open Sys2Proof

variable {s t u : State} {i j : Seat} {n k : Nat} {p q : Nat → Prop} {added more : List Seat}

/-! Appends, one after another -/

/-- The place in the RAM of the k-th entry appended from `s` on. -/
def State.spot (s : State) (k : Nat) : Nat := s.layout.changeList + (s.writePos + k) % s.capacity

/-- The list's region stands behind the header and in the RAM, and the write position in it. -/
structure State.ListPlaced (s : State) : Prop where
  header : 256 ≤ s.layout.changeList
  fits : s.layout.changeList + s.capacity ≤ 16384
  pos : s.writePos < s.capacity

/-- These seats have been appended to the list, in this order; of the words outside the list's region only those that `p` names
and the fill count are changed. -/
structure Appends (s t : State) (added : List Seat) (p : Nat → Prop) : Prop where
  pos : t.writePos = (s.writePos + added.length) % s.capacity
  fill : t.fillCount = s.fillCount + word added.length
  capacity : t.capacity = s.capacity
  layout : t.layout = s.layout
  spots : ∀ k (h : k < added.length), t.readWord (s.spot k) = seatWord added[k]
  head : added ≠ [] → t.readWord 38 = t.fillCount
  kept : wordsKept s t fun a => p a ∨ a = 38 ∧ added ≠ [] ∨ ∃ k < added.length, a = s.spot k
  causes : ∀ c, c ≠ .changes → t.causeSet c = s.causeSet c
  quiet : added = [] → t.causes = s.causes
  memory : t.memoryLaw

theorem Appends.placed (h : Appends s t added p) (hs : s.ListPlaced) : t.ListPlaced where
  header := by rw [h.layout]; exact hs.header
  fits := by rw [h.layout, h.capacity]; exact hs.fits
  pos := by rw [h.pos, h.capacity]; exact Nat.mod_lt _ (Nat.zero_lt_of_lt hs.pos)

theorem Appends.spot_next (h : Appends s t added p) (k : Nat) : t.spot k = s.spot (added.length + k) := by
  rw [State.spot, State.spot, h.pos, h.capacity, h.layout, Nat.mod_add_mod, Nat.add_assoc]

theorem spot_ne (hk : k < n) (hn : n < s.capacity) : s.spot k ≠ s.spot n := fun e => by
  have h : (s.writePos + k) % s.capacity = (s.writePos + n) % s.capacity := by unfold State.spot at e; omega
  have h' := Nat.ModEq.add_left_cancel' s.writePos (show s.writePos + k ≡ s.writePos + n [MOD s.capacity] from h)
  rw [Nat.ModEq, Nat.mod_eq_of_lt (by omega), Nat.mod_eq_of_lt hn] at h'
  omega

theorem spot_header (hs : s.ListPlaced) (k : Nat) : 256 ≤ s.spot k := Nat.le_add_right_of_le hs.header

theorem Appends.trans (h : Appends s t added p) (h' : Appends t u more q) (hs : s.ListPlaced) (hlen : (added ++ more).length ≤ s.capacity)
    (hq : ∀ a, q a → a < 256 ∧ a ≠ 38) : Appends s u (added ++ more) fun a => p a ∨ q a := by
  rw [List.length_append] at hlen
  have hstay : ∀ a, ¬ q a → a ≠ 38 → (∀ k < more.length, a ≠ s.spot (added.length + k)) → u.readWord a = t.readWord a := fun a h1 h2 h3 =>
    (h'.kept a (by
      rintro (hh | hh | ⟨k, hk, hh⟩)
      · exact h1 hh
      · exact h2 hh.1
      · rw [h.spot_next] at hh; exact h3 k hk hh)).1
  refine ⟨?_, ?_, h'.capacity.trans h.capacity, h'.layout.trans h.layout, fun k hk => ?_, fun hne => ?_, ?_, fun c hc => (h'.causes c hc).trans (h.causes c hc),
    fun he => ?_, h'.memory⟩
  · rw [h'.pos, h.pos, h.capacity, Nat.mod_add_mod, List.length_append, Nat.add_assoc]
  · rw [h'.fill, h.fill, List.length_append, word, word, word, BitVec.ofNat_add]; ac_rfl
  · by_cases hka : k < added.length
    · rw [List.getElem_append_left hka, ← h.spots k hka]
      have h256 := spot_header hs k
      exact hstay _ (fun hh => by have := hq _ hh; omega) (by omega) fun m hm => spot_ne (by omega) (by omega)
    · rw [List.length_append] at hk
      rw [List.getElem_append_right (by omega), ← h'.spots (k - added.length) (by omega), h.spot_next, Nat.add_sub_cancel' (by omega)]
  · by_cases hm : more = []
    · have ha : added ≠ [] := fun e => hne (by rw [e, hm]; rfl)
      have hf : u.fillCount = t.fillCount := by rw [h'.fill, hm]; simp [word]
      rw [(h'.kept 38 ?_).1, hf]
      · exact h.head ha
      · rintro (hh | hh | ⟨k, hk, -⟩)
        · exact (hq _ hh).2 rfl
        · exact hh.2 hm
        · rw [hm] at hk; exact absurd hk (Nat.not_lt_zero k)
    · exact h'.head hm
  · refine (h.kept.trans h'.kept).mono fun a ha => ?_
    rcases ha with (hh | ⟨hh, hne⟩ | ⟨k, hk, hh⟩) | (hh | ⟨hh, hne⟩ | ⟨k, hk, hh⟩)
    · exact .inl (.inl hh)
    · exact .inr (.inl ⟨hh, by simp [hne]⟩)
    · exact .inr (.inr ⟨k, by rw [List.length_append]; omega, hh⟩)
    · exact .inl (.inr hh)
    · exact .inr (.inl ⟨hh, by simp [hne]⟩)
    · exact .inr (.inr ⟨added.length + k, by rw [List.length_append]; omega, by rw [hh, h.spot_next]⟩)
  · obtain ⟨rfl, rfl⟩ := List.append_eq_nil_iff.1 he
    exact (h'.quiet rfl).trans (h.quiet rfl)

theorem Appends.mono (h : Appends s t added p) (hq : ∀ a, p a → q a) : Appends s t added q :=
  { h with kept := h.kept.mono fun _ ha => ha.imp_left (hq _) }

/-- Nothing is appended where the counts, the causes and the words but those that `p` names stay. -/
theorem appends_nil (h1 : t.writePos = s.writePos) (h2 : t.fillCount = s.fillCount) (h3 : t.capacity = s.capacity) (h4 : t.layout = s.layout)
    (h5 : t.causes = s.causes) (hs : s.ListPlaced) (hk : wordsKept s t p) (hm : t.memoryLaw) : Appends s t [] p where
  pos := by rw [h1]; exact (Nat.mod_eq_of_lt hs.pos).symm
  fill := by rw [h2]; simp [word]
  capacity := h3
  layout := h4
  spots _ h := absurd h (Nat.not_lt_zero _)
  head h := absurd rfl h
  kept := hk.mono fun _ ha => .inl ha
  causes c _ := by rw [State.causeSet, h5]; rfl
  quiet _ := h5
  memory := hm

theorem Appended.appends (h : Appended s t i) (hs : s.ListPlaced) : Appends s t [i] fun _ => False := by
  have hspot : s.layout.changeList + s.writePos = s.spot 0 := by rw [State.spot, Nat.add_zero, Nat.mod_eq_of_lt hs.pos]
  have h256 := spot_header hs 0
  have hw := h.words
  rw [hspot] at hw
  refine ⟨h.writePos, h.fillCount, by rw [h.frame], by rw [h.frame], fun k hk => ?_, fun _ => ?_, hw.kept fun a ha => ?_, fun c hc => ?_, fun he => (nomatch he), hw.memory⟩
  · obtain rfl : k = 0 := by simpa using hk
    exact hw.written (by rw [appendWords, Function.update_of_ne (by omega), Function.update_self]; rfl)
  · rw [h.fillCount]; exact hw.written (by rw [appendWords, Function.update_self])
  · have ha := not_or.1 ha
    have ha' := not_or.1 ha.2
    rw [appendWords, Function.update_of_ne fun e => ha'.1 ⟨e, by simp⟩, Function.update_of_ne fun e => ha'.2 ⟨0, by simp, e⟩]
  · by_cases he : s.changeList = []
    · exact (h.first he).2 c hc
    · rw [State.causeSet, h.later he]; rfl

/-! The release (R161, step 2) -/

/-- What the list's share of a state and its words are, and nothing else, in which t differs from s. -/
def ListFrame (s t : State) : Prop := t = { s with
  changeList := t.changeList, takenCount := t.takenCount, fillCount := t.fillCount, owedCount := t.owedCount, writePos := t.writePos,
  seats := t.seats, ram := t.ram, badParity := t.badParity, causes := t.causes, faultLatch := t.faultLatch }

theorem ListFrame.trans (h : ListFrame s t) (h' : ListFrame t u) : ListFrame s u := by
  unfold ListFrame at h h' ⊢
  conv_lhs => rw [h', h]

theorem Appended.listFrame (h : Appended s t i) : ListFrame s t := by
  unfold ListFrame
  rw [show t.takenCount = s.takenCount by rw [h.frame], show t.owedCount = s.owedCount by rw [h.frame], show t.faultLatch = s.faultLatch by rw [h.frame]]
  exact h.frame

/-- The seats that are offered again by a release of the `n` oldest entries. -/
def State.dueAgain (s : State) (n : Nat) : List Seat := (s.changeList.take n).filter fun i => (s.seat i).board.relistDue

/-- What the release of the n oldest entries leaves. -/
structure ReleasedBy (s t : State) (n : Nat) : Prop where
  appends : Appends s t (s.dueAgain n) fun _ => False
  changeList : t.changeList = s.changeList.drop n ++ s.dueAgain n
  seat : ∀ i, t.seat i = { s.seat i with board := { (s.seat i).board with
    listed := (t.seat i).board.listed, relistDue := (s.seat i).board.relistDue && !decide (i ∈ s.changeList.take n) } }
  counts : t.takenCount = s.takenCount ∧ t.owedCount = s.owedCount ∧ t.faultLatch = s.faultLatch
  frame : ListFrame s t

theorem dueAgain_length (n : Nat) : (s.dueAgain n).length ≤ n := (List.length_filter_le ..).trans (List.length_take_le ..)

theorem seat_released {rest : List Seat} : (s.released i rest).seat j = if j = i then { s.seat i with board :=
    { (s.seat i).board with listed := false, relistDue := false } } else s.seat j := seat_setBoard (s := s) _

/-- The release of the oldest entry. -/
theorem releasedBy_one {rest : List Seat} {m : Nat} (hs : s.ListSound m) (hp : s.ListPlaced) (hm : s.memoryLaw) (h : s.changeList = i :: rest) :
    ReleasedBy s s.releaseOne 1 := by
  have hi : (s.seat i).board.listed = true := (hs.listed i).2 (by rw [h]; exact List.mem_cons_self)
  have howed : (s.seat i).board.owed = false := Bool.eq_false_iff.2 fun ho => by rw [hs.apart i ho] at hi; cases hi
  have hshort : rest.length < s.capacity := by have := hs.short; rw [h, List.length_cons] at this; omega
  have hseat := fun j => seat_released (s := s) (i := i) (j := j) (rest := rest)
  have happ : Appends s (s.released i rest) [] fun _ => False := appends_nil rfl rfl rfl rfl rfl hp (fun _ _ => ⟨rfl, rfl⟩) hm
  have hframe : ListFrame s (s.released i rest) := rfl
  have hcounts : (s.released i rest).takenCount = s.takenCount ∧ (s.released i rest).owedCount = s.owedCount ∧ (s.released i rest).faultLatch = s.faultLatch := ⟨rfl, rfl, rfl⟩
  have hlist : (s.released i rest).changeList = rest := rfl
  have hcap : (s.released i rest).capacity = s.capacity := rfl
  have hpos : (s.released i rest).writePos = s.writePos := rfl
  have hlay : (s.released i rest).layout = s.layout := rfl
  have htake : s.changeList.take 1 = [i] := by rw [h]; rfl
  have hdrop : s.changeList.drop 1 = rest := by rw [h]; rfl
  have hgone : ∀ j, decide (j ∈ [i]) = decide (j = i) := fun j => by simp
  have hmem : (s.released i rest).memoryLaw := hm
  rw [releaseOne_cons h]
  generalize s.released i rest = u at *
  have hui : u.seat i = { s.seat i with board := { (s.seat i).board with listed := false, relistDue := false } } := by rw [hseat, if_pos rfl]
  cases hdue : (s.seat i).board.relistDue with
  | false =>
    have hagain : s.dueAgain 1 = [] := by rw [State.dueAgain, htake]; simp [hdue]
    rw [if_neg Bool.false_ne_true]
    refine ⟨by rw [hagain]; exact happ, by rw [hagain, hdrop, List.append_nil]; exact hlist, fun j => ?_, hcounts, hframe⟩
    rw [htake, hgone]
    by_cases hj : j = i
    · subst hj; rw [hui, hdue]; simp
    · rw [hseat, if_neg hj]; simp [hj]
  | true =>
    have hagain : s.dueAgain 1 = [i] := by rw [State.dueAgain, htake]; simp [hdue]
    have hroom : u.offer i = u.appendChange i := offer_room (by rw [hui]) (by rw [hui]; exact howed) (by rw [hlist, hcap]; exact hshort)
    have hpos' : u.layout.changeList + u.writePos < 16384 := by rw [hlay, hpos]; have := hp.fits; have := hp.pos; omega
    have hone := appended (i := i) hmem hpos'
    rw [if_pos rfl, hroom]
    generalize u.appendChange i = t at *
    have hall := (happ.trans (hone.appends (happ.placed hp)) hp (by simp only [List.nil_append, List.length_singleton]; omega) fun _ h => h.elim).mono
      (q := fun _ => False) fun _ h => h.elim id id
    refine ⟨by rw [hagain]; exact hall, by rw [hagain, hdrop, hone.changeList, hlist], fun j => ?_, ?_, hframe.trans hone.listFrame⟩
    · rw [htake, hgone]
      by_cases hj : j = i
      · subst hj; rw [hone.seat, hui, hdue]; simp
      · rw [hone.seats j hj, hseat, if_neg hj]; simp [hj]
    · rw [show t.takenCount = u.takenCount by rw [hone.frame], show t.owedCount = u.owedCount by rw [hone.frame],
        show t.faultLatch = u.faultLatch by rw [hone.frame]]
      exact hcounts

theorem ReleasedBy.next {rest : List Seat} (h : s.changeList = i :: rest) (hn : n ≤ rest.length) (hd : s.changeList.Nodup) (hp : s.ListPlaced)
    (hcap : s.changeList.length ≤ s.capacity) (h1 : ReleasedBy s t 1) (h2 : ReleasedBy t u n) : ReleasedBy s u (n + 1) := by
  have htake1 : s.changeList.take 1 = [i] := by rw [h]; rfl
  have htaken : s.changeList.take (n + 1) = i :: rest.take n := by rw [h]; rfl
  have hlist : t.changeList = rest ++ s.dueAgain 1 := by rw [h1.changeList, h]; rfl
  have htake : t.changeList.take n = rest.take n := by rw [hlist, List.take_append_of_le_length hn]
  have hout : i ∉ rest := (List.nodup_cons.1 (h ▸ hd)).1
  have hdue : ∀ j, (t.seat j).board.relistDue = ((s.seat j).board.relistDue && !decide (j = i)) := fun j => by
    rw [h1.seat j, htake1]; simp
  have hagain : s.dueAgain (n + 1) = s.dueAgain 1 ++ t.dueAgain n := by
    have hrest : t.dueAgain n = (rest.take n).filter fun j => (s.seat j).board.relistDue := by
      rw [State.dueAgain, htake]
      refine List.filter_congr fun j hj => ?_
      have : j ≠ i := fun e => hout (e ▸ List.mem_of_mem_take hj)
      rw [hdue, decide_eq_false this, Bool.not_false, Bool.and_true]
    rw [hrest, State.dueAgain, State.dueAgain, htaken, htake1, ← List.filter_append]; rfl
  have hlen : (s.dueAgain 1 ++ t.dueAgain n).length ≤ s.capacity := by
    have := dueAgain_length (s := s) (n + 1)
    rw [hagain] at this
    rw [h, List.length_cons] at hcap; omega
  refine ⟨?_, ?_, fun j => ?_, ⟨h2.counts.1.trans h1.counts.1, h2.counts.2.1.trans h1.counts.2.1, h2.counts.2.2.trans h1.counts.2.2⟩, h1.frame.trans h2.frame⟩
  · rw [hagain]
    exact (h1.appends.trans h2.appends hp hlen fun _ h => h.elim).mono fun _ h => h.elim id id
  · rw [h2.changeList, hlist, List.drop_append_of_le_length hn, hagain, List.append_assoc, h]; rfl
  · have e := h2.seat j
    rw [htake, hdue, h1.seat j] at e
    rw [htaken]
    have hmem : ((s.seat j).board.relistDue && !decide (j ∈ i :: rest.take n)) = (((s.seat j).board.relistDue && !decide (j = i)) && !decide (j ∈ rest.take n)) := by
      rw [Bool.and_assoc, ← Bool.not_or]; simp
    rw [hmem]; exact e

/-- The release of the n oldest entries. -/
theorem releasedBy : ∀ (n : Nat) {s : State} {m : Nat}, s.ListSound m → s.ListPlaced → s.memoryLaw → n ≤ s.changeList.length → ReleasedBy s (State.release n s) n
  | 0, s, m, hs, hp, hm, _ => ⟨appends_nil rfl rfl rfl rfl rfl hp (fun _ _ => ⟨rfl, rfl⟩) hm, (List.append_nil _).symm, fun i => by simp [State.release],
      ⟨rfl, rfl, rfl⟩, rfl⟩
  | n + 1, s, m, hs, hp, hm, hn => by
    obtain ⟨i, rest, h⟩ := List.exists_cons_of_ne_nil (l := s.changeList) (fun e => by rw [e] at hn; exact absurd hn (Nat.not_succ_le_zero n))
    have hone := releasedBy_one hs hp hm h
    have hsound := hs.releaseOne (by rw [h]; exact List.cons_ne_nil _ _)
    have hrest : n ≤ rest.length := by rw [h, List.length_cons] at hn; omega
    have hlen : n ≤ s.releaseOne.changeList.length := by rw [hone.changeList, h, List.length_append]; exact hrest.trans (Nat.le_add_right _ _)
    rw [State.release]
    exact hone.next h hrest hs.nodup hp hs.short (releasedBy n hsound (hone.appends.placed hp) hone.appends.memory hlen)

/-! Owed seats (R161, step 4) -/

/-- The owed seats that the room of the list takes. -/
def State.owedServed (s : State) : List Seat := (allSeats.filter fun i => (s.seat i).board.owed).take (s.capacity - s.changeList.length)

/-- What serving the owed seats leaves. -/
structure OwedServed (s t : State) (served : List Seat) : Prop where
  appends : Appends s t served fun a => a = 37 ∧ served ≠ []
  changeList : t.changeList = s.changeList ++ served
  owedCount : t.owedCount = s.owedCount - served.length
  owedWord : served ≠ [] → t.readWord 37 = word t.owedCount
  seat : ∀ i, t.seat i = { s.seat i with board := { (s.seat i).board with
    listed := (t.seat i).board.listed, owed := (s.seat i).board.owed && !decide (i ∈ served) } }
  counts : t.takenCount = s.takenCount ∧ t.faultLatch = s.faultLatch
  frame : ListFrame s t

theorem owedServed_none (hp : s.ListPlaced) (hm : s.memoryLaw) : OwedServed s s [] where
  appends := appends_nil rfl rfl rfl rfl rfl hp (fun _ _ => ⟨rfl, rfl⟩) hm
  changeList := (List.append_nil _).symm
  owedCount := rfl
  owedWord h := absurd rfl h
  seat i := by simp
  counts := ⟨rfl, rfl⟩
  frame := rfl

/-- One owed seat served. -/
theorem owedServed_one (hp : s.ListPlaced) (hm : s.memoryLaw) (hr : s.changeList.length < s.capacity) : OwedServed s ((s.paid i).appendChange i) [i] := by
  have hseat := fun j => seat_paid (s := s) (i := i) (j := j)
  have hwrote : Wrote s (s.paid i) (Function.update (fun _ => none) 37 (some (word (s.owedCount - 1)))) :=
    ((Wrote.refl hm).congr (u := { s.setBoard i { (s.seat i).board with owed := false } with owedCount := s.owedCount - 1 }) rfl rfl).put (a := 37) (by decide) _
  have hpaid : s.paid i = { s with owedCount := s.owedCount - 1, seats := (s.paid i).seats, ram := (s.paid i).ram, badParity := (s.paid i).badParity } := rfl
  generalize s.paid i = u at *
  have happ : Appends s u [] (· = 37) := appends_nil (by rw [hpaid]) (by rw [hpaid]) (by rw [hpaid]) (by rw [hpaid]) (by rw [hpaid]) hp
    (hwrote.kept fun a ha => Function.update_of_ne ha _ _) hwrote.memory
  have hfit : u.layout.changeList + u.writePos < 16384 := by rw [hpaid]; have := hp.fits; have := hp.pos; show s.layout.changeList + s.writePos < 16384; omega
  have hone := appended (i := i) hwrote.memory hfit
  have hpu := happ.placed hp
  generalize u.appendChange i = t at *
  have hall := happ.trans (hone.appends hpu) hp (by simp only [List.nil_append, List.length_singleton]; omega) fun _ h => h.elim
  have howed : t.owedCount = s.owedCount - 1 := by rw [hone.frame, hpaid]
  refine ⟨hall.mono fun a h => ⟨h.elim id fun h => h.elim, List.cons_ne_nil _ _⟩, ?_, howed, fun _ => ?_, fun j => ?_, ?_, ?_⟩
  · rw [hone.changeList, hpaid]
  · rw [(hone.words.other (by
      have := hpu.header
      rw [appendWords, Function.update_of_ne (by decide), Function.update_of_ne (by omega)])).1, howed]
    exact hwrote.written (Function.update_self _ _ _)
  · by_cases hj : j = i
    · subst hj; rw [hone.seat, hseat, if_pos rfl]; simp
    · rw [hone.seats j hj, hseat, if_neg hj]; simp [hj]
  · exact ⟨by rw [hone.frame, hpaid], by rw [hone.frame, hpaid]⟩
  · refine ListFrame.trans (t := u) ?_ hone.listFrame
    unfold ListFrame
    conv_lhs => rw [hpaid]
    conv_rhs => rw [hpaid]

theorem lowestOwed_head : s.lowestOwed = (allSeats.filter fun i => (s.seat i).board.owed).head? := (List.head?_filter ..).symm

theorem OwedServed.next {served : List Seat} (h1 : OwedServed s t [i]) (h2 : OwedServed t u served) (hp : s.ListPlaced)
    (hlen : served.length + 1 ≤ s.capacity) : OwedServed s u (i :: served) := by
  have ha := h1.appends.trans h2.appends hp (by simpa [Nat.add_comm] using hlen) fun a h => by omega
  refine ⟨ha.mono fun a h => ?_, ?_, ?_, fun _ => ?_, fun j => ?_, ⟨h2.counts.1.trans h1.counts.1, h2.counts.2.trans h1.counts.2⟩, h1.frame.trans h2.frame⟩
  · rcases h with h | h
    · exact ⟨h.1, List.cons_ne_nil _ _⟩
    · exact ⟨h.1, List.cons_ne_nil _ _⟩
  · rw [h2.changeList, h1.changeList, List.append_assoc]; rfl
  · rw [h2.owedCount, h1.owedCount]; simp only [List.length_cons, List.length_nil]; omega
  · by_cases hn : served = []
    · subst hn
      rw [(h2.appends.kept 37 ?_).1, h1.owedWord (List.cons_ne_nil _ _), h2.owedCount]; rfl
      rintro (hh | hh | ⟨k, hk, -⟩)
      · exact hh.2 rfl
      · exact hh.2 rfl
      · exact absurd hk (Nat.not_lt_zero k)
    · exact h2.owedWord hn
  · have e := h2.seat j
    rw [h1.seat j] at e
    have hmem : ((s.seat j).board.owed && !decide (j ∈ i :: served)) = (((s.seat j).board.owed && !decide (j ∈ [i])) && !decide (j ∈ served)) := by
      rw [Bool.and_assoc, ← Bool.not_or]; simp
    rw [hmem]; exact e

/-- The owed seats that the room takes, appended. -/
theorem appendOwed_served (fuel : Nat) : ∀ {s : State}, s.ListPlaced → s.memoryLaw → s.changeList.length ≤ s.capacity →
    (allSeats.filter fun i => (s.seat i).board.owed).length ≤ fuel → OwedServed s (State.appendOwed fuel s) s.owedServed := by
  induction fuel with
  | zero =>
    intro s hp hm _ hf
    have h0 : s.owedServed = [] := by rw [State.owedServed, List.eq_nil_of_length_eq_zero (Nat.le_zero.1 hf), List.take_nil]
    rw [h0]; exact owedServed_none hp hm
  | succ fuel ih =>
    intro s hp hm hshort hf
    rw [State.appendOwed, owedStep_eq]
    by_cases hr : s.changeList.length < s.capacity
    · rw [if_pos hr, lowestOwed_head]
      cases hl : (allSeats.filter fun i => (s.seat i).board.owed) with
      | nil =>
        have h0 : s.owedServed = [] := by rw [State.owedServed, hl, List.take_nil]
        rw [h0]; exact owedServed_none hp hm
      | cons i is =>
        have hone := owedServed_one (i := i) hp hm hr
        simp only [List.head?_cons, Option.map_some]
        generalize (s.paid i).appendChange i = t at *
        have hnodup : (i :: is).Nodup := hl ▸ nodup_allSeats.filter _
        have his : i ∉ is := (List.nodup_cons.1 hnodup).1
        have hrest : (allSeats.filter fun j => (t.seat j).board.owed) = is := by
          have hsplit : (allSeats.filter fun j => (t.seat j).board.owed) = (i :: is).filter fun j => !decide (j = i) := by
            rw [← hl, List.filter_filter]
            refine List.filter_congr fun j _ => ?_
            rw [hone.seat j, Bool.and_comm]; simp
          rw [hsplit, List.filter_cons, if_neg (by simp)]
          refine List.filter_eq_self.2 fun j hj => ?_
          simpa using fun e : j = i => his (e ▸ hj)
        have hcap : t.capacity = s.capacity := hone.appends.capacity
        have hlist : t.changeList.length = s.changeList.length + 1 := by rw [hone.changeList, List.length_append]; rfl
        have hserved : s.owedServed = i :: t.owedServed := by
          rw [State.owedServed, State.owedServed, hl, hrest, hcap, hlist,
            show s.capacity - s.changeList.length = s.capacity - (s.changeList.length + 1) + 1 by omega, List.take_succ_cons]
        have hlast := ih (hone.appends.placed hp) hone.appends.memory (by rw [hlist, hcap]; omega) (by
          rw [hrest]; rw [hl, List.length_cons] at hf; omega)
        rw [hserved]
        refine hone.next hlast hp ?_
        have : t.owedServed.length ≤ t.capacity - t.changeList.length := List.length_take_le ..
        omega
    · have h0 : s.owedServed = [] := by rw [State.owedServed, show s.capacity - s.changeList.length = 0 by omega]; rfl
      rw [if_neg hr, h0]; exact owedServed_none hp hm

/-! The taken count (R161) -/

theorem exec_takenCountWrite (v : Word) (s : State) : exec (.takenCountWrite v) s = .next (s.hostTakenWrite v) := rfl

/-- MARK_RANGE recorded or not: the list and the words stand. -/
theorem markedTaken_frame (v : Word) : s.markedTaken v = { s with faultLatch := (s.markedTaken v).faultLatch, causes := (s.markedTaken v).causes } := by
  unfold State.markedTaken; split <;> rfl

/-- The accepted count is in its store and in its header word. -/
def State.countTaken (s : State) (v : Word) : State := State.writeTaken { s with takenCount := v }

theorem countTaken_frame {v : Word} : s.countTaken v = { s with takenCount := v, ram := (s.countTaken v).ram, badParity := (s.countTaken v).badParity } := rfl

theorem countTaken_wrote {v : Word} (hm : s.memoryLaw) : Wrote s (s.countTaken v) (Function.update (fun _ => none) 39 (some v)) :=
  ((Wrote.refl hm).congr (u := { s with takenCount := v }) rfl rfl).put (a := 39) (by decide) v

/-- A taken count accepted: what follows from the state `u` in which MARK_RANGE has been recorded. -/
structure CountAccepted (u t : State) (n : Nat) (count : Word) (served : List Seat) : Prop where
  appends : Appends u t (u.dueAgain n ++ served) fun a => a = 39 ∨ a = 37 ∧ served ≠ []
  changeList : t.changeList = u.changeList.drop n ++ (u.dueAgain n ++ served)
  takenCount : t.takenCount = count
  takenWord : t.readWord 39 = count
  owedCount : t.owedCount = u.owedCount - served.length
  owedWord : served ≠ [] → t.readWord 37 = word t.owedCount
  seat : ∀ i, t.seat i = { u.seat i with board := { (u.seat i).board with
    listed := (t.seat i).board.listed
    relistDue := (u.seat i).board.relistDue && !decide (i ∈ u.changeList.take n)
    owed := (u.seat i).board.owed && !decide (i ∈ served) } }
  latch : t.faultLatch = u.faultLatch
  frame : ListFrame u t

theorem countAccepted {count : Word} (hs : u.ListSound 0) (hp : u.ListPlaced) (hm : u.memoryLaw) (hn : n ≤ u.changeList.length)
    (hsound : ((State.release n u).countTaken count).ListSound 0) :
    CountAccepted u (State.appendOwed 512 ((State.release n u).countTaken count)) n count ((allSeats.filter fun i => (u.seat i).board.owed).take
      (u.capacity - (u.changeList.length - n + (u.dueAgain n).length))) := by
  obtain ⟨happ, hlist, hseat, ⟨htaken, howed, hlatch⟩, hframe⟩ := releasedBy n hs hp hm hn
  generalize State.release n u = r at *
  have hw := countTaken_wrote (v := count) happ.memory
  have hc := countTaken_frame (s := r) (v := count)
  generalize r.countTaken count = c at *
  have happ2 : Appends r c [] (· = 39) := appends_nil (by rw [hc]) (by rw [hc]) (by rw [hc]) (by rw [hc]) (by rw [hc]) (happ.placed hp)
    (hw.kept fun a ha => Function.update_of_ne ha _ _) hw.memory
  have hagain : (u.dueAgain n).length ≤ u.capacity := by
    have := dueAgain_length (s := u) n
    have := hs.short; omega
  have happ3 := happ.trans happ2 hp (by rw [List.append_nil]; exact hagain) fun a h => by omega
  rw [List.append_nil] at happ3
  have hclist : c.changeList = u.changeList.drop n ++ u.dueAgain n := by rw [hc, hlist]
  have hcseat : ∀ i, c.seat i = r.seat i := fun i => by rw [hc]; rfl
  have hcflag : ∀ i, (c.seat i).board.owed = (u.seat i).board.owed := fun i => by rw [hcseat, hseat]
  have hccap : c.capacity = u.capacity := happ3.capacity
  have hserved := appendOwed_served 512 (happ3.placed hp) happ3.memory hsound.short (by
    have h := (List.length_filter_le (fun i => (c.seat i).board.owed) allSeats)
    rwa [show allSeats.length = 512 from List.length_finRange] at h)
  have howes : c.owedServed = (allSeats.filter fun i => (u.seat i).board.owed).take (u.capacity - (u.changeList.length - n + (u.dueAgain n).length)) := by
    rw [State.owedServed, hccap, hclist, List.length_append, List.length_drop]
    simp only [hcflag]
  have hlen : c.owedServed.length ≤ c.capacity - c.changeList.length := List.length_take_le ..
  rw [← howes]
  generalize State.appendOwed 512 c = t at *
  have hroom : (u.dueAgain n ++ c.owedServed).length ≤ u.capacity := by
    rw [hccap, hclist, List.length_append, List.length_drop] at hlen
    rw [List.length_append]; omega
  have hall := happ3.trans hserved.appends hp hroom fun a h => by omega
  refine ⟨hall.mono fun a h => ?_, ?_, ?_, ?_, ?_, hserved.owedWord, fun i => ?_, ?_, hframe.trans (ListFrame.trans (t := c) ?_ hserved.frame)⟩
  · rcases h with (h | h) | h
    · exact h.elim
    · exact .inl h
    · exact .inr h
  · rw [hserved.changeList, hclist, List.append_assoc]
  · rw [hserved.counts.1, hc]
  · rw [(hserved.appends.kept 39 ?_).1]
    · exact hw.written (Function.update_self _ _ _)
    · rintro (hh | hh | ⟨k, -, hk⟩)
      · exact absurd hh.1 (by decide)
      · exact absurd hh.1 (by decide)
      · have := spot_header (happ3.placed hp) k; omega
  · rw [hserved.owedCount, show c.owedCount = r.owedCount by rw [hc], howed]
  · have e := hserved.seat i
    rw [hcseat, hseat] at e
    exact e
  · rw [hserved.counts.2, show c.faultLatch = r.faultLatch by rw [hc], hlatch]
  · unfold ListFrame
    conv_lhs => rw [hc]
    conv_rhs => rw [hc]

/-- Settles O28: the entries released, the due ones appended again, then the owed seats that the room takes. -/
theorem takenCountReleasesEntries : Obligations.TakenCountReleasesEntries := by
  unfold Obligations.TakenCountReleasesEntries
  intro s v bad count n gone again room served added
  rw [exec_takenCountWrite, State.hostTakenWrite]
  have h40 : (BitVec.ofNat 14 takenCountAddr).toNat = 40 := rfl
  refine ⟨fun hp hm => ?_, fun hp => ?_, fun hp hm hlaw hl => ?_⟩
  · rw [if_neg (by rcases hp with h | h <;> rw [h] <;> decide), hostWrite_plain hp, h40]
    obtain ⟨h1, h2, h3⟩ := stored_putWord (v := v) hm (show 40 < 16384 by decide)
    exact ⟨_, rfl, h1, h2, h3, rfl⟩
  · rw [if_neg (by rw [hp]; decide), hostWrite_held hp]
    exact ⟨_, rfl, rfl⟩
  · rw [if_pos hp]
    have hlawful := listLawful_deliverTaken (listLawful_iff.2 (changeListLaw_iff.1 hlaw)) v
    obtain ⟨hsound, -⟩ := changeListLaw_iff.1 hlaw
    obtain ⟨hlist, hfit, -⟩ := list_region hl (by have := hsound.bounds.1; omega)
    have hput := stored_putWord (v := v) hm (show takenCountAddr < 16384 by decide)
    have hs1 : (s.putWord takenCountAddr v).ListSound 0 := listSound_looksAt.still (erase_putWord (by decide)) hsound
    have hm1 : (s.putWord takenCountAddr v).memoryLaw := memoryLaw_putWord hm
    have hf1 : s.putWord takenCountAddr v = { s with ram := (s.putWord takenCountAddr v).ram, badParity := (s.putWord takenCountAddr v).badParity } := rfl
    rw [State.deliverTaken, acceptTaken_eq] at hlawful ⊢
    generalize s.putWord takenCountAddr v = w at *
    have hn : w.takenEntries v = n ∧ w.acceptedTaken v = count := by rw [hf1]; exact ⟨rfl, rfl⟩
    have hrel : w.releasedTaken v = (State.release n (w.markedTaken v)).countTaken count := by rw [State.releasedTaken, hn.1, hn.2]; rfl
    have hmark := markedTaken_frame (s := w) v
    have hbad : bad → FaultReported w (w.markedTaken v) 40 .markRange := fun h => by
      rw [State.markedTaken, if_pos (by rw [hf1]; exact h)]
      exact faultReported_recordFault (by rw [hf1]; exact not_clearing hp) _ _
    have hgood : ¬ bad → w.markedTaken v = w := fun h => if_neg (by rw [hf1]; exact h)
    have hsoundR := hs1.releasedTaken v
    rw [hrel] at hsoundR hlawful ⊢
    have hle := takenEntries_le hs1 v
    rw [hn.1] at hle
    generalize w.markedTaken v = u at *
    have hu : u = { s with ram := w.ram, badParity := w.badParity, faultLatch := u.faultLatch, causes := u.causes } := by
      conv_lhs => rw [hmark, hf1]
    have huseat : ∀ i, u.seat i = s.seat i := fun i => by rw [hu]; rfl
    have hulist : u.changeList = s.changeList := by rw [hu]
    have hucap : u.capacity = s.capacity := by rw [hu]
    have hupos : u.writePos = s.writePos := by rw [hu]
    have hulay : u.layout = s.layout := by rw [hu]
    have huram : u.ram = w.ram ∧ u.badParity = w.badParity := by rw [hmark]; exact ⟨rfl, rfl⟩
    have hwset : ∀ c, w.causeSet c = s.causeSet c := fun c => by rw [hf1]; rfl
    have husound : u.ListSound 0 := hsound.congr hulist hupos (by rw [hu]) (by rw [hu]) (by rw [hu]) hucap fun i => by
      rw [huseat]; exact ⟨rfl, rfl, rfl⟩
    have huplaced : u.ListPlaced := ⟨by rw [hulay]; exact hlist, by rw [hulay, hucap]; exact hfit, by rw [hupos, hucap]; exact hsound.pos⟩
    have hagain : u.dueAgain n = again := by
      rw [State.dueAgain, hulist]; simp only [huseat]; rfl
    have hacc := countAccepted (count := count) husound huplaced (by rw [State.memoryLaw, huram.1, huram.2]; exact hm1)
      (by rw [hulist]; rw [hf1] at hle; exact hle) hsoundR
    rw [hagain, hucap, hulist] at hacc
    simp only [huseat] at hacc
    change CountAccepted u _ n count served at hacc
    generalize State.appendOwed 512 ((State.release n u).countTaken count) = c at *
    obtain ⟨happ, hclist, hctaken, h39, hcowed, h37, hcseat, hclatch, hcframe⟩ := hacc
    rw [hagain] at happ hclist
    rw [hulist] at hclist
    change Appends u c added _ at happ
    change c.changeList = s.changeList.drop n ++ added at hclist
    have hspot : ∀ k, u.spot k = s.layout.changeList + (s.writePos + k) % s.capacity := fun k => by rw [State.spot, hulay, hupos, hucap]
    have huword : ∀ a, u.readWord a = w.readWord a ∧ u.wordBad a = w.wordBad a := fun a => ⟨readWord_congr huram.1 a, wordBad_congr huram.2 a⟩
    have ht : c.notifyChanges = { c with causes := c.notifyChanges.causes } := by unfold State.notifyChanges; split <;> rfl
    have hnone : c.changeList = [] → c.notifyChanges = c := fun h => by rw [State.notifyChanges, h]; rfl
    have hsome : c.changeList ≠ [] → raised c c.notifyChanges .changes := fun h => by
      rw [State.notifyChanges, if_neg (by simpa using h)]; exact raised_raise _
    obtain ⟨hlisted, -⟩ := listLawful_iff.1 hlawful
    generalize c.notifyChanges = t at *
    have htseat : ∀ i, t.seat i = c.seat i := fun i => by rw [ht]; rfl
    have htlist : t.changeList = c.changeList := by rw [ht]
    have htword : ∀ a, t.readWord a = c.readWord a ∧ t.wordBad a = c.wordBad a := fun a => by rw [ht]; exact ⟨rfl, rfl⟩
    have htset : ∀ x, x ≠ .changes → t.causeSet x = u.causeSet x := fun x hx => by
      refine Eq.trans ?_ (happ.causes x hx)
      by_cases h : c.changeList = []
      · rw [hnone h]
      · exact (hsome h).2 x hx
    have huset : ∀ x, x ≠ .fault → u.causeSet x = s.causeSet x := fun x hx => by
      by_cases hb : bad
      · exact ((hbad hb).others x hx).trans (hwset x)
      · rw [hgood hb]; exact hwset x
    have htlatch : t.faultLatch = u.faultLatch := by rw [ht]; exact hclatch
    refine ⟨t, rfl, htlist.trans hclist, by rw [ht]; exact hctaken, ?_, ?_, ?_, fun i => ?_, fun k hk => ?_, ?_, (htword 39).1.trans h39, fun h => ?_, fun h => ?_, ?_,
      fun h => (hsome (htlist ▸ h)).1, fun h => ?_, fun x hx hx' => (htset x hx).trans (huset x hx'), fun hb => ?_, fun hb => ?_, ?_⟩
    · rw [ht, show ({ c with causes := t.causes } : State).fillCount = c.fillCount from rfl, happ.fill, hu]
    · rw [ht, show ({ c with causes := t.causes } : State).owedCount = c.owedCount from rfl, hcowed, hu]
    · rw [ht, show ({ c with causes := t.causes } : State).writePos = c.writePos from rfl, happ.pos, hupos, hucap]
    · have hdec : (t.seat i).board.listed = decide (i ∈ t.changeList) := by
        rw [Bool.eq_iff_iff, decide_eq_true_iff]; exact hlisted.listed i
      have hci := hcseat i
      rw [hulist, huseat, ← htseat, hdec] at hci
      exact hci
    · rw [(htword _).1, ← hspot]; exact happ.spots k hk
    · rw [(htword 40).1, (happ.kept 40 ?_).1, (huword 40).1]
      · exact hput.word
      · rintro (hh | hh | ⟨k, -, hk⟩)
        · omega
        · exact absurd hh.1 (by decide)
        · have := spot_header huplaced k; omega
    · rw [(htword 38).1, happ.head h, ht]
    · rw [(htword 37).1, h37 h, ht]
    · intro a ha
      have h1 : c.readWord a = u.readWord a ∧ c.wordBad a = u.wordBad a := happ.kept a fun hh => ha (by
        rcases hh with (hh | hh) | hh | ⟨k, hk, hh⟩
        · exact .inl hh
        · exact .inr (.inr (.inr (.inl hh)))
        · exact .inr (.inr (.inl hh))
        · exact .inr (.inr (.inr (.inr ⟨k, hk, by rw [hh, hspot]⟩))))
      have h2 := hput.kept a fun e : a = 40 => ha (.inr (.inl e))
      exact ⟨((htword a).1.trans h1.1).trans ((huword a).1.trans h2.1), ((htword a).2.trans h1.2).trans ((huword a).2.trans h2.2)⟩
    · have hc0 : c.changeList = [] := htlist ▸ h
      have ha0 : added = [] := (List.append_eq_nil_iff.1 (hclist ▸ hc0)).2
      rw [hnone hc0, State.causeSet, happ.quiet ha0]
      exact huset .changes (by decide)
    · have hrep := hbad hb
      have hwlatch : w.faultLatch = s.faultLatch := by rw [hf1]
      rw [htlatch, htset .fault (by decide)]
      cases hl' : s.faultLatch with
      | none =>
        obtain ⟨g1, g2⟩ := hrep.empty (hwlatch.trans hl')
        exact ⟨_, g1, fun _ => ⟨rfl, g2⟩, fun g hg => (nomatch hg)⟩
      | some g =>
        obtain ⟨g1, -⟩ := hrep.full g (hwlatch.trans hl')
        exact ⟨_, g1, fun hg => (nomatch hg), fun g' hg => by cases hg; rfl⟩
    · rw [htlatch, htset .fault (by decide), hgood hb, hwset, hf1]
      exact ⟨rfl, rfl⟩
    · have h1 : ListFrame s u := by
        unfold ListFrame
        conv_lhs => rw [hu]
        conv_rhs => rw [hu]
      have h2 : ListFrame c t := by
        unfold ListFrame
        conv_lhs => rw [ht]
        conv_rhs => rw [ht]
      exact (h1.trans hcframe).trans h2

end Sys2Proof.Machine
end

section
/-! PROOFS. Readings of the slot in hand that go beyond its words, and the refusals of LOAD SEAT (O54). -/
namespace Sys2Proof.Machine
open Sys2Proof

variable {s t u v f : State} {i j : Seat} {w : PageWork} {o : Slot} {e : OrderEnd} {r : SeatRecord} {rs : List ReadWord} {addr : Nat → Nat} {k n : Nat}

/-! The reading of a slot (R6, R73, R146) -/

/-- The slot in hand reads n words, the k-th at `addr k`: its own three, and then those of its order. -/
structure Reads (s : State) (w : PageWork) (n : Nat) (addr : Nat → Nat) : Prop where
  short : n ≤ 3 + tableWords
  own : 3 ≤ n
  slot : ∀ k < 3, addr k = s.slotWordAt w k
  apart : ∀ k < n, addr k ≠ s.layout.progressAddr w.page
  goes : ∀ u : State, u.layout = s.layout → u.suspended = s.suspended → ∀ rs : List ReadWord, firstBadRead rs = none → rs.length < n →
    (∀ k < 3, k < rs.length → rs[k]? = some (s.slotRead w k)) → u.nextOrderRead { w with begun := true } rs = some (addr rs.length)
  ends : ∀ u : State, u.layout = s.layout → u.suspended = s.suspended → ∀ rs : List ReadWord, n ≤ rs.length →
    (∀ k < 3, rs[k]? = some (s.slotRead w k)) → u.nextOrderRead { w with begun := true } rs = none

theorem beginSlot_suspended (hw : s.worked = some w) (hm : s.memoryLaw) (hl : s.layoutSound) : (s.beginSlot w).suspended = s.suspended := by
  have h := (beginSlot_opened hw hm hl (s.beginSlot w).reads).1.frame
  show ({ s.beginSlot w with reads := (s.beginSlot w).reads } : State).suspended = s.suspended
  rw [h]

theorem Reads.read (h : Reads s w n addr) (hw : s.worked = some w) (hm : s.memoryLaw) (hl : s.layoutSound) (hk : k < n) :
    (s.beginSlot w).readsAs (s.slotReads w) addr k = s.orderRead w k (addr k) := by
  rw [State.readsAs, look_beginSlot_other hw hm hl (h.apart k hk), orderRead_eq]

theorem Reads.slotRead (h : Reads s w n addr) (hk : k < 3) : s.orderRead w k (addr k) = s.slotRead w k := by
  rw [h.slot k hk, slotRead_orderRead]; rfl

/-- The words of a good reading, where the reading in progress and those that it goes on to are known. -/
theorem Reads.goes_looks (h : Reads s w n addr) (hw : s.worked = some w) (hm : s.memoryLaw) (hl : s.layoutSound)
    (hn : (s.slotReads w).length + k < n) (hg : ∀ j < (s.slotReads w).length + k, (s.orderRead w j (addr j)).bad = false) :
    (s.beginSlot w).nextOrderRead { w with begun := true } (s.slotReads w ++ (s.beginSlot w).looks addr (s.slotReads w).length k)
      = some (addr ((s.slotReads w).length + k)) := by
  have hread : ∀ j < n, _ := fun j hj => h.read (k := j) hw hm hl hj
  rw [h.goes _ (beginSlot_layout hw hm hl) (beginSlot_suspended hw hm hl) _
    (firstBadRead_looks fun j hj => by rw [hread j (by omega)]; exact hg j hj) (by simp; omega) fun j hj hlt => ?_]
  · simp
  · rw [List.length_append, length_looks] at hlt
    rw [getElem?_looks hlt, hread j (by omega), h.slotRead hj]

/-- A slot whose words are all good is entered with them. -/
theorem Reads.enter_good (h : Reads s w n addr) (hw : s.worked = some w) (hm : s.memoryLaw) (hl : s.layoutSound)
    (hg : ∀ k < n, (s.orderRead w k (addr k)).bad = false) :
    ∃ L, s.enterSlot w = { s.beginSlot w with reads := L } ∧ L.length = max n (s.slotReads w).length
      ∧ ∀ k < n, L[k]? = some (s.orderRead w k (addr k)) := by
  obtain ⟨-, -, -, hreads⟩ := beginSlot_opened hw hm hl []
  have hread : ∀ j < n, _ := fun j hj => h.read (k := j) hw hm hl hj
  have hgoes := fun k => h.goes_looks (k := k) hw hm hl
  have hlay := beginSlot_layout hw hm hl
  have hsusp := beginSlot_suspended hw hm hl
  have hself : ({ s.beginSlot w with reads := s.slotReads w } : State) = s.beginSlot w := by rw [← hreads]
  unfold State.enterSlot; dsimp only
  generalize s.beginSlot w = u at *
  have hshort := h.short
  have hrun := readOn_good (s := u) (next := u.nextOrderRead { w with begun := true }) addr
    (3 + tableWords - (n - (s.slotReads w).length)) (n - (s.slotReads w).length) (s.slotReads w)
    (fun j hj => hgoes j (by omega) fun m hm => hg m (by omega)) fun j hj => by
      have := hg ((s.slotReads w).length + j) (by omega)
      rw [← hread _ (by omega), readsAs_stands (by omega)] at this
      exact this
  rw [hself, show n - (s.slotReads w).length + (3 + tableWords - (n - (s.slotReads w).length)) = 3 + tableWords by omega] at hrun
  have hL : ∀ k < n, (s.slotReads w ++ u.looks addr (s.slotReads w).length (n - (s.slotReads w).length))[k]? = some (s.orderRead w k (addr k)) :=
    fun k hk => by rw [getElem?_looks (by omega), hread k hk]
  have hlen : (s.slotReads w ++ u.looks addr (s.slotReads w).length (n - (s.slotReads w).length)).length = max n (s.slotReads w).length := by
    rw [List.length_append, length_looks]; omega
  have hown := h.own
  rw [hrun, readOn_over (h.ends u hlay hsusp _ (by rw [hlen]; omega) fun k hk => by rw [hL k (by omega), h.slotRead hk])]
  exact ⟨_, rfl, hlen, hL⟩

/-- A slot that reads a bad word is entered with the words up to the first one; the fault is recorded there where it is read now. -/
theorem Reads.enter_bad (h : Reads s w n addr) (hw : s.worked = some w) (hm : s.memoryLaw) (hl : s.layoutSound) (hp : s.part ≠ .clearing)
    (hk : k < n) (hg : ∀ j < k, (s.orderRead w j (addr j)).bad = false) (hb : (s.orderRead w k (addr k)).bad = true) :
    Opened s (s.enterSlot w) w ∧ (∀ j ≤ k, (s.enterSlot w).reads[j]? = some (s.orderRead w j (addr j)))
      ∧ ((s.slotReads w).length ≤ k → FaultReported s (s.enterSlot w) (addr k) .parity)
      ∧ (k < (s.slotReads w).length → (s.enterSlot w).faultLatch = s.faultLatch ∧ (s.enterSlot w).causes = s.causes) := by
  obtain ⟨ho, hlatch, hcauses, hreads⟩ := beginSlot_opened hw hm hl (s.slotReads w)
  have hself : { s.beginSlot w with reads := s.slotReads w } = s.beginSlot w := by rw [← hreads]
  have hread : ∀ j < n, _ := fun j hj => h.read (k := j) hw hm hl hj
  have hgoes := fun k => h.goes_looks (k := k) hw hm hl
  unfold State.enterSlot; dsimp only
  generalize s.beginSlot w = u at *
  have hu : Opened s u w := hself ▸ ho
  have hshort := h.short
  by_cases hlen : k < (s.slotReads w).length
  · have hL : ∀ j ≤ k, (s.slotReads w)[j]? = some (s.orderRead w j (addr j)) := fun j hj => by
      rw [← hread j (by omega), readsAs_read (by omega), List.getElem?_eq_getElem (by omega)]
    have hbad : (firstBadRead (s.slotReads w)).isSome = true := by
      rw [firstBadRead_at (hL k le_rfl) hb fun j hj x hx => by rw [hL j (by omega)] at hx; cases hx; exact hg j hj]; rfl
    rw [readOn_over (by rw [hreads]; exact nextOrderRead_bad hbad)]
    exact ⟨hu, by rw [hreads]; exact hL, fun h => absurd hlen (Nat.not_lt.2 h), fun _ => ⟨hlatch, hcauses⟩⟩
  · have hlen' := Nat.not_lt.1 hlen
    have hrun := readOn_bad (s := u) (next := u.nextOrderRead { w with begun := true }) (3 + tableWords - (k - (s.slotReads w).length) - 1) hlen' (addr := addr)
      (fun j hj => hgoes j (by omega) fun m hm => hg m (by omega)) (fun j hj => by rw [hread j (by omega)]; exact hg j hj)
      (by rw [hread k hk]; exact hb) fun l hl => nextOrderRead_bad hl
    rw [hself, show k - (s.slotReads w).length + (3 + tableWords - (k - (s.slotReads w).length) - 1 + 1) = 3 + tableWords by omega] at hrun
    rw [hrun]
    refine ⟨hu.recorded _ _, fun j hj => ?_, fun _ => ?_, fun h => absurd h hlen⟩
    · rw [← hread j (by omega)]; exact getElem?_looks (by omega)
    · have hpu : u.part ≠ .clearing := by rw [hu.frame]; exact hp
      exact (faultReported_recordFault hpu _ _).congr hlatch.symm hcauses.symm rfl rfl

/-! An order whose words are good (R146) -/

theorem slotOrder_inHand (h : s.OrderInHand w o) : s.slotOrder w = o := by
  rw [State.slotOrder, h.kind, h.seat, h.arg]

theorem take_slot {L : List ReadWord} (h : ∀ k < 3, L[k]? = some (s.slotRead w k)) : L.take 3 = [s.slotRead w 0, s.slotRead w 1, s.slotRead w 2] := by
  match L, h 0 (by decide), h 1 (by decide), h 2 (by decide) with
  | a :: b :: c :: rest, h0, h1, h2 => simp_all

/-- An order in hand whose own reading is over. -/
theorem Reads.enter_inHand (h : Reads s w n addr) (ho : s.OrderInHand w o) (hm : s.memoryLaw) (hl : s.layoutSound)
    (hg : ∀ k < n, (s.orderRead w k (addr k)).bad = false) :
    Works s (s.enterSlot w) w o ∧ (s.enterSlot w).reads.length = max n (s.slotReads w).length
      ∧ ∀ k < n, (s.enterSlot w).reads[k]? = some (s.orderRead w k (addr k)) := by
  obtain ⟨L, he, hlen, hL⟩ := h.enter_good ho.worked hm hl hg
  have hown := h.own
  have hL3 : ∀ k < 3, L[k]? = some (s.slotRead w k) := fun k hk => by rw [hL k (by omega), h.slotRead hk]
  have hw3 := take_slot hL3
  have hopen := (beginSlot_opened ho.worked hm hl L).1
  obtain ⟨-, hslot, -⟩ := slotOrder_of_words hw3
  have hlay := beginSlot_layout ho.worked hm hl
  have hsusp := beginSlot_suspended ho.worked hm hl
  have hb := beginSlot_spec ho.worked hm (pageBase_le hl w.page)
  obtain ⟨hframe, -⟩ := hb
  rw [he]
  generalize s.beginSlot w = u at *
  refine ⟨⟨⟨?_, hopen.progress, hopen.kept, hopen.memory, hslot.trans (slotOrder_inHand ho), firstBadRead_words hw3 ho.good⟩, ?_⟩, hlen, hL⟩
  · rw [hframe]
  · refine orderRequest_over (w := { w with begun := true }) ?_ (slotReady_iff ho.ready).2.1 rfl
      (h.ends { u with reads := L } hlay hsusp _ (by show n ≤ L.length; rw [hlen]; omega) hL3)
    rw [hframe]

/-- An order in hand that reads a bad word beyond its slot. -/
theorem workOrder_opened {kind : Word} {work : Slot → State → State × OrderEnd} (h : s.OrderInHand w o) (hk : o.kind = kind)
    (hL : ∀ k < 3, (s.enterSlot w).reads[k]? = some (s.slotRead w k)) :
    workOrder kind work s = (work o (s.enterSlot w)).1.finishOrder { w with begun := true } (work o (s.enterSlot w)).2 := by
  have hw3 := take_slot hL
  obtain ⟨-, hslot, -⟩ := slotOrder_of_words hw3
  rw [workOrder, workSlot_entered h.worked h.ready (slotFor_kind (by rw [h.kind, hk, beq_self_eq_true]))]
  unfold workEntered; dsimp only
  rw [firstBadRead_words hw3 h.good, hslot, slotOrder_inHand h]; dsimp only
  rw [show pairingHolds { w with begun := true } o = true from h.pairing, Bool.not_true, Bool.and_false, if_neg Bool.false_ne_true]

/-- An order that refuses RAM_FAULT for the first bad word that it reads beyond its slot. -/
theorem Reads.refuses_bad {kind a : Word} {c : Instr} {work : Slot → State → State × OrderEnd} (h : Reads s w n addr) (ho : s.OrderInHand w o)
    (hk : o.kind = kind) (hm : s.memoryLaw) (hl : s.layoutSound) (h3 : 3 ≤ k) (hkn : k < n)
    (hg : ∀ j, 3 ≤ j → j < k → (s.orderRead w j (addr j)).bad = false) (hb : (s.orderRead w k (addr k)).bad = true)
    (hc : exec c s = .next (workOrder kind work s))
    (hwork : Opened s (s.enterSlot w) w → (∀ j ≤ k, (s.enterSlot w).reads[j]? = some (s.orderRead w j (addr j))) →
      work o (s.enterSlot w) = (s.enterSlot w, { code := .ramFault, a := a })) :
    ∃ t, exec c s = .next t ∧ OrderDone s t w .ramFault a 0
      ∧ (w.begun = false ∨ s.reads.length ≤ k → FaultReported s t (addr k) .parity)
      ∧ (w.begun = true → k < s.reads.length → t.faultLatch = s.faultLatch ∧ t.causes = s.causes)
      ∧ wordsKept s t (slotWords s w)
      ∧ t = { s with ram := t.ram, badParity := t.badParity, worked := t.worked, lift := none, reads := [],
                     faultLatch := t.faultLatch, causes := t.causes } := by
  obtain ⟨hopen, hL, hnew, hhad⟩ := h.enter_bad ho.worked hm hl (slotReady_part ho.ready) hkn
    (fun j hj => by
      by_cases hj3 : j < 3
      · rw [h.slotRead hj3]; exact ho.good j hj3
      · exact hg j (Nat.not_lt.1 hj3) hj) hb
  have hdone := workOrder_opened (work := work) ho hk fun j hj => by rw [hL j (by omega), h.slotRead hj]
  rw [hwork hopen hL] at hdone
  have hclosed := closed (e := { code := .ramFault, a := a }) ho.ready ho.count hl hopen
  refine ⟨_, by rw [hc, hdone], ⟨hclosed.progress, hclosed.result, hclosed.detailA, hclosed.detailB, hclosed.worked, ?_, ?_⟩, fun h' => ?_,
    fun h1 h2 => ?_, hclosed.words, hclosed.frame⟩
  · rw [hclosed.frame]
  · rw [hclosed.frame]
  · refine (hnew ?_).congr rfl rfl hclosed.latch hclosed.causes
    unfold State.slotReads; split
    · next hbegun => exact h'.elim (fun h => by rw [hbegun] at h; cases h) id
    · exact Nat.zero_le _
  · obtain ⟨e1, e2⟩ := hhad (by rw [State.slotReads, if_pos h1]; exact h2)
    exact ⟨hclosed.latch.trans e1, hclosed.causes.trans e2⟩

/-! What a LOAD SEAT reads (R6, R7) -/

/-- Where a LOAD SEAT of seat i reads its k-th word. -/
def State.loadWordAt (s : State) (w : PageWork) (i : Seat) (k : Nat) : Nat :=
  if k < 3 then s.slotWordAt w k else s.layout.recordAddr i + (k - 3)

theorem slotWordAt_ne_progress : s.slotWordAt w k ≠ s.layout.progressAddr w.page := by
  simp only [State.slotWordAt, slotAddr_eq, progressAddr_eq]; omega

/-- The Seat Table and the page area share no word. -/
theorem seatTable_apart_pages (hl : s.layoutSound) (hi : i.val < s.layout.seatCount) (hk : k < 3) : s.layout.recordAddr i + k ≠ s.layout.progressAddr w.page := by
  have hp := regions_apart hl
  simp only [State.regions, List.pairwise_cons, List.mem_cons, forall_eq_or_imp] at hp
  obtain ⟨-, ⟨-, -, -, -, h, -⟩, -⟩ := hp
  have hb : s.layout.pageBase w.page = s.layout.pageArea ∨ s.layout.pageBase w.page = s.layout.pageArea + 196 := by
    cases w.page
    · exact .inl rfl
    · exact .inr rfl
  simp only [progressAddr_eq, Layout.recordAddr]
  omega

/-- A LOAD SEAT reads no more than its slot where its seat number names no seat, or one that a suspended LOAD RANGE keeps busy. -/
theorem nextOrderRead_loadSeat_over (h3 : 3 ≤ rs.length) (ho : slotOf (valuesOf rs) = o) (hk : o.kind = kindLoadSeat)
    (h : ∀ i, s.seatOf o.seat = some i → s.rangeBusy i = true ∨ 6 ≤ rs.length) : s.nextOrderRead w rs = none := by
  unfold State.nextOrderRead
  split
  · rfl
  rw [if_neg (Nat.not_lt.2 h3)]; dsimp only
  rw [ho]
  split
  · rfl
  rw [if_pos (by rw [hk]; rfl)]
  cases hs : s.seatOf o.seat with
  | none => rfl
  | some i => exact if_pos (by simpa using h i hs)

theorem nextOrderRead_loadSeat_record (hg : firstBadRead rs = none) (h3 : 3 ≤ rs.length) (h6 : rs.length < 6) (ho : slotOf (valuesOf rs) = o)
    (hk : o.kind = kindLoadSeat) (hp : pairingHolds w o = true) (hi : s.seatOf o.seat = some i) (hb : s.rangeBusy i = false) :
    s.nextOrderRead w rs = some (s.layout.recordAddr i + (rs.length - 3)) := by
  rw [State.nextOrderRead, if_neg (by rw [hg]; decide), if_neg (Nat.not_lt.2 h3)]; dsimp only
  rw [ho, hp, if_neg (by decide), if_pos (by rw [hk]; rfl), hi]
  exact if_neg (by rw [hb]; simpa using h6)

theorem slotOf_words (ho : s.OrderInHand w o) (h : ∀ k < 3, rs[k]? = some (s.slotRead w k)) : 3 ≤ rs.length ∧ slotOf (valuesOf rs) = o := by
  obtain ⟨h3, -, hs⟩ := slotOrder_of_words (take_slot h)
  exact ⟨h3, hs.trans (slotOrder_inHand ho)⟩

/-- The slot of an order that reads no more than its three words. -/
theorem reads_slotOnly (ho : s.OrderInHand w o)
    (h : ∀ u : State, u.layout = s.layout → u.suspended = s.suspended → ∀ rs : List ReadWord, 3 ≤ rs.length → slotOf (valuesOf rs) = o →
      u.nextOrderRead { w with begun := true } rs = none) : Reads s w 3 (s.slotWordAt w) where
  short := by decide
  own := le_rfl
  slot _ _ := rfl
  apart _ _ := slotWordAt_ne_progress
  goes u hu _ rs hg hn _ := by rw [nextOrderRead_slotWord hg hn, State.slotWordAt, hu]; rfl
  ends u h1 h2 rs _ hw := by
    obtain ⟨h3, hs⟩ := slotOf_words ho hw
    exact h u h1 h2 rs h3 hs

theorem seatOf_layout (h : t.layout = s.layout) (x : Word) : t.seatOf x = s.seatOf x := by rw [State.seatOf, h]; rfl

/-- A LOAD SEAT that passed the checks made before reads the seat's record. -/
theorem reads_loadSeat (ho : s.OrderInHand w o) (hk : o.kind = kindLoadSeat) (hl : s.layoutSound) (hi : i.val < s.layout.seatCount)
    (hs : o.seat = seatWord i) (hb : s.rangeBusy i = false) : Reads s w 6 (s.loadWordAt w i) where
  short := by decide
  own := by decide
  slot k hk := if_pos hk
  apart k hk := by
    unfold State.loadWordAt
    split
    · exact slotWordAt_ne_progress
    · exact seatTable_apart_pages hl hi (by omega)
  goes u h1 h2 rs hg hn hw := by
    by_cases h3 : rs.length < 3
    · rw [nextOrderRead_slotWord hg h3, State.loadWordAt, if_pos h3, State.slotWordAt, h1]; rfl
    · obtain ⟨h3', hslot⟩ := slotOf_words ho (rs := rs) fun k hk => hw k hk (by omega)
      rw [nextOrderRead_loadSeat_record (w := { w with begun := true }) hg h3' hn hslot hk ho.pairing ((seatOf_layout h1 _).trans (seatOf_named hi hs)) ((rangeBusy_congr h2).trans hb),
        State.loadWordAt, if_neg h3, h1]
  ends u h1 h2 rs hn hw := by
    obtain ⟨h3, hslot⟩ := slotOf_words ho hw
    exact nextOrderRead_loadSeat_over h3 hslot hk fun _ _ => .inr hn

/-! LOAD SEAT by its checks (R7) -/

theorem loadSeatWork_out (h : t.seatOf o.seat = none) : loadSeatWork o t = (t, { code := .seatRange, a := o.seat, b := 0 }) := by
  rw [loadSeatWork, h]; rfl
theorem loadSeatWork_busy (h : t.seatOf o.seat = some i) (hb : t.rangeBusy i = true) :
    loadSeatWork o t = (t, { code := .rangeBusy, a := o.seat, b := 0 }) := by
  rw [loadSeatWork, h]; exact if_pos hb
theorem loadSeatWork_bad (h : t.seatOf o.seat = some i) (hb : t.rangeBusy i = false) (hr : (firstBadRead (t.reads.drop 3)).isSome = true) :
    loadSeatWork o t = (t, { code := .ramFault, a := o.seat, b := 0 }) := by
  rw [loadSeatWork, h]; dsimp only; rw [if_neg (by rw [hb]; decide), if_pos hr]; rfl
theorem loadSeatWork_locked (h : t.seatOf o.seat = some i) (hb : t.rangeBusy i = false) (hr : firstBadRead (t.reads.drop 3) = none)
    (hk : t.lockedUnlifted i = true) : loadSeatWork o t = (t, { code := .locked, a := o.seat, b := 0 }) := by
  rw [loadSeatWork, h]; dsimp only; rw [if_neg (by rw [hb]; decide), if_neg (by rw [hr]; decide), if_pos hk]; rfl
theorem loadSeatWork_refused {code : ResultCode} {b : Word} (h : t.seatOf o.seat = some i) (hb : t.rangeBusy i = false)
    (hr : firstBadRead (t.reads.drop 3) = none) (hk : t.lockedUnlifted i = false)
    (hx : t.recordRefusal i (seatRecord (valuesOf (t.reads.drop 3))) = some (code, b)) :
    loadSeatWork o t = (t, { code := code, a := o.seat, b := b }) := by
  rw [loadSeatWork, h]; dsimp only; rw [if_neg (by rw [hb]; decide), if_neg (by rw [hr]; decide), if_neg (by rw [hk]; decide), hx]; rfl
theorem loadSeatWork_ok (h : t.seatOf o.seat = some i) (hb : t.rangeBusy i = false) (hr : firstBadRead (t.reads.drop 3) = none)
    (hk : t.lockedUnlifted i = false) (hx : t.recordRefusal i (seatRecord (valuesOf (t.reads.drop 3))) = none) :
    loadSeatWork o t = (t.applyRecord i (seatRecord (valuesOf (t.reads.drop 3))), { code := .ok, a := o.seat }) := by
  rw [loadSeatWork, h]; dsimp only; rw [if_neg (by rw [hb]; decide), if_neg (by rw [hr]; decide), if_neg (by rw [hk]; decide), hx]

/-! Checks 5 and 6 of R7 -/

theorem recordRefusal_bad (ha : r.active = true) (h : (s.link r.link).enabled = false ∨ r.txId = 0 ∨ r.txId = 0xFFFF#16) :
    s.recordRefusal i r = some (.badRecord, 0) := by
  rw [State.recordRefusal, if_neg (by rw [ha]; decide), if_pos h]
theorem recordRefusal_taken (ha : r.active = true) (h : ¬ ((s.link r.link).enabled = false ∨ r.txId = 0 ∨ r.txId = 0xFFFF#16))
    (hj : j ≠ i) (hc : s.carrier r.link r.channel = some j) : s.recordRefusal i r = some (.carrierTaken, seatWord j) := by
  rw [State.recordRefusal, if_neg (by rw [ha]; decide), if_neg h, hc]; exact if_neg hj
theorem recordRefusal_ok (h : r.active = true → ¬ ((s.link r.link).enabled = false ∨ r.txId = 0 ∨ r.txId = 0xFFFF#16)
      ∧ (s.carrier r.link r.channel = none ∨ s.carrier r.link r.channel = some i)) : s.recordRefusal i r = none := by
  unfold State.recordRefusal
  split
  · rfl
  next ha =>
  obtain ⟨h1, h2⟩ := h (by simpa using ha)
  rw [if_neg h1]
  rcases h2 with h2 | h2 <;> rw [h2]
  exact if_pos rfl

/-- The words of a record spell one record. -/
theorem Spells.unique {a b c : Word} (h : Spells a b c r) : seatRecord [a, b, c] = r := by
  have h' : Spells a b c (seatRecord [a, b, c]) := by constructor <;> simp [seatRecord, nth, field]
  generalize seatRecord [a, b, c] = x at *
  obtain ⟨x1, x2, x3, x4, x5, x6, x7, x8⟩ := x
  obtain ⟨r1, r2, r3, r4, r5, r6, r7, r8⟩ := r
  obtain ⟨e1, e2, e3, e4, e5, e6, e7, e8⟩ := h
  obtain ⟨f1, f2, f3, f4, f5, f6, f7, f8⟩ := h'
  simp only [SeatRecord.mk.injEq]
  exact ⟨f1.trans e1.symm, f2.trans e2.symm, f3.trans e3.symm, Fin.ext (f4.trans e4.symm), Fin.ext (f5.trans e5.symm), Fin.ext (f6.trans e6.symm),
    Fin.ext (f7.trans e7.symm), f8.trans e8.symm⟩

/-! LOAD SEAT entered -/

/-- A LOAD SEAT whose record has been read good. -/
structure RecordRead (s t : State) (w : PageWork) (o : Slot) (i : Seat) (a b c : Word) : Prop where
  works : Works s t w o
  good : firstBadRead (t.reads.drop 3) = none
  words : valuesOf (t.reads.drop 3) = [a, b, c]
  named : t.seatOf o.seat = some i
  free : t.rangeBusy i = false

theorem drop_record {L : List ReadWord} {x y z : ReadWord} (hlen : L.length = 6) (h3 : L[3]? = some x) (h4 : L[4]? = some y) (h5 : L[5]? = some z) :
    L.drop 3 = [x, y, z] := by
  match L, hlen with
  | [_, _, _, a, b, c], _ => simp_all

theorem recordRead_loadSeat (ho : s.OrderInHand w o) (hk : o.kind = kindLoadSeat) (hm : s.memoryLaw) (hl : s.layoutSound)
    (hlen : w.begun = true → s.reads.length ≤ 6) (hi : i.val < s.layout.seatCount) (hs : o.seat = seatWord i) (hb : s.rangeBusy i = false)
    (hg : ∀ k < 3, (s.orderRead w (3 + k) (s.layout.recordAddr i + k)).bad = false) :
    RecordRead s (s.enterSlot w) w o i (s.orderRead w 3 (s.layout.recordAddr i)).value (s.orderRead w 4 (s.layout.recordAddr i + 1)).value
      (s.orderRead w 5 (s.layout.recordAddr i + 2)).value := by
  have hreads := reads_loadSeat ho hk hl hi hs hb
  have hgood : ∀ k < 6, (s.orderRead w k (s.loadWordAt w i k)).bad = false := fun k hk => by
    by_cases h3 : k < 3
    · rw [hreads.slotRead h3]; exact ho.good k h3
    · have := hg (k - 3) (by omega)
      rw [Nat.add_sub_cancel' (by omega)] at this
      rw [State.loadWordAt, if_neg h3]; exact this
  obtain ⟨hworks, hL, hw⟩ := hreads.enter_inHand ho hm hl hgood
  have hlen' : (s.slotReads w).length ≤ 6 := by
    unfold State.slotReads; split
    · next h => exact hlen h
    · simp
  rw [max_eq_left hlen'] at hL
  have hdrop := drop_record hL (hw 3 (by decide)) (hw 4 (by decide)) (hw 5 (by decide))
  refine ⟨hworks, ?_, ?_, (hworks.entered.seatOf _).trans (seatOf_named hi hs), (rangeBusy_congr hworks.entered.suspended).trans hb⟩
  · rw [hdrop, firstBadRead_eq_none]
    simp only [List.mem_cons, List.not_mem_nil, or_false]
    rintro r (rfl | rfl | rfl)
    · exact hgood 3 (by decide)
    · exact hgood 4 (by decide)
    · exact hgood 5 (by decide)
  · rw [hdrop]; rfl

theorem rangeBusy_iff : s.rangeBusy i = true ↔
    ∃ v b, s.suspended = some v ∧ v.bulk = some b ∧ b.kind = .loadRange ∧ b.cursor ≤ i.val ∧ i.val < b.stop := by
  unfold State.rangeBusy
  cases hs : s.suspended with
  | none => simp
  | some v => cases hb : v.bulk <;> simp [hb, and_assoc]

/-- Settles O54: the checks of R7 in their order, with the state in which the slot's reading leaves each. -/
theorem loadSeatRefusals : Obligations.LoadSeatRefusals := by
  unfold Obligations.LoadSeatRefusals
  intro s w o ho hk hm hl hlen answers
  have hexec : exec .loadSeat s = .next (workOrder kindLoadSeat loadSeatWork s) := rfl
  have answer : ∀ {code : ResultCode} {b : Word}, Entered s (s.enterSlot w) w o →
      loadSeatWork o (s.enterSlot w) = (s.enterSlot w, { code := code, a := o.seat, b := b }) → answers code b := fun he hu =>
    answers_order (work := loadSeatWork) ho hl he (by rw [hexec, workOrder_inHand ho hk he]) hu
  have early : ∀ {code : ResultCode}, (∀ i, s.seatOf o.seat = some i → s.rangeBusy i = true) →
      (Entered s (s.enterSlot w) w o → loadSeatWork o (s.enterSlot w) = (s.enterSlot w, { code := code, a := o.seat, b := 0 })) → answers code 0 := fun h hu => by
    have hreads := reads_slotOnly ho fun u h1 h2 rs h3 hs => nextOrderRead_loadSeat_over h3 hs hk fun i hi =>
      .inl ((rangeBusy_congr h2).trans (h i ((seatOf_layout h1 _).symm.trans hi)))
    obtain ⟨⟨he, -⟩, -⟩ := hreads.enter_inHand ho hm hl fun k hk => by rw [hreads.slotRead hk]; exact ho.good k hk
    exact answer he (hu he)
  refine ⟨fun hout => ?_, fun i hi hs => ?_⟩
  · have hnone := seatOf_out hout
    exact early (fun i hi => by rw [hnone] at hi; cases hi) fun he => loadSeatWork_out ((he.seatOf _).trans hnone)
  intro read busy
  have hnamed := seatOf_named hi hs
  have hbusy : busy ↔ s.rangeBusy i = true := rangeBusy_iff.symm
  refine ⟨fun hb => ?_, fun hb k hk3 hg hbad => ?_, fun hb hg hlock hlift => ?_, fun r hr hb hg hlock ha => ?_⟩
  · exact early (fun j hj => by rw [hnamed] at hj; cases hj; exact hbusy.1 hb) fun he =>
      loadSeatWork_busy ((he.seatOf _).trans hnamed) ((rangeBusy_congr he.suspended).trans (hbusy.1 hb))
  · have hfree : s.rangeBusy i = false := by simpa [hbusy] using hb
    have hreads := reads_loadSeat ho hk hl hi hs hfree
    have hat : ∀ j, s.loadWordAt w i (3 + j) = s.layout.recordAddr i + j := fun j => by
      rw [State.loadWordAt, if_neg (by omega), Nat.add_sub_cancel_left]
    have hbads := hreads.refuses_bad (k := 3 + k) (a := o.seat) ho hk hm hl (by omega) (by omega)
      (fun j h3 hj => by
        have := hg (j - 3) (by omega)
        rw [← Nat.add_sub_cancel' h3, hat]; exact this)
      (by rw [hat]; exact hbad) hexec fun hopen hL => by
        have hrec : (firstBadRead ((s.enterSlot w).reads.drop 3)).isSome = true := by
          have hread : ∀ j ≤ k, ((s.enterSlot w).reads.drop 3)[j]? = some (read j) := fun j hj => by rw [List.getElem?_drop, hL _ (by omega), hat]
          rw [firstBadRead_at (hread k le_rfl) hbad fun j hj x hx => by rw [hread j (by omega)] at hx; cases hx; exact hg j hj]; rfl
        exact loadSeatWork_bad (by rw [seatOf_layout (s := s) (by rw [hopen.frame])]; exact hnamed)
          ((rangeBusy_congr (by rw [hopen.frame])).trans hfree) hrec
    rw [hat] at hbads; exact hbads
  · have hrec := recordRead_loadSeat ho hk hm hl hlen hi hs (by simpa [hbusy] using hb) hg
    exact answer hrec.works.entered (loadSeatWork_locked hrec.named hrec.free hrec.good
      ((hrec.works.entered.lockedUnlifted i).trans (lockedUnlifted_iff.2 ⟨hlock, hlift⟩)))
  · have hrec := recordRead_loadSeat ho hk hm hl hlen hi hs (by simpa [hbusy] using hb) hg
    have he := hrec.works.entered
    have hunlocked := (he.lockedUnlifted i).trans (lockedUnlifted_eq_false hlock)
    have hrecord : seatRecord (valuesOf ((s.enterSlot w).reads.drop 3)) = r := by rw [hrec.words]; exact hr.unique
    refine ⟨fun h => ?_, fun j hj h1 h2 h3 hc => ?_⟩
    · exact answer he (loadSeatWork_refused hrec.named hrec.free hrec.good hunlocked
        (by rw [hrecord]; exact recordRefusal_bad ha (by rw [he.link]; exact h)))
    · exact answer he (loadSeatWork_refused hrec.named hrec.free hrec.good hunlocked
        (by rw [hrecord]; exact recordRefusal_taken ha (by rw [he.link, h1]; simp only [h2, h3, or_false]; decide) hj (by rw [he.carrier]; exact hc)))

end Sys2Proof.Machine
end

section
/-! PROOFS. What loading a seat leaves, and the LOAD SEAT that passes its checks (O55). -/
namespace Sys2Proof.Machine
open Sys2Proof

variable {s t u v f : State} {i j : Seat} {l : LinkId} {w : PageWork} {o : Slot} {r : SeatRecord} {k : Link}

/-! A link that a seat leaves (R9, R37, R40) -/

theorem withdrawnLink : WithdrawnLink k (cancelOn (withdrawFrom k i) i) i := by
  have hc := (cancelOn_tx (k := withdrawFrom k i) (c := i)).2.2
  have htx : (withdrawFrom k i).tx = k.tx := by
    unfold withdrawFrom; split
    · rw [refill_frame]
    · rfl
  have hcancel := frameCancelled_cancelOn i htx
  have hrest : withdrawFrom k i = { k with queue := (withdrawFrom k i).queue, deferred := (withdrawFrom k i).deferred } := by
    unfold withdrawFrom; split
    · conv_lhs => rw [refill_frame]
    · rfl
  have hin : k.queue.contains i = true ↔ i ∈ k.queue := by simp
  have hfilled : i ∈ k.queue → ∀ d ds, k.deferred = d :: ds →
      (withdrawFrom k i).queue = k.queue.erase i ++ [d] ∧ (withdrawFrom k i).deferred = ds := fun hi d ds hd => by
    rw [withdrawFrom, if_pos (hin.2 hi), refill_cons (k := { k with queue := k.queue.erase i }) hd]; exact ⟨rfl, rfl⟩
  have hleft : i ∈ k.queue → k.deferred = [] → (withdrawFrom k i).queue = k.queue.erase i ∧ (withdrawFrom k i).deferred = [] := fun hi hd => by
    rw [withdrawFrom, if_pos (hin.2 hi), refill_nil (k := { k with queue := k.queue.erase i }) hd]; exact ⟨rfl, hd⟩
  have haway : i ∉ k.queue → (withdrawFrom k i).queue = k.queue ∧ (withdrawFrom k i).deferred = k.deferred.erase i := fun hi => by
    rw [withdrawFrom, if_neg (hin.not.2 hi)]; exact ⟨rfl, rfl⟩
  generalize withdrawFrom k i = m at *
  have hq : (cancelOn m i).queue = m.queue := by rw [hc]
  have hd : (cancelOn m i).deferred = m.deferred := by rw [hc]
  refine ⟨?_, by rw [hq, hd]; exact hfilled, by rw [hq, hd]; exact hleft, by rw [hq, hd]; exact haway, hcancel⟩
  rw [hq, hd]
  generalize (cancelOn m i).tx = x at *
  rw [hc, hrest]

/-! A seat loaded (R9 to R12) -/

/-- Every field that a load leaves alone is as it was. -/
theorem eq_of_erase_load (h : erase (fun f => decide (f ∈ fLoad)) t = erase (fun f => decide (f ∈ fLoad)) s) :
    t = { s with
      seats := t.seats, carriers := t.carriers, roster := t.roster, links := t.links, boardWrites := t.boardWrites, ram := t.ram, badParity := t.badParity } := by
  obtain ⟨⟩ := s
  obtain ⟨⟩ := t
  simpa [erase] using h

theorem applyRecord_frame : s.applyRecord i r = { s with
    seats := (s.applyRecord i r).seats, carriers := (s.applyRecord i r).carriers, roster := (s.applyRecord i r).roster,
    links := (s.applyRecord i r).links, boardWrites := (s.applyRecord i r).boardWrites, ram := (s.applyRecord i r).ram,
    badParity := (s.applyRecord i r).badParity } := eq_of_erase_load (erase_applyRecord (by simp [Opens]))

/-- The fields that a load changes before its header words and its publication. -/
abbrev fConfig : List Fld := [.roster, .seats, .links, .carriers]

/-- Every field that the configuration of a loaded seat leaves alone is as it was. -/
theorem eq_of_erase_config (h : erase (fun f => decide (f ∈ fConfig)) t = erase (fun f => decide (f ∈ fConfig)) s) :
    t = { s with roster := t.roster, seats := t.seats, links := t.links, carriers := t.carriers } := by
  obtain ⟨⟩ := s
  obtain ⟨⟩ := t
  simpa [erase] using h

theorem erase_loadConfig {k : Fld → Bool} (h : Opens k fConfig) : erase k (s.loadConfig i r) = erase k s := by
  have hconf : erase k (s.configured i r) = erase k s := by
    unfold State.configured State.configure; dsimp only
    refine (erase_recordGeneration (h.mono (by decide))).trans ?_
    have hbase := (erase_setCtx (x := withRecord (((s.reinitialise i).freeCarrier i).seat i).ctx r) (i := i) (h.mono (by decide))).trans
      ((erase_freeCarrier (i := i) (h.mono (by decide))).trans (erase_reinitialise (s := s) (i := i) (h.mono (by decide))))
    split
    · exact (erase_setCarrier (h.mono (by decide))).trans hbase
    · exact hbase
  rw [loadConfig_eq]
  split
  · exact (erase_issue (h.mono (by decide))).trans ((erase_setIntent (h.mono (by decide))).trans hconf)
  · exact (erase_setChannel (h.mono (by decide))).trans hconf

theorem loadConfig_frame : s.loadConfig i r = { s with
    roster := (s.loadConfig i r).roster, seats := (s.loadConfig i r).seats, links := (s.loadConfig i r).links,
    carriers := (s.loadConfig i r).carriers } := eq_of_erase_config (erase_loadConfig (by simp [Opens]))

/-- The header words of the roster, where it changed (R120). -/
theorem floorHeader_spec (hm : t.memoryLaw) :
    floorHeaderIfChanged s t = { t with ram := (floorHeaderIfChanged s t).ram, badParity := (floorHeaderIfChanged s t).badParity }
      ∧ (s.roster ≠ t.roster → FloorShown (floorHeaderIfChanged s t))
      ∧ wordsKept t (floorHeaderIfChanged s t) (fun a => floorWords a ∧ s.roster ≠ t.roster) ∧ (floorHeaderIfChanged s t).memoryLaw := by
  unfold floorHeaderIfChanged
  split
  · next h => exact ⟨rfl, fun h' => absurd h h', fun _ _ => ⟨rfl, rfl⟩, hm⟩
  · next h =>
    obtain ⟨hshown, hkept⟩ := floorShown_written hm
    exact ⟨writeFloorHeader_frame, fun _ => hshown, fun a ha => hkept a fun h' => ha ⟨h', h⟩, memoryLaw_writeFloorHeader hm⟩

theorem erase_ne_iff {is : List Seat} : is ≠ is.erase i ↔ i ∈ is := by
  refine ⟨fun h => ?_, fun h he => ?_⟩
  · by_contra hn
    exact h (List.erase_of_not_mem hn).symm
  · have := congrArg List.length he
    rw [List.length_erase_of_mem h] at this
    have := List.length_pos_of_mem h
    omega

/-- What a load changes of the RAM and of the other fields (R9 to R12, R120). -/
structure Loaded (s t : State) (i : Seat) (r : SeatRecord) : Prop where
  seat : SeatLoaded s t i r
  words : wordsKept s t (fun a => floorWords a ∧ i ∈ s.roster)
  memory : t.memoryLaw
  frame : t = { s with
    seats := t.seats, carriers := t.carriers, roster := t.roster, links := t.links, boardWrites := t.boardWrites, ram := t.ram, badParity := t.badParity }

theorem link_left : (s.configured i r).link l =
    if l = (s.seat i).ctx.link then cancelOn (withdrawFrom (s.link (s.seat i).ctx.link) i) i else s.link l := by
  rw [link_configured]
  split
  · next h => rw [h]
  · rfl

theorem loaded (hm : s.memoryLaw) (hp : s.publishes i = true) (hidle : (s.applyRecord i r).orderRequest = none) : Loaded s (s.applyRecord i r) i r := by
  have hroster := loadConfig_roster (s := s) (i := i) r
  have hlink := fun l => link_loadConfig (s := s) (i := i) (l := l) r
  have hcarrier := fun l c => carrier_loadConfig (s := s) (i := i) (l := l) r c
  have hseat := fun j => seat_loadConfig (s := s) (i := i) (j := j) r
  have hc := loadConfig_frame (s := s) (i := i) (r := r)
  have hframe := applyRecord_frame (s := s) (i := i) (r := r)
  rw [applyRecord_eq] at *
  generalize s.loadConfig i r = c at *
  have hmc : c.memoryLaw := by rw [hc]; exact hm
  obtain ⟨hh, hshown, hkept, hmh⟩ := floorHeader_spec (s := s) hmc
  rw [hroster, ne_eq, ← ne_eq, erase_ne_iff] at hshown hkept
  generalize floorHeaderIfChanged s c = h at *
  have hhseat : ∀ j, h.seat j = c.seat j := fun j => by rw [hh]; rfl
  have hhclock : h.clock = s.clock := by rw [hh, hc]
  have hhwrites : h.boardWrites = s.boardWrites := by rw [hh, hc]
  have hpub : h.publishes i = true := (publishes_congr (by rw [hh, hc]) (by rw [hh, hc])).trans hp
  have hf := publishChange_frame (s := h) (i := i)
  have htseat := fun j => seat_publishChange (s := h) (i := i) (j := j)
  have hwrites := publishChange_boardWrites (s := h) (i := i)
  rw [if_pos hpub, hhwrites] at hwrites
  generalize h.publishChange i = t at *
  have htlink : ∀ l, t.link l = c.link l := fun l => by rw [hf, hh]; rfl
  have htroster : t.roster = s.roster.erase i := by rw [hf, hh]; exact hroster
  refine ⟨⟨?_, fun j hj => ?_, fun l ch => ?_, htroster, fun hi => ?_, ?_, ?_⟩, fun a ha => ?_, ?_, ?_⟩
  · rw [htseat, if_pos ⟨rfl, hpub⟩, hhseat, hseat, if_pos rfl, hhclock, loadedSeat, loadedContext]
    cases r.active <;> rfl
  · rw [htseat, if_neg fun h' => hj h'.1, hhseat, hseat, if_neg hj]
  · have : t.carrier l ch = c.carrier l ch := by rw [hf, hh]; rfl
    rw [this, hcarrier, carrier_configured]
  · exact (hshown hi).congr (fun x _ => by rw [hf]; rfl) (by rw [hf]) (by rw [hf]) (by rw [hf])
  · refine ⟨_, withdrawnLink, fun ha l => ?_, fun ha => ⟨?_, fun l hl => ?_⟩⟩
    · rw [htlink, hlink, if_neg (by rw [ha]; exact fun h' => Bool.false_ne_true h'.1), link_left]
    · rw [htlink, hlink, if_pos ⟨ha, rfl⟩, link_left]
      exact issuedLink_issuedOn i
    · rw [htlink, hlink, if_neg fun h' => hl h'.2, link_left]
  · rw [hwrites, orderWrite_eq hidle]
  · have h1 := hkept a ha
    have h2 : h.readWord a = t.readWord a ∧ h.wordBad a = t.wordBad a := by rw [hf]; exact ⟨rfl, rfl⟩
    have h3 : c.readWord a = s.readWord a ∧ c.wordBad a = s.wordBad a := by rw [hc]; exact ⟨rfl, rfl⟩
    exact ⟨h2.1.symm.trans (h1.1.trans h3.1), h2.2.symm.trans (h1.2.trans h3.2)⟩
  · rw [hf]; exact hmh
  · exact hframe

/-! The links after a load (R9, R36, R37, R40) -/

theorem IssuedLink.waits {running : Prop} {k' : Link} (h : IssuedLink running k k' i) (hr : running) : i ∈ k'.queue ∨ i ∈ k'.deferred := by
  have hp := h.placed
  by_cases hq : i ∈ k.queue
  · exact .inl (by rw [show k'.queue = k.queue from (hp.keeps (.inr (.inl hq))).1]; exact hq)
  by_cases hd : i ∈ k.deferred
  · exact .inr (by rw [show k'.deferred = k.deferred from (hp.keeps (.inr (.inr hd))).2]; exact hd)
  by_cases hlen : k.queue.length < 16
  · exact .inl (by rw [show k'.queue = k.queue ++ [i] from (hp.joins hr hq hd hlen).1]; simp)
  · exact .inr (((hp.waits hr hq hd (Nat.not_lt.1 hlen)).2.1 i).2 (.inl rfl))

theorem WithdrawnLink.gone {k' : Link} (h : WithdrawnLink k k' i) (hn : (k.queue ++ k.deferred).Nodup) : i ∉ k'.queue ∧ i ∉ k'.deferred := by
  obtain ⟨hq, hd, hdis⟩ := List.nodup_append.1 hn
  by_cases hi : i ∈ k.queue
  · have hdi : i ∉ k.deferred := fun h' => hdis i hi i h' rfl
    have herase : i ∉ k.queue.erase i := fun h' => (hq.mem_erase_iff.1 h').1 rfl
    cases hk : k.deferred with
    | nil =>
      obtain ⟨e1, e2⟩ := h.left hi hk
      rw [e1, e2]; exact ⟨herase, List.not_mem_nil⟩
    | cons d ds =>
      obtain ⟨e1, e2⟩ := h.filled hi d ds hk
      rw [hk, List.mem_cons, not_or] at hdi
      rw [e1, e2, List.mem_append, List.mem_singleton]
      exact ⟨not_or.2 ⟨herase, hdi.1⟩, hdi.2⟩
  · obtain ⟨e1, e2⟩ := h.away hi
    rw [e1, e2]; exact ⟨hi, fun h' => (hd.mem_erase_iff.1 h').1 rfl⟩

theorem FrameCancelled.cancels {k' : Link} (h : FrameCancelled k k' i) {f : Frame} (hf : k'.tx = .sending f) (hi : f.seat = i) : f.cancelled = true := by
  cases hk : k.tx with
  | sending g =>
    have := h.flight g hk
    rw [this] at hf
    cases hf
    simp at hi ⊢
    exact .inr hi
  | idle => rw [h.quiet (by simp [hk]), hk] at hf; cases hf
  | spacing => rw [h.quiet (by simp [hk]), hk] at hf; cases hf

/-- Under the downlink law a loaded seat waits for the link of its record alone, where an active one waits while the part runs;
no frame is in flight for it that is not cancelled. -/
theorem SeatLoaded.downlink (h : SeatLoaded s t i r) (hd : s.downlinkLaw) :
    (r.active = true → s.part = .running → i ∈ (t.link r.link).queue ∨ i ∈ (t.link r.link).deferred)
      ∧ (∀ l, ¬ (r.active = true ∧ l = r.link) → i ∉ (t.link l).queue ∧ i ∉ (t.link l).deferred)
      ∧ (∀ l f, (t.link l).tx = .sending f → f.seat = i → f.cancelled = true) := by
  obtain ⟨k, hk, hinactive, hactive⟩ := h.links
  have hleft : ∀ l, i ∉ (if l = (s.seat i).ctx.link then k else s.link l).queue ∧ i ∉ (if l = (s.seat i).ctx.link then k else s.link l).deferred := fun l => by
    obtain ⟨-, hnodup, -, -, hmem⟩ := (hd l).1
    split
    · next he => subst he; exact hk.gone hnodup
    · next he =>
      have : i ∉ (s.link l).queue ++ (s.link l).deferred := fun h' => he (hmem i h').2.1.symm
      rw [List.mem_append, not_or] at this; exact this
  have hflight : ∀ l f, (if l = (s.seat i).ctx.link then k else s.link l).tx = .sending f → f.seat = i → f.cancelled = true := fun l f hf hi => by
    have hlaw := (hd l).2
    split at hf
    · exact hk.cancelled.cancels hf hi
    · next he =>
      unfold State.flightLawful at hlaw
      rw [hf] at hlaw
      by_contra hc
      exact he (hi ▸ (hlaw (Bool.eq_false_iff.2 hc)).2.1.symm)
  refine ⟨fun ha hr => (hactive ha).1.waits hr, fun l hl => ?_, fun l f hf hi => ?_⟩
  · cases ha : r.active with
    | false => rw [hinactive ha]; exact hleft l
    | true => rw [(hactive ha).2 l fun he => hl ⟨ha, he⟩]; exact hleft l
  · cases ha : r.active with
    | false => rw [hinactive ha] at hf; exact hflight l f hf hi
    | true =>
      by_cases he : l = r.link
      · subst he; exact (hactive ha).1.cancelled.cancels hf hi
      · rw [(hactive ha).2 l he] at hf; exact hflight l f hf hi

/-- A seat loaded, told of states that agree in all that a load looks at and leaves. -/
theorem SeatLoaded.congr {s' t' : State} (h : SeatLoaded s t i r) (hs : ∀ j, s'.seat j = s.seat j) (hc : ∀ l c, s'.carrier l c = s.carrier l c)
    (hr : s'.roster = s.roster) (hk : ∀ l, s'.link l = s.link l) (hp : s'.part = s.part) (hclock : s'.clock = s.clock)
    (hgen : s'.generations = s.generations) (hw : s'.boardWrites = s.boardWrites) (ht : ∀ j, t'.seat j = t.seat j)
    (htc : ∀ l c, t'.carrier l c = t.carrier l c) (htr : t'.roster = t.roster) (htk : ∀ l, t'.link l = t.link l)
    (htw : t'.boardWrites = t.boardWrites) (hshown : FloorShown t → FloorShown t') (hwrite : orderWrite t' i = orderWrite t i) : SeatLoaded s' t' i r := by
  obtain ⟨k, hwith, hlinks⟩ := h.links
  have hfun : s'.link = s.link := funext hk
  refine ⟨?_, fun j hj => ?_, fun l c => ?_, ?_, fun hi => hshown (h.header (hr ▸ hi)), ⟨k, ?_, ?_⟩, ?_⟩
  · rw [ht, hs, hclock, hgen, h.seat]
  · rw [ht, hs, h.seats j hj]
  · rw [htc, hs, hc, h.carriers]
  · rw [htr, hr, h.roster]
  · rw [hk, hs]; exact hwith
  · simp only [htk, hfun, hs, hp]; exact hlinks
  · rw [htw, hw, hwrite, h.write]

/-- Settles O55: the load on the state that the slot's reading left, finished. -/
theorem loadSeatLoads : Obligations.LoadSeatLoads := by
  unfold Obligations.LoadSeatLoads
  intro s w o i r ho hk hm hl hp hlen hi hs hb read hr hg hlock hsound
  have hrec := recordRead_loadSeat ho hk hm hl hlen hi hs hb hg
  obtain ⟨hworks, hgood, hwords, hnamed, hfree⟩ := hrec
  have hexec : exec .loadSeat s = .next (workOrder kindLoadSeat loadSeatWork s) := rfl
  rw [workOrder_inHand ho hk hworks.entered] at hexec
  obtain ⟨he, hidle⟩ := hworks
  generalize s.enterSlot w = t at *
  have hrecord : seatRecord (valuesOf (t.reads.drop 3)) = r := by rw [hwords]; exact hr.unique
  have hrefuse : t.recordRefusal i r = none := recordRefusal_ok fun ha => by
    obtain ⟨h1, h2, h3, h4⟩ := hsound ha
    rw [he.link, he.carrier, h1]
    exact ⟨by simp only [h2, h3, or_false]; decide, h4⟩
  rw [loadSeatWork_ok hnamed hfree hgood ((he.lockedUnlifted i).trans (lockedUnlifted_eq_false hlock)) (by rw [hrecord]; exact hrefuse), hrecord] at hexec
  have hpub : t.publishes i = true := (he.publishes i).trans (publishes_iff.2 ⟨hi, hp⟩)
  have hlen6 : t.reads.length = 6 := by
    have := congrArg List.length hwords
    simp [valuesOf] at this; omega
  have hframe := applyRecord_frame (s := t) (i := i) (r := r)
  have hload := loaded (s := t) (i := i) (r := r) he.memory hpub
  generalize t.applyRecord i r = u at *
  have huidle : u.orderRequest = none := orderRequest_over (w := { w with begun := true }) (by rw [hframe]; exact he.worked) (slotReady_iff ho.ready).2.1 rfl <| by
    have hreads : u.reads = t.reads := by rw [hframe]
    rw [hreads]
    exact nextOrderRead_loadSeat_over (by omega) ((slotOf_take (by omega)).symm.trans he.slot) hk fun _ _ => .inr (by omega)
  obtain ⟨hseat, hkept, hmu, -⟩ := hload huidle
  rw [he.roster] at hkept
  have hfin := finishes (code := .ok) (a := o.seat) (b := 0) ho hl he (by rw [hframe]; exact he.layout) hmu hkept
    fun x hx => by have := hx.1; unfold floorWords at this; omega
  generalize u.finishOrder { w with begun := true } { code := .ok, a := o.seat, b := 0 } = f at *
  have hloaded : SeatLoaded s f i r := hseat.congr (fun j => (he.seat j).symm) (fun l c => (he.carrier l c).symm) he.roster.symm
    (fun l => (he.link l).symm) he.part.symm he.clock.symm (by rw [he.frame]) he.boardWrites.symm hfin.seat
    (fun l c => by rw [hfin.frame]; rfl) hfin.roster hfin.link hfin.boardWrites
    (fun h => h.congr hfin.header hfin.roster (by rw [hfin.frame]) (by rw [hfin.frame]))
    ((hfin.write huidle).trans (orderWrite_eq huidle).symm)
  refine ⟨f, hexec, hfin.done, hloaded, hloaded.downlink, hfin.words, ?_⟩
  have e1 : f.carriers = u.carriers := by rw [hfin.frame]
  rw [e1, hfin.seats, hfin.roster, hfin.links, hfin.boardWrites]
  conv_lhs => rw [hfin.frame, hframe, he.frame]

end Sys2Proof.Machine
end

section
/-! PROOFS. The two tables, the replacement of the stores, and RELOAD CLASSES (O58). -/
namespace Sys2Proof.Machine
open Sys2Proof

variable {s t u v f : State} {w : PageWork} {o : Slot} {ws : List Word} {val : Nat → Word} {rs : List ReadWord} {k n : Nat}

/-! Words taken from a table (R71, R96, R181) -/

theorem clampTo_one (x : Nat) : (if x = 0 then 1 else x) = max 1 x := by split <;> omega

theorem classTaken_staged (h : ∀ k < 16, nth ws k = val k) : ClassTaken val (clampClass (rawClass ws)) where
  raiseCounts j := by simp [clampClass, rawClass, lowByte, h j.val (by omega)]
  clearCounts j := by simp [clampClass, rawClass, highByte, h j.val (by omega), clampTo_one]
  silenceTime := by simp [clampClass, rawClass, h 8]
  lostTime := by simp [clampClass, rawClass, h 9]
  confirmTime := by simp [clampClass, rawClass, h 10]
  weakLevel := by simp [clampClass, rawClass, lowByte, h 11]
  speechLevel := by simp [clampClass, rawClass, highByte, h 11]
  dropoutLimit := by simp [clampClass, rawClass, lowByte, h 12]
  fadeWindow := by simp [clampClass, rawClass, highByte, h 12]
  lowMinutes := by simp [clampClass, rawClass, lowByte, h 13]
  critMinutes := by simp [clampClass, rawClass, lowByte, highByte, h 13]
  lowCharge := by simp [clampClass, rawClass, h 14]
  critCharge := by simp [clampClass, rawClass, h 14, h 15]

/-- No field of a class is clamped exactly where the class holds what its words say (R75). -/
theorem classUnclamped_iff (h : ∀ k < 16, nth ws k = val k) : rawClass ws = clampClass (rawClass ws) ↔ ClassUnclamped val (clampClass (rawClass ws)) := by
  generalize hc : clampClass (rawClass ws) = c
  constructor
  · intro he
    subst he
    exact ⟨fun j => by simp [rawClass, highByte, h j.val (by omega)], by simp [rawClass, h], by simp [rawClass, h], by simp [rawClass, h],
      by simp [rawClass, lowByte, h], by simp [rawClass, highByte, h], by simp [rawClass, lowByte, h], by simp [rawClass, highByte, h],
      by simp [rawClass, lowByte, h], by simp [rawClass, highByte, h], by simp [rawClass, h], by simp [rawClass, h]⟩
  · intro hu
    have hraise : (rawClass ws).raiseCounts = c.raiseCounts := by rw [← hc]; rfl
    obtain ⟨c1, c2, c3, c4, c5, c6, c7, c8, c9, c10, c11, c12, c13⟩ := c
    obtain ⟨e2, e3, e4, e5, e6, e7, e8, e9, e10, e11, e12, e13⟩ := hu
    dsimp only at *
    have e2' : (rawClass ws).clearCounts = c2 := by
      refine Vector.ext fun k hk => ?_
      have := e2 ⟨k, hk⟩
      simp only [rawClass, Vector.getElem_ofFn, highByte, h k (by omega)]
      exact this.symm
    subst hraise e2' e3 e4 e5 e6 e7 e8 e9 e10 e11 e12 e13
    simp [rawClass, lowByte, highByte, h]

theorem curveTaken_staged (h : ∀ k < 18, nth ws k = val k) : CurveTaken val (stagedCurve ws) where
  volts j := by simp [stagedCurve, h j.val (by omega)]
  charges j := by simp [stagedCurve, h (8 + j.val) (by omega)]
  shift := by simp [stagedCurve, lowByte, h 16]
  swapStep := by simp [stagedCurve, highByte, h 16]
  period := by simp [stagedCurve, lowByte, h 17]
  hysteresis := by simp [stagedCurve, highByte, h 17]

theorem nth_drop (m : Nat) : nth (ws.drop m) k = nth ws (m + k) := by rw [nth, List.getElem?_drop]; rfl
theorem nth_take (h : k < n) : nth (ws.take n) k = nth ws k := by rw [nth, List.getElem?_take_of_lt h]; rfl

/-- The words of the two tables, one after another (R73). -/
abbrev TableWords (ws : List Word) (val : Nat → Word) : Prop := ∀ k < 136, nth ws k = val k

theorem TableWords.class (h : TableWords ws val) (c : Fin 4) : ∀ k < 16, nth ((ws.take 64).drop (16 * c.val)) k = val (16 * c.val + k) := fun k hk => by
  rw [nth_drop, nth_take (by omega), h _ (by omega)]
theorem TableWords.curve (h : TableWords ws val) (c : Fin 4) : ∀ k < 18, nth ((ws.drop 64).drop (18 * c.val)) k = val (64 + 18 * c.val + k) := fun k hk => by
  rw [nth_drop, nth_drop, Nat.add_assoc, h _ (by omega)]

theorem classesOfTable_get (c : Fin 4) : (classesOfTable ws)[c] = clampClass (rawClass ((ws.take 64).drop (16 * c.val))) := by
  simp [classesOfTable, stagedClasses, rawClasses]
theorem rawClasses_get (c : Fin 4) : (rawClasses (ws.take 64))[c] = rawClass ((ws.take 64).drop (16 * c.val)) := by
  simp [rawClasses]
theorem curvesOfTable_get (c : Fin 4) : (curvesOfTable ws)[c] = stagedCurve ((ws.drop 64).drop (18 * c.val)) := by
  simp [curvesOfTable, stagedCurves]

/-! The stores replaced (R74) -/

theorem curveChanged_iff {a : Option (Vector Curve 4)} {b : Vector Curve 4} (c : Fin 4) : curveChanged a b c = true ↔ ∀ old, a = some old → old[c] ≠ b[c] := by
  cases a with
  | none => simp [curveChanged]
  | some old => simp [curveChanged]

theorem classChanged_iff {a : Option (Vector WarningClass 4)} {b : Vector WarningClass 4} (c : Fin 4) :
    classChanged a b c = true ↔ ∀ old, a = some old → old[c] ≠ b[c] := by
  cases a with
  | none => simp [classChanged]
  | some old => simp [classChanged]

theorem replaceStores_generation (a : Vector WarningClass 4) (b : Vector Curve 4) (c : Fin 4) : (s.replaceStores a b).generations[c] =
    if curveChanged s.curves b c then s.generations[c] + 1 else s.generations[c] := by
  simp [State.replaceStores]

/-- The generation of a curve advances exactly where the curve changed. -/
theorem replaceStores_generation_ne (a : Vector WarningClass 4) (b : Vector Curve 4) (c : Fin 4) :
    (s.replaceStores a b).generations[c] ≠ s.generations[c] ↔ curveChanged s.curves b c = true := by
  rw [replaceStores_generation]
  split
  · next h => simp [h]
  · next h => simp [h]

theorem storesReplaced (h : TableWords ws val) : StoresReplaced s (s.replaceStores (classesOfTable ws) (curvesOfTable ws)) val where
  classes := ⟨_, rfl, fun c => by rw [classesOfTable_get]; exact classTaken_staged (h.class c)⟩
  curves := ⟨_, rfl, fun c => ⟨by rw [curvesOfTable_get]; exact curveTaken_staged (h.curve c), fun old ho he => by
      rw [replaceStores_generation, if_neg]
      rw [curveChanged_iff]; exact fun h' => h' old ho he,
    fun h' => by rw [replaceStores_generation, if_pos ((curveChanged_iff c).2 h')]⟩⟩

theorem StoresReplaced.congr {s' t' : State} (h : StoresReplaced s t val) (h1 : s'.curves = s.curves) (h2 : s'.generations = s.generations)
    (h3 : t'.classes = t.classes) (h4 : t'.curves = t.curves) (h5 : t'.generations = t.generations) : StoresReplaced s' t' val := by
  obtain ⟨a, b⟩ := h
  exact ⟨by rw [h3]; exact a, by rw [h1, h2, h4, h5]; exact b⟩

/-! The masks of four (R75) -/

theorem getLsbD_maskOf {bs : List Bool} (h : bs.length ≤ 16) (k : Nat) : (word (maskOf bs)).getLsbD k = (bs[k]?).getD false := by
  rw [word, BitVec.getLsbD_ofNat, maskOf_testBit]
  by_cases hk : k < 16
  · simp [hk]
  · simp [hk, List.getElem?_eq_none (show bs.length ≤ k by omega)]

theorem wordOfBytes_masks {as bs : List Bool} (ha : as.length = 4) (hb : bs.length = 4) :
    wordOfBytes (maskOf as) (maskOf bs) = word (maskOf (as ++ (List.replicate 4 false ++ bs))) := by
  have h1 := maskOf_lt as
  have h2 := maskOf_lt bs
  rw [ha] at h1
  rw [hb] at h2
  refine BitVec.eq_of_toNat_eq ?_
  have h0 : maskOf (List.replicate 4 false) = 0 := rfl
  rw [wordOfBytes_toNat, maskOf_append, maskOf_append, ha, List.length_replicate, h0, word_toNat (by omega)]; omega

/-- The two masks of a detail of RELOAD CLASSES. -/
theorem mask4_spec (p q : Fin 4 → Bool) : (wordOfBytes (mask4 p) (mask4 q)).toNat < 4096
    ∧ (∀ k, 4 ≤ k → k < 8 → (wordOfBytes (mask4 p) (mask4 q)).getLsbD k = false)
    ∧ ∀ c : Fin 4, (wordOfBytes (mask4 p) (mask4 q)).getLsbD c.val = p c ∧ (wordOfBytes (mask4 p) (mask4 q)).getLsbD (8 + c.val) = q c := by
  have hlen : ∀ g : Fin 4 → Bool, ((List.finRange 4).map g).length = 4 := fun g => by simp
  have hget : ∀ (g : Fin 4 → Bool) (c : Fin 4), ((List.finRange 4).map g)[c.val]? = some (g c) := fun g c => by simp
  have hword := wordOfBytes_masks (hlen p) (hlen q)
  have hall : ((List.finRange 4).map p ++ (List.replicate 4 false ++ (List.finRange 4).map q)).length ≤ 16 := by simp
  refine ⟨?_, fun k h4 h8 => ?_, fun c => ⟨?_, ?_⟩⟩
  · have h1 := maskOf_lt ((List.finRange 4).map p)
    have h2 := maskOf_lt ((List.finRange 4).map q)
    rw [hlen] at h1 h2
    rw [wordOfBytes_toNat]; unfold mask4; omega
  · unfold mask4
    rw [hword, getLsbD_maskOf hall, List.getElem?_append_right (by simp; omega), List.getElem?_append_left (by simp; omega),
      List.getElem?_replicate, hlen, if_pos (by omega)]; rfl
  · unfold mask4
    rw [hword, getLsbD_maskOf hall, List.getElem?_append_left (by simp), hget]; rfl
  · unfold mask4
    rw [hword, getLsbD_maskOf hall, List.getElem?_append_right (by simp; omega), List.getElem?_append_right (by simp; omega), List.length_replicate, hlen,
      show 8 + c.val - 4 - 4 = c.val by omega, hget]; rfl

/-! What RELOAD CLASSES reads (R73) -/

/-- Where RELOAD CLASSES reads its k-th word. -/
def State.reloadWordAt (s : State) (w : PageWork) (k : Nat) : Nat := if k < 3 then s.slotWordAt w k else s.layout.tableAddr (k - 3)

/-- The tables and the page area share no word. -/
theorem tables_apart_pages (hl : s.layoutSound) (hk : k < 136) : s.layout.tableAddr k ≠ s.layout.progressAddr w.page := by
  have hp := regions_apart hl
  simp only [State.regions, List.pairwise_cons, List.mem_cons, forall_eq_or_imp] at hp
  obtain ⟨-, -, -, -, ⟨-, hclass, -⟩, ⟨hcurve, -⟩, -⟩ := hp
  have hb : s.layout.pageBase w.page = s.layout.pageArea ∨ s.layout.pageBase w.page = s.layout.pageArea + 196 := by
    cases w.page
    · exact .inl rfl
    · exact .inr rfl
  unfold Layout.tableAddr
  simp only [progressAddr_eq]
  split <;> omega

theorem nextOrderRead_reload (hg : firstBadRead rs = none) (h3 : 3 ≤ rs.length) (hn : rs.length < 139) (ho : slotOf (valuesOf rs) = o)
    (hk : o.kind = kindReloadClasses) (hp : pairingHolds w o = true) : s.nextOrderRead w rs = some (s.layout.tableAddr (rs.length - 3)) := by
  rw [State.nextOrderRead, if_neg (by rw [hg]; decide), if_neg (Nat.not_lt.2 h3)]; dsimp only
  rw [ho, hp, if_neg (by decide), if_neg (by rw [hk]; decide), if_pos (by rw [hk]; rfl)]
  exact if_pos hn

theorem nextOrderRead_reload_over (hn : 139 ≤ rs.length) (ho : slotOf (valuesOf rs) = o) (hk : o.kind = kindReloadClasses) : s.nextOrderRead w rs = none := by
  unfold State.nextOrderRead
  split
  · rfl
  rw [if_neg (by omega)]; dsimp only
  rw [ho]
  split
  · rfl
  rw [if_neg (by rw [hk]; decide), if_pos (by rw [hk]; rfl)]
  exact if_neg (by simp only [tableWords]; omega)

theorem reads_reload (ho : s.OrderInHand w o) (hk : o.kind = kindReloadClasses) (hl : s.layoutSound) : Reads s w 139 (s.reloadWordAt w) where
  short := by decide
  own := by decide
  slot k hk := if_pos hk
  apart k hk := by
    unfold State.reloadWordAt
    split
    · exact slotWordAt_ne_progress
    · exact tables_apart_pages hl (by omega)
  goes u h1 _ rs hg hn hw := by
    by_cases h3 : rs.length < 3
    · rw [nextOrderRead_slotWord hg h3, State.reloadWordAt, if_pos h3, State.slotWordAt, h1]; rfl
    · obtain ⟨h3', hslot⟩ := slotOf_words ho (rs := rs) fun k hk => hw k hk (by omega)
      rw [nextOrderRead_reload (w := { w with begun := true }) hg h3' hn hslot hk ho.pairing, State.reloadWordAt, if_neg h3, h1]
  ends u _ _ rs hn hw := nextOrderRead_reload_over hn (slotOf_words ho hw).2 hk

/-! RELOAD CLASSES (R73, R75) -/

theorem reloadWork_bad {r : ReadWord} (h : firstBadRead (t.reads.drop 3) = some r) : reloadWork o t = (t, { code := .ramFault, a := word r.addr }) := by
  rw [reloadWork]; dsimp only; rw [h]; rfl
theorem reloadWork_good (h : firstBadRead (t.reads.drop 3) = none) (hw : valuesOf (t.reads.drop 3) = ws) : reloadWork o t =
    (t.replaceStores (classesOfTable ws) (curvesOfTable ws), { code := .ok, a := reloadDetailA t ws, b := reloadDetailB t ws }) := by
  subst hw
  rw [reloadWork]; dsimp only; rw [h]

theorem reloadDetailA_spec (h : TableWords ws val) : (reloadDetailA s ws).toNat < 4096 ∧ (∀ k, 4 ≤ k → k < 8 → (reloadDetailA s ws).getLsbD k = false)
    ∧ ∀ c : Fin 4, ((reloadDetailA s ws).getLsbD c.val = true ↔ ∀ old, s.classes = some old → old[c] ≠ (classesOfTable ws)[c])
      ∧ ((reloadDetailA s ws).getLsbD (8 + c.val) = true ↔ ¬ ClassUnclamped (fun k => val (16 * c.val + k)) (classesOfTable ws)[c]) := by
  obtain ⟨h1, h2, h3⟩ := mask4_spec (fun c => classChanged s.classes (classesOfTable ws) c)
    (fun c => (rawClasses (ws.take 64))[c] != clampClass (rawClasses (ws.take 64))[c])
  refine ⟨h1, h2, fun c => ⟨?_, ?_⟩⟩
  · rw [reloadDetailA, (h3 c).1, classChanged_iff]
  · rw [reloadDetailA, (h3 c).2, bne_iff_ne, rawClasses_get, classesOfTable_get, ne_eq, classUnclamped_iff (h.class c)]

theorem reloadDetailB_spec : (reloadDetailB s ws).toNat < 4096 ∧ (∀ k, 4 ≤ k → k < 8 → (reloadDetailB s ws).getLsbD k = false)
    ∧ ∀ c : Fin 4, ((reloadDetailB s ws).getLsbD c.val = true ↔ curveChanged s.curves (curvesOfTable ws) c = true)
      ∧ ((reloadDetailB s ws).getLsbD (8 + c.val) = true ↔ ¬ CurveValid (curvesOfTable ws)[c]) := by
  obtain ⟨h1, h2, h3⟩ := mask4_spec (fun c => curveChanged s.curves (curvesOfTable ws) c) (fun c => (curvesOfTable ws)[c].faulty)
  refine ⟨h1, h2, fun c => ⟨?_, ?_⟩⟩
  · rw [reloadDetailB, (h3 c).1]
  · rw [reloadDetailB, (h3 c).2, faulty_iff]

/-- The words of the two tables as RELOAD CLASSES has read them. -/
theorem tableWords_read {g : Nat → ReadWord} (hlen : rs.length = 139) (h : ∀ k < 136, rs[3 + k]? = some (g k)) (hg : ∀ k < 136, (g k).bad = false) :
    firstBadRead (rs.drop 3) = none ∧ TableWords (valuesOf (rs.drop 3)) fun k => (g k).value := by
  refine ⟨firstBadRead_none_of fun j hj x hx => ?_, fun k hk => ?_⟩
  · rw [List.length_drop, hlen] at hj
    rw [List.getElem?_drop, h j hj] at hx
    cases hx; exact hg j hj
  · rw [nth, valuesOf, List.getElem?_map, List.getElem?_drop, h k hk]; rfl

/-- Settles O58: the reading of the tables, and the replacement of the stores or the refusal at the first bad word. -/
theorem reloadReplacesStores : Obligations.ReloadReplacesStores := by
  unfold Obligations.ReloadReplacesStores
  intro s w o ho hk hm hl hlen read
  have hexec : exec .reloadClasses s = .next (workOrder kindReloadClasses reloadWork s) := rfl
  have hreads := reads_reload ho hk hl
  have hat : ∀ j, s.reloadWordAt w (3 + j) = s.layout.tableAddr j := fun j => by
    rw [State.reloadWordAt, if_neg (by omega), Nat.add_sub_cancel_left]
  refine ⟨fun hg => ?_, fun k hk136 hg hbad => ?_⟩
  · obtain ⟨⟨he, -⟩, hL, hw⟩ := hreads.enter_inHand ho hm hl fun k hk' => by
      by_cases h3 : k < 3
      · rw [hreads.slotRead h3]; exact ho.good k h3
      · have := hg (k - 3) (by omega)
        rw [← Nat.add_sub_cancel' (Nat.not_lt.1 h3), hat]; exact this
    rw [workOrder_inHand ho hk he] at hexec
    generalize s.enterSlot w = t at *
    have hlen' : (s.slotReads w).length ≤ 139 := by
      unfold State.slotReads; split
      · next h => exact hlen h
      · simp
    rw [max_eq_left hlen'] at hL
    obtain ⟨hfirst, hwords⟩ := tableWords_read (g := read) hL (fun k hk' => by rw [hw _ (by omega), hat]) hg
    rw [reloadWork_good hfirst rfl] at hexec
    dsimp only at hexec
    generalize valuesOf (t.reads.drop 3) = ws at *
    have hstores := storesReplaced (s := t) hwords
    have hgen := replaceStores_generation_ne (s := t) (classesOfTable ws) (curvesOfTable ws)
    have hclasses : (t.replaceStores (classesOfTable ws) (curvesOfTable ws)).classes = some (classesOfTable ws) := rfl
    have hcurves : (t.replaceStores (classesOfTable ws) (curvesOfTable ws)).curves = some (curvesOfTable ws) := rfl
    have hframe : t.replaceStores (classesOfTable ws) (curvesOfTable ws) = { t with
      classes := (t.replaceStores (classesOfTable ws) (curvesOfTable ws)).classes
      curves := (t.replaceStores (classesOfTable ws) (curvesOfTable ws)).curves
      generations := (t.replaceStores (classesOfTable ws) (curvesOfTable ws)).generations } := rfl
    generalize t.replaceStores (classesOfTable ws) (curvesOfTable ws) = u at *
    obtain ⟨a1, a2, a3⟩ := reloadDetailA_spec (s := t) hwords
    obtain ⟨b1, b2, b3⟩ := reloadDetailB_spec (s := t) (ws := ws)
    generalize reloadDetailA t ws = a at *
    generalize reloadDetailB t ws = b at *
    have hfin := finishes (code := .ok) (a := a) (b := b) (p := fun _ => False) (u := u) ho hl he
      (by rw [hframe]; exact he.layout) (by rw [hframe]; exact he.memory) (fun _ _ => by rw [hframe]; exact ⟨rfl, rfl⟩) fun _ h => h.elim
    generalize u.finishOrder { w with begun := true } { code := .ok, a := a, b := b } = f at *
    have e1 : f.classes = u.classes := by rw [hfin.frame]
    have e2 : f.curves = u.curves := by rw [hfin.frame]
    have e3 : f.generations = u.generations := by rw [hfin.frame]
    have c1 : t.classes = s.classes := by rw [he.frame]
    have c2 : t.curves = s.curves := by rw [he.frame]
    have c3 : t.generations = s.generations := by rw [he.frame]
    have hstored : StoresReplaced s f fun k => (read k).value := hstores.congr c2.symm c3.symm e1 e2 e3
    have hlast : f = { s with
        classes := f.classes, curves := f.curves, generations := f.generations, worked := f.worked, lift := none, reads := [], ram := f.ram,
        badParity := f.badParity } := by
      rw [e1, e2, e3]
      conv_lhs => rw [hfin.frame, hframe, he.frame]
    refine ⟨f, a, b, hexec, hfin.done, hstored, a1, b1, fun k h4 h8 => ⟨a2 k h4 h8, b2 k h4 h8⟩, fun c new hnew => ⟨?_, ?_⟩,
      fun c new hnew => ⟨?_, ?_⟩, hfin.only, hlast⟩
    · rw [e1, hclasses] at hnew; cases hnew
      rw [(a3 c).1, c1]
    · rw [e1, hclasses] at hnew; cases hnew
      exact (a3 c).2
    · rw [(b3 c).1, ← hgen, e3, c3]
    · rw [e2, hcurves] at hnew; cases hnew
      exact (b3 c).2
  · have hbads := hreads.refuses_bad (k := 3 + k) (a := word (read k).addr) ho hk hm hl (by omega) (by omega)
      (fun j h3 hj => by
        have := hg (j - 3) (by omega)
        rw [← Nat.add_sub_cancel' h3, hat]; exact this)
      (by rw [hat]; exact hbad) hexec fun _ hL => by
        have hread : ∀ j ≤ k, ((s.enterSlot w).reads.drop 3)[j]? = some (read j) := fun j hj => by rw [List.getElem?_drop, hL _ (by omega), hat]
        exact reloadWork_bad (firstBadRead_at (hread k le_rfl) hbad fun j hj x hx => by rw [hread j (by omega)] at hx; cases hx; exact hg j hj)
    rw [hat] at hbads
    obtain ⟨t, h1, h2, h3, h4⟩ := hbads
    refine ⟨t, h1, h2, fun h => ⟨?_, h3 h⟩, h4⟩
    show (s.orderRead w (3 + k) (s.layout.tableAddr k)).addr = _
    rw [orderRead_eq, List.getElem?_eq_none]
    · rfl
    · unfold State.slotReads; split
      · next hbegun => exact h.elim (fun h => by rw [hbegun] at h; cases h) id
      · exact Nat.zero_le _

end Sys2Proof.Machine
end

section
/-! PROOFS. The shares of a bulk order's seats, and its slices (O57). -/
namespace Sys2Proof.Machine
open Sys2Proof

variable {s t u v f : State} {i j : Seat} {w : PageWork} {o : Slot} {r : SeatRecord} {b c : Bulk} {mask : Byte} {k m n : Nat}

/-! The record of a seat of a range (R6, R17) -/

/-- Where a LOAD RANGE reads the k-th word of seat i's record. -/
def State.recordWordAt (s : State) (i : Seat) (k : Nat) : Nat := s.layout.recordAddr i + k

theorem recordWord_eq : s.recordWord i k = s.readsAs s.reads (s.recordWordAt i) k := by
  unfold State.recordWord State.readsAs
  split
  · next h => rw [h]; rfl
  · next h => rw [h]; rfl

/-- The reading of a record goes on to its next word. -/
def State.nextOfRecord (s : State) (i : Seat) (rs : List ReadWord) : Option Nat := if recordRead rs then none else some (s.layout.recordAddr i + rs.length)

theorem readRecord_eq : s.readRecord i = State.readOn (s.nextOfRecord i) 3 { s with reads := s.reads } := rfl

theorem nextOfRecord_over {rs : List ReadWord} (h : recordRead rs = true) : s.nextOfRecord i rs = none := if_pos h
theorem nextOfRecord_goes {rs : List ReadWord} (h : firstBadRead rs = none) (hn : rs.length < 3) : s.nextOfRecord i rs = some (s.recordWordAt i rs.length) :=
  if_neg (by simp [recordRead, h]; omega)

theorem recordRead_of_bad {rs : List ReadWord} {x : ReadWord} (h : firstBadRead rs = some x) : recordRead rs = true := by simp [recordRead, h]
theorem recordRead_of_length {rs : List ReadWord} (h : 3 ≤ rs.length) : recordRead rs = true := by simp [recordRead, h]

/-- A record read good. -/
theorem readRecord_good (hn : s.reads.length ≤ 3) (hg : ∀ k < 3, (s.recordWord i k).bad = false) :
    s.readRecord i = { s with reads := [s.recordWord i 0, s.recordWord i 1, s.recordWord i 2] } := by
  have hw : s.reads ++ s.looks (s.recordWordAt i) s.reads.length (3 - s.reads.length) = [s.recordWord i 0, s.recordWord i 1, s.recordWord i 2] := by
    refine List.ext_getElem? fun k => ?_
    by_cases hk : k < 3
    · rw [getElem?_looks (by omega), ← recordWord_eq]
      match k, hk with
      | 0, _ => rfl
      | 1, _ => rfl
      | 2, _ => rfl
    · rw [List.getElem?_eq_none (by rw [List.length_append, length_looks]; omega), List.getElem?_eq_none (by simp only [List.length_cons, List.length_nil]; omega)]
  have hrun := readOn_good (s := s) (next := s.nextOfRecord i) (s.recordWordAt i) s.reads.length (3 - s.reads.length) s.reads
    (fun j hj => by
      rw [nextOfRecord_goes (firstBadRead_looks fun k hk => by rw [← recordWord_eq]; exact hg k (by omega)) (by simp; omega)]; simp)
    fun j hj => by
      have := hg (s.reads.length + j) (by omega)
      rw [recordWord_eq, readsAs_stands (by omega)] at this
      exact this
  rw [Nat.sub_add_cancel hn, hw] at hrun
  rw [readRecord_eq, hrun]
  exact readOn_over (nextOfRecord_over (recordRead_of_length (by simp))) _

/-- A record whose first bad word is the k-th. -/
theorem readRecord_bad (hp : s.part ≠ .clearing) (hk : k < 3) (hg : ∀ j < k, (s.recordWord i j).bad = false) (hb : (s.recordWord i k).bad = true) :
    ∃ x, firstBadRead (s.readRecord i).reads = some x
      ∧ (s.reads.length ≤ k → FaultReported s (s.readRecord i) (s.recordWordAt i k) .parity)
      ∧ (k < s.reads.length → (s.readRecord i).faultLatch = s.faultLatch ∧ (s.readRecord i).causes = s.causes)
      ∧ s.readRecord i = { s with reads := (s.readRecord i).reads, faultLatch := (s.readRecord i).faultLatch, causes := (s.readRecord i).causes } := by
  have first : ∀ L : List ReadWord, (∀ j ≤ k, L[j]? = some (s.recordWord i j)) → firstBadRead L = some (s.recordWord i k) := fun L hL =>
    firstBadRead_at (hL k le_rfl) hb fun j hj x hx => by rw [hL j (by omega)] at hx; cases hx; exact hg j hj
  refine ⟨s.recordWord i k, ?_⟩
  rw [readRecord_eq]
  by_cases hlen : k < s.reads.length
  · have hfirst := first s.reads fun j hj => by rw [recordWord_eq, readsAs_read (by omega), List.getElem?_eq_getElem]
    rw [readOn_over (nextOfRecord_over (recordRead_of_bad (rs := s.reads) hfirst))]
    exact ⟨hfirst, fun h => absurd hlen (Nat.not_lt.2 h), fun _ => ⟨rfl, rfl⟩, rfl⟩
  · have hlen' := Nat.not_lt.1 hlen
    have hrun := readOn_bad (s := s) (next := s.nextOfRecord i) (addr := s.recordWordAt i) (3 - (k - s.reads.length) - 1) hlen'
      (fun j hj => by
        rw [nextOfRecord_goes (firstBadRead_looks fun x hx => by rw [← recordWord_eq]; exact hg x (by omega)) (by simp; omega)]; simp)
      (fun j hj => by rw [← recordWord_eq]; exact hg j hj) (by rw [← recordWord_eq]; exact hb)
      fun l hl => nextOfRecord_over (by simp [recordRead, hl])
    rw [show k - s.reads.length + (3 - (k - s.reads.length) - 1 + 1) = 3 by omega] at hrun
    rw [hrun]
    refine ⟨first _ fun j hj => by rw [recordWord_eq]; exact getElem?_looks (by omega), fun _ => ?_, fun h => absurd h hlen, rfl⟩
    exact (faultReported_recordFault hp _ _).congr rfl rfl rfl rfl

/-! The share of a seat (R17) -/

theorem judgeOneOfRange_bad {x : ReadWord} (h : firstBadRead s.reads = some x) : judgeOneOfRange i (s, b) = (s, b.failed .ramFault) := by
  rw [judgeOneOfRange, h]; rfl
theorem judgeOneOfRange_refused {code : ResultCode} {x : Word} (h : firstBadRead s.reads = none)
    (hx : s.recordRefusal i (seatRecord (valuesOf s.reads)) = some (code, x)) : judgeOneOfRange i (s, b) = (s, b.failed code) := by
  rw [judgeOneOfRange]; dsimp only; rw [h, if_neg (by decide), hx]
theorem judgeOneOfRange_ok (h : firstBadRead s.reads = none) (hx : s.recordRefusal i (seatRecord (valuesOf s.reads)) = none) :
    judgeOneOfRange i (s, b) = (s.applyRecord i (seatRecord (valuesOf s.reads)), { b with handled := b.handled + 1 }) := by
  rw [judgeOneOfRange]; dsimp only; rw [h, if_neg (by decide), hx]

theorem rangeCounted_failed (code : ResultCode) : RangeCounted b (b.failed code) code where
  second := by unfold Bulk.failed; dsimp only; split <;> rfl
  refused := by unfold Bulk.failed; dsimp only; split <;> rfl
  first h := by unfold Bulk.failed; rw [h]; rfl
  later x h := by unfold Bulk.failed; rw [h]; rfl
  rest := rfl

/-- While a slice goes on: the memory and the part, and the bulk order in hand, whose reading each share ends. -/
structure InSlice (s : State) (kind : BulkKind) (n : Nat) : Prop where
  memory : s.memoryLaw
  part : s.part = .running ∨ s.part = .stopping
  worked : ∃ w b, s.worked = some w ∧ w.bulk = some b ∧ b.kind = kind
  short : s.reads.length ≤ 3
  count : n ≤ s.layout.seatCount

theorem InSlice.congr {kind : BulkKind} (h : InSlice s kind n) (hm : t.memoryLaw) (h1 : t.part = s.part) (h2 : t.worked = s.worked)
    (h3 : t.reads.length ≤ 3) (h4 : t.layout = s.layout) : InSlice t kind n :=
  ⟨hm, by rw [h1]; exact h.part, by rw [h2]; exact h.worked, h3, by rw [h4]; exact h.count⟩

/-- No access of a bulk order waits once the reading of a record has ended. -/
theorem bulk_idle {kind : BulkKind} (h : ∃ w b, s.worked = some w ∧ w.bulk = some b ∧ b.kind = kind)
    (hr : kind ≠ .loadRange ∨ recordRead s.reads = true) : s.orderRequest = none := by
  obtain ⟨w, b, hw, hb, hk⟩ := h
  have hnext : s.nextRangeRead b = none := by
    by_cases hcase : b.kind ≠ .loadRange ∨ b.atBoundary
    · exact if_pos hcase
    · have hread := hr.resolve_left fun hk' => hcase (.inl (hk ▸ hk'))
      rw [State.nextRangeRead, if_neg hcase]
      split
      · rfl
      · exact if_pos (by rw [hread, Bool.or_true])
  rw [State.orderRequest, hw]
  dsimp only
  rw [if_neg]
  rw [State.orderWaits, hb]
  dsimp only
  rw [hnext]; simp

theorem orderWrite_same (h1 : t.seat i = s.seat i) (h2 : t.roster = s.roster) (h3 : t.clock = s.clock) : orderWrite t i = orderWrite s i := by
  unfold orderWrite changeWrite State.boardBody State.seatFlags
  rw [h1, h2, h3]

theorem wordsKept_refl {p : Nat → Prop} : wordsKept s s p := fun _ _ => ⟨rfl, rfl⟩

/-- A record that its checks refuse leaves the seat as it is. -/
theorem refusedShare {code : ResultCode} {y : Word} {x : State} (hx : x = { s with reads := x.reads }) (hgood : firstBadRead x.reads = none)
    (hr : seatRecord (valuesOf x.reads) = r) (hy : x.recordRefusal i r = some (code, y)) :
    ({ (judgeOneOfRange i (x, b)).1 with reads := [] } : State) = { s with reads := [] } ∧ RangeCounted b (judgeOneOfRange i (x, b)).2 code := by
  rw [judgeOneOfRange_refused hgood (by rw [hr]; exact hy)]
  refine ⟨?_, rangeCounted_failed code⟩
  show ({ x with reads := [] } : State) = _
  rw [hx]

/-- A record that passes its checks loads the seat. -/
theorem loadedShare {x : State} (h : InSlice s .loadRange n) (hi : i.val < n) (hx : x = { s with reads := x.reads }) (hlen : x.reads.length = 3) :
    let t := ({ x.applyRecord i r with reads := [] } : State)
    SeatLoaded s t i r ∧ wordsKept s t (fun a => floorWords a ∧ i ∈ s.roster)
      ∧ t = { s with seats := t.seats, carriers := t.carriers, roster := t.roster, links := t.links,
                     boardWrites := t.boardWrites, ram := t.ram, badParity := t.badParity, reads := [] } := by
  intro t
  have hmx : x.memoryLaw := by rw [hx]; exact h.memory
  have hpub : x.publishes i = true := publishes_iff.2 ⟨by rw [hx]; exact Nat.lt_of_lt_of_le hi h.count, by rw [hx]; exact h.part⟩
  have hframe := applyRecord_frame (s := x) (i := i) (r := r)
  have hload := loaded (s := x) (i := i) (r := r) hmx hpub
  have ht : t = { x.applyRecord i r with reads := [] } := rfl
  clear_value t
  generalize x.applyRecord i r = u at *
  have hidle : u.orderRequest = none := bulk_idle (by rw [hframe, hx]; exact h.worked) (.inr (recordRead_of_length (by rw [hframe, ← hlen])))
  obtain ⟨hseat, hkept, -, -⟩ := hload hidle
  have hseats : ∀ j, t.seat j = u.seat j := fun j => by rw [ht]; rfl
  refine ⟨hseat.congr (fun j => by rw [hx]; rfl) (fun l ch => by rw [hx]; rfl) (by rw [hx]) (fun l => by rw [hx]; rfl) (by rw [hx]) (by rw [hx]) (by rw [hx])
    (by rw [hx]) hseats (fun l ch => by rw [ht]; rfl) (by rw [ht]) (fun l => by rw [ht]; rfl) (by rw [ht])
    (fun hs => hs.congr (fun y _ => by rw [ht]; rfl) (by rw [ht]) (by rw [ht]) (by rw [ht])) (orderWrite_same (hseats i) (by rw [ht]) (by rw [ht])), fun a ha => ?_, ?_⟩
  · have h1 : t.readWord a = u.readWord a ∧ t.wordBad a = u.wordBad a := by rw [ht]; exact ⟨rfl, rfl⟩
    have h2 : x.readWord a = s.readWord a ∧ x.wordBad a = s.wordBad a := by rw [hx]; exact ⟨rfl, rfl⟩
    have h3 := hkept a (by rw [hx]; exact ha)
    exact ⟨h1.1.trans (h3.1.trans h2.1), h1.2.trans (h3.2.trans h2.2)⟩
  · rw [ht]
    dsimp only
    conv_lhs => rw [hframe, hx]

/-- What the judgement of a good record leaves, from the state `x` in which the record has been read. -/
theorem recordShare {x : State} (h : InSlice s .loadRange n) (hi : i.val < n) (hx : x = { s with reads := x.reads }) (hlen : x.reads.length = 3)
    (hgood : firstBadRead x.reads = none) (hr : seatRecord (valuesOf x.reads) = r) :
    let t := ({ (judgeOneOfRange i (x, b)).1 with reads := [] } : State)
    let c := (judgeOneOfRange i (x, b)).2
    let sound := (s.link r.link).enabled = true ∧ r.txId ≠ 0 ∧ r.txId ≠ 0xFFFF#16
    let taken := ∃ j, j ≠ i ∧ s.carrier r.link r.channel = some j
    (r.active = true → ¬ sound → t = { s with reads := [] } ∧ RangeCounted b c .badRecord)
      ∧ (r.active = true → sound → taken → t = { s with reads := [] } ∧ RangeCounted b c .carrierTaken)
      ∧ (r.active = false ∨ sound ∧ ¬ taken → SeatLoaded s t i r ∧ c = { b with handled := b.handled + 1 }
          ∧ wordsKept s t (fun a => floorWords a ∧ i ∈ s.roster)
          ∧ t = { s with seats := t.seats, carriers := t.carriers, roster := t.roster, links := t.links,
                         boardWrites := t.boardWrites, ram := t.ram, badParity := t.badParity, reads := [] }) := by
  dsimp only
  have hlink : x.link r.link = s.link r.link := by rw [hx]; rfl
  have hcarrier : x.carrier r.link r.channel = s.carrier r.link r.channel := by rw [hx]; rfl
  have hsound : ¬ ((x.link r.link).enabled = false ∨ r.txId = 0 ∨ r.txId = 0xFFFF#16) ↔ (s.link r.link).enabled = true ∧ r.txId ≠ 0 ∧ r.txId ≠ 0xFFFF#16 := by
    rw [hlink, not_or, not_or, Bool.not_eq_false]
  refine ⟨fun ha hs => refusedShare hx hgood hr (recordRefusal_bad ha (by_contra fun h' => hs (hsound.1 h'))),
    fun ha hs ⟨j, hj, hc⟩ => refusedShare hx hgood hr (recordRefusal_taken ha (hsound.2 hs) hj (hcarrier.trans hc)), fun hok => ?_⟩
  have hrefuse : x.recordRefusal i r = none := recordRefusal_ok fun ha => by
    obtain ⟨hs, ht⟩ := hok.resolve_left (by rw [ha]; decide)
    refine ⟨hsound.2 hs, ?_⟩
    rw [hcarrier]
    cases hc : s.carrier r.link r.channel with
    | none => exact .inl rfl
    | some j => exact .inr (congrArg some (by_contra fun hj => ht ⟨j, hj, hc⟩))
  rw [judgeOneOfRange_ok hgood (by rw [hr]; exact hrefuse), hr]
  obtain ⟨h1, h2, h3⟩ := loadedShare (r := r) h hi hx hlen
  exact ⟨h1, rfl, h2, h3⟩

/-- The share of a LOAD RANGE's seat. -/
theorem rangeShare (h : InSlice s .loadRange n) (hi : i.val < n) : RangeShare i s (loadOneOfRange i (s, b)).1 b (loadOneOfRange i (s, b)).2 := by
  have hpart : s.part ≠ .clearing := by rcases h.part with h | h <;> rw [h] <;> decide
  cases hlock : s.lockedUnlifted i with
  | true =>
    obtain ⟨h1, h2⟩ := lockedUnlifted_iff.1 hlock
    have hdo : loadOneOfRange i (s, b) = ({ s with reads := [] }, b.failed .locked) := by
      rw [loadOneOfRange]; dsimp only; rw [if_pos hlock]
    have hno : ¬ ((s.seat i).ctx.locked = false ∨ s.lift = some i) := by rw [h1]; simp [h2]
    rw [hdo]
    exact ⟨fun _ _ => ⟨rfl, rangeCounted_failed _⟩, fun h => absurd h hno, fun h => absurd h hno⟩
  | false =>
    have hno : (s.seat i).ctx.locked = true → s.lift ≠ some i → False := fun h1 h2 => by
      rw [lockedUnlifted_iff.2 ⟨h1, h2⟩] at hlock; cases hlock
    have hdo : loadOneOfRange i (s, b) = ({ (judgeOneOfRange i (s.readRecord i, b)).1 with reads := [] }, (judgeOneOfRange i (s.readRecord i, b)).2) := by
      rw [loadOneOfRange]; dsimp only; rw [if_neg (by rw [hlock]; decide)]
    rw [hdo]
    refine ⟨fun h1 h2 => (hno h1 h2).elim, fun _ k hk hg hb => ?_, fun _ hg r hr => ?_⟩
    · obtain ⟨x, hfirst, hnew, hhad, hframe⟩ := readRecord_bad hpart hk hg hb
      rw [judgeOneOfRange_bad hfirst]
      generalize s.readRecord i = y at *
      refine ⟨rangeCounted_failed _, fun hlen => (hnew hlen).congr rfl rfl rfl rfl, hhad, ?_⟩
      dsimp only
      rw [hframe]
    · have hread := readRecord_good h.short hg
      have hgood : firstBadRead [s.recordWord i 0, s.recordWord i 1, s.recordWord i 2] = none := by
        rw [firstBadRead_eq_none]
        simp only [List.mem_cons, List.not_mem_nil, or_false]
        rintro r (rfl | rfl | rfl)
        · exact hg 0 (by decide)
        · exact hg 1 (by decide)
        · exact hg 2 (by decide)
      generalize s.readRecord i = x at *
      have hx : x.reads = [s.recordWord i 0, s.recordWord i 1, s.recordWord i 2] := by rw [hread]
      exact recordShare h hi (by rw [hx]; exact hread) (by rw [hx]; rfl) (by rw [hx]; exact hgood) (by rw [hx]; exact hr.unique)

theorem maskOf_eq_zero {bs : List Bool} : maskOf bs = 0 ↔ ∀ b ∈ bs, b = false := by
  induction bs with
  | nil => simp [maskOf]
  | cons b bs ih => cases b <;> simp [maskOf, bit, ih]

theorem changedMask_eq_zero {x y : Vector Monitor 8} : changedMask x y = 0 ↔ ∀ k : Fin 8, ¬ acked x[k] y[k] := by
  rw [changedMask, maskOf_eq_zero]
  simp only [← ackChanged_iff]
  constructor
  · intro h k hk
    have := h (ackChanged x[k] y[k]) (List.mem_map.2 ⟨(x[k], y[k]), List.mem_iff_getElem.2 ⟨k.val, by simp, by simp⟩, rfl⟩)
    rw [this] at hk; cases hk
  · intro h b hb
    obtain ⟨⟨m, m'⟩, hm, rfl⟩ := List.mem_map.1 hb
    obtain ⟨k, hk, he⟩ := List.mem_iff_getElem.1 hm
    have hk8 : k < 8 := by simpa using hk
    rw [List.getElem_zip, Prod.mk.injEq] at he
    obtain ⟨rfl, rfl⟩ := he
    simpa using h ⟨k, hk8⟩

/-- The share of an ACKNOWLEDGE ALL's seat. -/
theorem ackShare (h : InSlice s (.ackAll mask) n) (hi : i.val < n) : AckShare mask i s (ackOneOfAll mask i (s, b)).1 b (ackOneOfAll mask i (s, b)).2 := by
  cases ha : (s.seat i).ctx.active with
  | false =>
    have hdo : ackOneOfAll mask i (s, b) = (s, b) := if_neg (by rw [ha]; decide)
    rw [hdo]
    have hno : (s.seat i).ctx.active ≠ true := by rw [ha]; decide
    exact ⟨fun _ => ⟨rfl, rfl⟩, fun h => absurd h hno, fun h => absurd h hno, fun h => absurd h hno, fun h => absurd h hno, fun h => absurd h hno,
      fun h => absurd h hno⟩
  | true =>
    have hdo : ackOneOfAll mask i (s, b) = (publishVisible s (s.setMonitors i (ackMonitors mask (s.seat i).monitors)) [i],
        { b with handled := b.handled + 1, second := if s.acknowledgeMask i mask = 0 then b.second else b.second + 1 }) := by
      exact if_pos ha
    have hv : s.setMonitors i (ackMonitors mask (s.seat i).monitors) = { s with seats := (s.setMonitors i (ackMonitors mask (s.seat i).monitors)).seats } := rfl
    have hvseat : (s.setMonitors i (ackMonitors mask (s.seat i).monitors)).seat i = { s.seat i with monitors := ackMonitors mask (s.seat i).monitors } := by
      rw [seat_setMonitors, if_pos rfl]
    have hvkept := setMonitors_kept (t := s) (i := i) (ackMonitors mask (s.seat i).monitors)
    have hmask : s.acknowledgeMask i mask = 0 ↔ ∀ k : Fin 8, ¬ acked (s.seat i).monitors[k] (ackMonitors mask (s.seat i).monitors)[k] :=
      changedMask_eq_zero
    have hidle : (s.setMonitors i (ackMonitors mask (s.seat i).monitors)).orderRequest = none := bulk_idle (kind := .ackAll mask) h.worked (.inl (by simp))
    have hone := publishedOne (s := s) (t := s.setMonitors i (ackMonitors mask (s.seat i).monitors)) (i := i)
      (publishes_iff.2 ⟨Nat.lt_of_lt_of_le hi h.count, h.part⟩) (by rw [hvseat]) rfl rfl
    rw [hdo]
    generalize s.setMonitors i (ackMonitors mask (s.seat i).monitors) = v at *
    generalize publishVisible s v [i] = t at *
    have hseat := hone.seat
    rw [hvseat] at hseat
    have hmon : ∀ k : Fin 8, (t.seat i).monitors[k] = (ackMonitors mask (s.seat i).monitors)[k] := fun k => by rw [hseat]
    have hno : (s.seat i).ctx.active ≠ false := by rw [ha]; decide
    refine ⟨fun h => absurd h hno, fun _ k hk => ?_, fun _ k hk => ?_, fun _ => ?_, fun _ ⟨k, hk⟩ => ?_, fun _ hk => ?_, fun _ => ⟨?_, fun j hj => ?_, ?_⟩⟩
    · rw [hmon, getElem_ackMonitors, if_pos hk]; exact acknowledged_spec _
    · rw [hmon, getElem_ackMonitors, if_neg (by rw [hk]; decide)]
    · rw [orderWrite_eq (hone.request.trans hidle)]; exact hone.published
    · rw [if_neg fun h0 => hmask.1 h0 k (hmon k ▸ hk)]
    · rw [if_pos (hmask.2 fun k => hmon k ▸ hk k)]
    · rw [hseat]
    · rw [hone.others j hj, hvkept j hj]
    · conv_lhs => rw [hone.frame, hv]

/-! The seats of a slice, one after another (R149) -/

theorem mem_seatsFrom : i ∈ seatsFrom m n ↔ m ≤ i.val ∧ i.val < n := by
  rw [seatsFrom, List.mem_filter]; simp [allSeats]

/-- The numbers of a slice's seats are those from the first up to the last. -/
theorem numbers_seatsFrom (hn : n ≤ 512) : (seatsFrom m n).map (·.val) = List.range' m (n - m) := by
  have hlt : (seatsFrom m n).Pairwise (· < ·) := (List.pairwise_lt_finRange 512).filter _
  refine (List.pairwise_map.2 (hlt.imp fun h => Fin.lt_def.1 h)).eq_of_mem_iff List.pairwise_lt_range' fun k => ?_
  rw [List.mem_map, List.mem_range'_1]
  constructor
  · rintro ⟨i, hi, rfl⟩
    rw [mem_seatsFrom] at hi; omega
  · exact fun h => ⟨⟨k, by omega⟩, mem_seatsFrom.2 ⟨h.1, by show k < n; omega⟩, rfl⟩

theorem bulkSeat_named {q : State × Bulk} : bulkSeat q i.val = match q.2.kind with
    | .loadRange => loadOneOfRange i q
    | .ackAll mask => ackOneOfAll mask i q := by
  rw [bulkSeat, seatOfNat, dif_pos i.isLt] <;> rfl

/-- What a share keeps of the order in hand: its record read, if any, is gone. -/
theorem bulkSeat_reads (h : s.reads.length ≤ 3) : (bulkSeat (s, b) m).1.reads.length ≤ 3 := by
  unfold bulkSeat
  split
  · exact h
  split
  · exact Nat.zero_le _
  · unfold ackOneOfAll; dsimp only
    split
    · rw [State.acknowledgeSeat, publishVisible_eq, publishAll_frame]; exact h
    · exact h

theorem InSlice.share (h : InSlice s b.kind n) : InSlice (bulkSeat (s, b) m).1 (bulkSeat (s, b) m).2.kind n := by
  have hkind : (bulkSeat (s, b) m).2.kind = b.kind := (samePlace_bulkSeat (s, b) m).2.2.2.2.1
  rw [hkind]
  exact h.congr ((flows_bulkSeat (s, b) m).memory h.memory)
    (erase_keeps_part (erase_bulkSeat (k := allBut [.part]) (by decide) (s, b)) rfl)
    (erase_keeps_worked (erase_bulkSeat (k := allBut [.worked]) (by decide) (s, b)) rfl) (bulkSeat_reads h.short)
    (erase_keeps_layout (erase_bulkSeat (k := allBut [.layout]) (by decide) (s, b)) rfl)

/-- One share, by the kind of its order. -/
theorem oneShare (hi : i.val < n) (h : InSlice s b.kind n) : match b.kind with
    | .loadRange => RangeShare i s (bulkSeat (s, b) i.val).1 b (bulkSeat (s, b) i.val).2
    | .ackAll mask => AckShare mask i s (bulkSeat (s, b) i.val).1 b (bulkSeat (s, b) i.val).2 := by
  rw [bulkSeat_named]
  cases hk : b.kind with
  | loadRange => exact rangeShare (hk ▸ h) hi
  | ackAll mask => exact ackShare (hk ▸ h) hi

/-- The shares of seats, one after another. -/
theorem bulkShares {is : List Seat} (hi : ∀ i ∈ is, i.val < n) (h : InSlice s b.kind n) :
    BulkShares is (s, b) ((is.map (·.val)).foldl bulkSeat (s, b)) := by
  induction is generalizing s b with
  | nil => exact rfl
  | cons i is ih =>
    exact ⟨_, _, oneShare (hi i List.mem_cons_self) h, ih (fun j hj => hi j (List.mem_cons_of_mem i hj)) h.share⟩

/-- The shares of a slice are those of its seats, in ascending order. -/
theorem sliceShares (hn : n ≤ 512) (h : InSlice s b.kind n) :
    ∃ q, (List.range' m (n - m)).foldl bulkSeat (s, b) = q ∧ BulkShares (seatsFrom m n) (s, b) q := by
  have hlt : ∀ i ∈ seatsFrom m n, i.val < n := fun i hi => (mem_seatsFrom.1 hi).2
  rw [← numbers_seatsFrom hn]
  generalize seatsFrom m n = is at *
  exact ⟨_, rfl, bulkShares hlt h⟩

/-! The slice (R149) -/

theorem mem_otherPage : ∀ {p q : Page}, p ≠ q → p = otherPage q
  | .a, .b, _ | .b, .a, _ => rfl
  | .a, .a, h | .b, .b, h => absurd rfl h

/-- While one page is in hand the other is the only one that may be posted. -/
theorem posting_other (hp : ∀ p ∈ [Page.a, Page.b], p ∈ s.posting ↔ s.pageState p = .posted) {q : Page}
    (hq : s.pageState q ≠ .posted) (ho : s.pageState (otherPage q) = .posted) : ∃ rest, s.posting = otherPage q :: rest := by
  have hall : ∀ p : Page, p ∈ s.posting ↔ s.pageState p = .posted := fun p => hp p (by cases p <;> simp)
  cases hpost : s.posting with
  | nil =>
    have := (hall _).2 ho
    rw [hpost] at this; cases this
  | cons p rest =>
    have hmem : p ∈ s.posting := by rw [hpost]; exact List.mem_cons_self
    have hne : p ≠ q := fun h => hq (h ▸ (hall p).1 hmem)
    exact ⟨rest, by rw [mem_otherPage hne]⟩

/-- The page in hand put aside. -/
def State.putAside (s : State) (w : PageWork) (b : Bulk) : State :=
  { s.putWord (s.layout.summaryAddr w.page) suspendedWord with suspended := some { w with bulk := some { b with suspendedMark := true } }, worked := none }

theorem suspend_eq : s.suspend w b = (s.putAside w b).takeHead := rfl

/-- The slice that BULK_SLICE works, and the end to which it brings the order. -/
theorem workSlice_eq : s.workSlice w b =
    if b.stop ≤ b.sliceEnd then (s.slice b).1.finishOrder w (bulkEnd (s.slice b).2)
    else { (s.slice b).1 with worked := some { w with bulk := some (s.slice b).2 } } := by
  obtain ⟨h1, h2, -⟩ := slice_place (s := s) b
  unfold State.workSlice
  rw [← h1, ← h2]

theorem slice_eq : s.slice b = (((List.range' b.cursor (b.sliceEnd - b.cursor)).foldl bulkSeat (s, b)).1,
    { ((List.range' b.cursor (b.sliceEnd - b.cursor)).foldl bulkSeat (s, b)).2 with cursor := b.sliceEnd, atBoundary := true }) := rfl

/-- A bulk order that has visited its last seat. -/
theorem bulkDone {e : OrderEnd} (hm : u.memoryLaw) (hl : u.layout.pageBase w.page + 196 ≤ 16384) (hs : w.slot < 32)
    (he : e = { code := e.code, a := e.a, b := e.b }) :
    OrderDone u (u.finishOrder w e) { w with begun := true } e.code e.a e.b ∧ wordsKept u (u.finishOrder w e) (slotWords u w)
      ∧ u.finishOrder w e = { u with
        worked := (u.finishOrder w e).worked, lift := none, reads := [], ram := (u.finishOrder w e).ram, badParity := (u.finishOrder w e).badParity } := by
  obtain ⟨hframe, h3, h4, h5, hkept, -⟩ := finishOrder_spec (u := u) (w := w) (e := e) hm hl hs
  have e1 : e.ending = none := by rw [he]
  have e2 : e.lift = none := by rw [he]
  have e3 : e.bound = none := by rw [he]
  rw [e1, e2, e3] at hframe
  generalize u.finishOrder w e = t at *
  refine ⟨⟨fun h => (nomatch h), h3.trans (word_resultCode _), h4, h5, by rw [hframe], by rw [hframe], by rw [hframe]⟩, hkept.mono fun a ha => .inr ha, ?_⟩
  have hw : t.worked = some { w with
    slot := w.slot + 1, begun := false, refusals := w.refusals || !e.code.success, bound := none, bulk := none, ending := none } := by rw [hframe]
  rw [hw]; exact hframe

/-- Settles O57: the checks of a boundary, or the shares of the slice and then the cursor or the result. -/
theorem bulkSliceHandlesSeats : Obligations.BulkSliceHandlesSeats := by
  unfold Obligations.BulkSliceHandlesSeats
  intro s w b hw hb hlaw hm hlayout hreads hp details aborting cut yields last begun inHand
  obtain ⟨hcount1, hcount512, -, -, hl⟩ := hlayout hp
  obtain ⟨-, hposted, hworked, -, -⟩ := hlaw
  obtain ⟨⟨hcount, -, hbulk⟩, hstate⟩ := hworked w hw
  obtain ⟨hslot, hcursor, hstop, hbound, hending, hslice⟩ := hbulk b hb
  have hslot32 : w.slot < 32 := Nat.lt_of_lt_of_le hslot hcount
  have hbase := pageBase_le hl
  have hexec : exec .bulkSlice s = .next (s.bulkOn w b) := by
    show execBulkSlice s = _
    rw [execBulkSlice, hw]; dsimp only; rw [hb]; dsimp only; rw [if_pos hp]
  have hdetails : ∀ c : Bulk, details c = bulkDetails c := fun c => by
    show (match c.kind with
      | .loadRange => (word c.handled, word (c.refused % 256 + 256 * (c.second % 256)))
      | .ackAll _ => (word c.handled, word c.second)) = bulkDetails c
    unfold bulkDetails; cases c.kind <;> rfl
  refine ⟨fun ⟨hat, hcut⟩ => ?_, fun ⟨hat, hcut, hother, hsus, hmark⟩ => ?_, fun hcut hyields => ?_⟩
  · rw [State.bulkOn, if_pos hat, boundaryCut_some hcut] at hexec
    have hc := cutShort hm (hbase w.page) hslot32 b (if s.part = .stopping then .stopped else .aborted)
    dsimp only at hexec
    generalize s.cutBulk w b _ = t at *
    obtain ⟨c1, c2, c3, c4, c5, c6⟩ := hc
    obtain ⟨d1, d2⟩ := bulkDetails_eq b
    refine ⟨t, hexec, c1, ?_, ?_, c4, c5.mono fun a ha => ?_, c6⟩
    · rw [hdetails, d1]; exact c2
    · rw [hdetails, d2]; exact c3
    · simp only [slotWords, slotAddr_eq]
      exact .inr ⟨a - (s.layout.pageBase w.page + 4 + 6 * w.slot), by omega, by omega, by omega⟩
  · have hnone := boundaryCut_none (s := s) (w := w) (b := b) fun h => hcut ⟨hat, h⟩
    have hy : s.yields w b = true := by simp [State.yields, hother, hsus, hmark]
    rw [State.bulkOn, if_pos hat, hnone] at hexec
    dsimp only at hexec
    rw [if_pos hy, suspend_eq] at hexec
    obtain ⟨rest, hrest⟩ := posting_other hposted (q := w.page) (by rcases hstate with h | h <;> rw [h] <;> decide) hother
    have hwrote : Wrote s (s.putAside w b) _ := ((Wrote.refl hm).put (a := s.layout.pageBase w.page + 2) (by have := hbase w.page; omega) 0x8000#16).congr
      (u := s.putAside w b) rfl rfl
    have hframe : s.putAside w b = { s with
      suspended := some { w with bulk := some { b with suspendedMark := true } }, worked := none, ram := (s.putAside w b).ram,
      badParity := (s.putAside w b).badParity } := rfl
    generalize s.putAside w b = u at *
    have htaken := pageTaken (s := u) (p := otherPage w.page) (rest := rest) (by rw [hframe]; exact hrest) hwrote.memory (by rw [hframe]; exact hbase _)
      (by rw [hframe]; show s.part ≠ _; rcases hp with h | h <;> rw [h] <;> decide)
    exact ⟨_, u, _, hexec, hwrote.written (by simp), hwrote.kept fun a ha => Function.update_of_ne ha _ _, hframe, htaken⟩
  · have hlast : b.cursor ≤ last ∧ last ≤ b.stop := by
      show b.cursor ≤ (if b.atBoundary = false then b.sliceEnd else if b.cursor + 16 ≤ b.stop then b.cursor + 16 else b.stop)
        ∧ (if b.atBoundary = false then b.sliceEnd else if b.cursor + 16 ≤ b.stop then b.cursor + 16 else b.stop) ≤ b.stop
      rcases hslice with h | ⟨h1, -, h2⟩
      · rw [h, if_neg (by decide)]; split <;> omega
      · split
        · exact ⟨h1, h2⟩
        · split <;> omega
    have hstart : s.bulkOn w b = State.workSlice begun w inHand := by
      show s.bulkOn w b = State.workSlice (if b.atBoundary then { s with reads := [] } else s) w { b with atBoundary := false, sliceEnd := last }
      unfold State.bulkOn
      cases hat : b.atBoundary with
      | false =>
        rw [if_neg (by decide), if_neg (by decide)]
        have : b = { b with atBoundary := false, sliceEnd := last } := by
          have hl : last = b.sliceEnd := if_pos hat
          rw [hl, ← hat]
        rw [← this]
      | true =>
        rw [if_pos rfl, if_pos rfl, boundaryCut_none fun h => hcut ⟨hat, h⟩]
        dsimp only
        have hy : s.yields w b = false := by
          rw [Bool.eq_false_iff]
          intro hy
          simp only [State.yields, Bool.and_eq_true, beq_iff_eq, Option.isNone_iff_eq_none, Bool.not_eq_true'] at hy
          exact hyields ⟨hat, hcut, hy.1.1, hy.1.2, hy.2⟩
        rw [if_neg (by rw [hy]; decide)]
        have hl : last = min (b.cursor + 16) b.stop := by
          show (if b.atBoundary = false then b.sliceEnd else if b.cursor + 16 ≤ b.stop then b.cursor + 16 else b.stop) = _
          rw [hat, if_neg (by decide)]; split <;> omega
        rw [hl]; rfl
    have hbegin : InSlice begun b.kind last := by
      have hs : begun = { s with reads := begun.reads } := by
        show (if b.atBoundary then { s with reads := [] } else s) = { s with reads := (if b.atBoundary then { s with reads := [] } else s).reads }
        split <;> rfl
      have hlen : begun.reads.length ≤ 3 := by
        show (if b.atBoundary then { s with reads := [] } else s).reads.length ≤ 3
        split
        · exact Nat.zero_le _
        · exact hreads
      exact ⟨by rw [hs]; exact hm, by rw [hs]; exact hp, ⟨w, b, by rw [hs]; exact hw, hb, rfl⟩, hlen, by rw [hs]; exact Nat.le_trans hlast.2 hstop⟩
    have hlay : begun.layout = s.layout := by
      show (if b.atBoundary then { s with reads := [] } else s).layout = s.layout
      split <;> rfl
    rw [hstart, workSlice_eq, slice_eq] at hexec
    obtain ⟨⟨u, c⟩, hshares⟩ := sliceShares (m := b.cursor) (Nat.le_trans (Nat.le_trans hlast.2 hstop) hcount512) (b := inHand) hbegin
    have hmem := (flows_slice (s := begun) inHand).memory hbegin.memory
    have hulay : (begun.slice inHand).1.layout = s.layout :=
      (erase_keeps_layout (erase_slice (s := begun) (b := inHand) (k := allBut [.layout]) (by decide)) rfl).trans hlay
    rw [slice_eq] at hmem hulay
    clear_value begun
    dsimp only at hexec hmem hulay
    have hrange : List.range' inHand.cursor (inHand.sliceEnd - inHand.cursor) = List.range' b.cursor (last - b.cursor) := rfl
    rw [hrange, hshares.1] at hexec hmem hulay
    refine ⟨_, u, c, hexec, ?_, fun hlt => ?_, fun hle => ?_⟩
    · with_reducible exact hshares.2
    · rw [if_neg (by show ¬ b.stop ≤ last; omega)]
    · rw [if_pos (by exact hle)]
      have hdone := bulkDone (u := u) (w := w) (e := bulkEnd { c with cursor := last, atBoundary := true }) hmem (by rw [hulay]; exact hbase _) hslot32 rfl
      rw [hdetails]; exact hdone

end Sys2Proof.Machine
end

section
/-! PROOFS. A report accepted: the sample, the tracker, the estimator and the mute channel (O34). -/
namespace Sys2Proof.Machine
open Sys2Proof

variable {s t u v f : State} {i j : Seat} {l m : LinkId} {r : Report} {c : Curve} {e : Estimator} {gen : Word} {now : Clock} {reading : Nat}
  {fresh valid muted : Bool}

/-! A battery reading (R99 to R103) -/

theorem filtered_eq (f reading k : Nat) : (filtered f reading k : Int) = max 0 ((f : Int) + (16 * (reading : Int) - f) / 2 ^ k) := by
  rw [filtered, Int.toNat_eq_max, max_comm, Int.fdiv_eq_ediv_of_nonneg _ (by positivity)]
  push_cast
  rw [Int.mul_comm]

/-- An estimator with a new F: the voltage, the charge and the status follow (R101, R102, R111). -/
def follow (c : Curve) (e : Estimator) : Estimator :=
  derived { e with v := (e.f + 8) / 16, charge := if c.faulty then e.charge else chargeAt c ((e.f + 8) / 16) } c.faulty

theorem takeReading_eq : takeReading c e reading now =
    follow c (if e.seeded then { e with f := filtered e.f reading c.shift } else { e with f := reading * 16, seeded := true, nextSample := now }) := by
  unfold takeReading follow
  cases e.seeded <;> cases c.faulty <;> rfl

/-- Steps 6 to 9 of an arrival (R99). -/
theorem readingTaken : ReadingTaken c e (takeReading c { e with missing := false } reading now) reading now := by
  rw [takeReading_eq]
  dsimp only
  have hcharge : ∀ y : Estimator, y.charge = e.charge → (CurveValid c → ChargeTaken c (follow c y).v (follow c y).charge)
      ∧ (¬ CurveValid c → (follow c y).charge = e.charge) := fun y hy => by
    unfold follow derived; dsimp only
    refine ⟨fun h => ?_, fun h => ?_⟩
    · rw [(faulty_eq_false_iff c).2 h, if_neg (by decide)]; exact chargeAt_taken h _
    · rw [if_pos ((faulty_iff c).2 h), hy]
  cases hs : e.seeded with
  | false =>
    rw [if_neg (by decide)]
    obtain ⟨h1, h2⟩ := hcharge { e with missing := false, f := reading * 16, seeded := true, nextSample := now } rfl
    exact ⟨fun _ => ⟨Nat.mul_comm _ _, rfl⟩, fun h => absurd (hs.symm.trans h) Bool.false_ne_true, rfl, h1, h2, derived_status _ c, rfl⟩
  | true =>
    rw [if_pos rfl]
    obtain ⟨h1, h2⟩ := hcharge { e with missing := false, f := filtered e.f reading c.shift } rfl
    refine ⟨fun h => absurd (h.symm.trans hs) Bool.false_ne_true, fun _ => ⟨filtered_eq _ _ _, rfl⟩, rfl, h1, h2, derived_status _ c, ?_⟩
    simp only [follow, derived]

/-! An arrival at the estimator (R99) -/

theorem arrival_stale (hf : fresh = false) (hg : e.genSeen ≠ gen) : arrivalEstimator c gen e fresh valid reading now = (e, false) := by
  subst hf; exact if_pos hg

/-- The estimator that a FRESH arrival restarts first. -/
def arrivalBase (gen : Word) (e : Estimator) (fresh : Bool) : Estimator := if fresh then restartedEstimator gen else e

theorem arrivalBase_genSeen (h : ¬ (fresh = false ∧ e.genSeen ≠ gen)) : (arrivalBase gen e fresh).genSeen = gen := by
  unfold arrivalBase
  cases fresh with
  | true => rfl
  | false => simpa using h

theorem arrival_missing (h : (arrivalBase gen e fresh).genSeen = gen) : arrivalEstimator c gen e fresh false reading now =
    ({ arrivalBase gen e fresh with missing := true, status := .noData }, fresh) := by
  have hd : ∀ y : Estimator, derived { y with missing := true } c.faulty = { y with missing := true, status := .noData } := fun y => by
    simp [derived, statusOf]
  rw [arrivalEstimator]; dsimp only
  rw [show (if fresh = true then restartedEstimator gen else e) = arrivalBase gen e fresh from rfl, if_neg (by rw [h]; simp), if_pos rfl, hd]

theorem arrival_taken (h : (arrivalBase gen e fresh).genSeen = gen) : arrivalEstimator c gen e fresh true reading now =
    if swapSeen c (arrivalBase gen e fresh) reading then (takeReading c (restartedEstimator gen) reading now, true)
    else (takeReading c { arrivalBase gen e fresh with missing := false } reading now, fresh) := by
  rw [arrivalEstimator]; dsimp only
  rw [show (if fresh = true then restartedEstimator gen else e) = arrivalBase gen e fresh from rfl, if_neg (by rw [h]; simp), if_neg (by decide), h]
  rfl

theorem swapSeen_iff : swapSeen c e reading = true ↔ e.seeded = true ∧ e.v + c.swapStep ≤ reading := by simp [swapSeen]

/-! The seat after an accepted report (R21, R22) -/

/-- The mute channel after an arrival (R131). -/
def arrivedChannel (ch : MuteChannel) (again muted : Bool) : MuteChannel := confirmed (if again then issuedChannel ch else ch) muted

/-- A seat after a report has been accepted, before its publication. -/
def acceptedSeat (x : SeatState) (c : Curve) (gen : Word) (now : Clock) (r : Report) : SeatState :=
  { x with
    ctx := { x.ctx with sample := some (sampleOf r), lastReport := now, foreignSeen := false }
    tracker := trackPilot x.tracker r.pilot now
    estimator := (arrivalEstimator c gen x.estimator r.fresh r.battValid r.reading.toNat now).1
    monitors := if (arrivalEstimator c gen x.estimator r.fresh r.battValid r.reading.toNat now).2
      then (x.monitors.set condLow clearMonitor).set condCritical clearMonitor else x.monitors
    channel := arrivedChannel x.channel (r.fresh && x.ctx.active) r.muted }

theorem seat_clearBatteryMonitors : (s.clearBatteryMonitors i).seat j = if j = i then { s.seat i with
    monitors := ((s.seat i).monitors.set condLow clearMonitor).set condCritical clearMonitor } else s.seat j := seat_setMonitors ..

theorem seat_batteryArrival : (s.batteryArrival i fresh valid reading).seat j =
    let a := arrivalEstimator (s.seatCurve i) (s.seatGeneration i) (s.seat i).estimator fresh valid reading s.clock
    if j = i then { s.seat i with
      estimator := a.1
      monitors := if a.2 then ((s.seat i).monitors.set condLow clearMonitor).set condCritical clearMonitor else (s.seat i).monitors } else s.seat j := by
  unfold State.batteryArrival; dsimp only
  split
  · next h =>
    rw [seat_clearBatteryMonitors]
    simp only [seat_setEstimator, if_true]
    split <;> rfl
  · next h =>
    rw [seat_setEstimator]

theorem seat_muteArrival : (s.muteArrival i fresh muted).seat j = if j = i then { s.seat i with
    channel := arrivedChannel (s.seat i).channel (fresh && (s.seat i).ctx.active) muted } else s.seat j := by
  unfold State.muteArrival arrivedChannel; dsimp only
  split
  · simp only [seat_setChannel, seat_issue, if_true]; split <;> rfl
  · rw [seat_setChannel]

theorem link_muteArrival : (s.muteArrival i fresh muted).link l =
    if (fresh && (s.seat i).ctx.active) = true ∧ l = (s.seat i).ctx.link then issuedOn (s.part = .running) (s.link l) i else s.link l := by
  have hset : ∀ (x : State) y, (x.setChannel i y).link l = x.link l := fun _ _ => rfl
  unfold State.muteArrival; dsimp only
  rw [hset]
  split
  · next h => rw [link_issue]; simp [h]
  · next h => rw [if_neg fun h' => h h'.1]

/-- What of a report an arrival's blocks see besides the estimator. -/
def State.sampleTaken (s : State) (i : Seat) (r : Report) : State :=
  let t := s.setCtx i { (s.seat i).ctx with sample := some (sampleOf r), lastReport := s.clock, foreignSeen := false }
  t.setTracker i (trackPilot (t.seat i).tracker r.pilot t.clock)

theorem acceptReport_eq : s.acceptReport i r =
    ((s.sampleTaken i r).batteryArrival i r.fresh r.battValid r.reading.toNat).muteArrival i r.fresh r.muted := rfl

theorem seat_sampleTaken : (s.sampleTaken i r).seat j = if j = i then { s.seat i with
    ctx := { (s.seat i).ctx with sample := some (sampleOf r), lastReport := s.clock, foreignSeen := false }
    tracker := trackPilot (s.seat i).tracker r.pilot s.clock } else s.seat j := by
  unfold State.sampleTaken; dsimp only
  rw [seat_setTracker]
  simp only [seat_setCtx, if_true]
  split <;> rfl

theorem seat_acceptReport : (s.acceptReport i r).seat j =
    if j = i then acceptedSeat (s.seat i) (s.seatCurve i) (s.seatGeneration i) s.clock r else s.seat j := by
  have hseat := fun j => seat_sampleTaken (s := s) (i := i) (j := j) (r := r)
  have hclock : (s.sampleTaken i r).clock = s.clock := rfl
  have hgen : (s.sampleTaken i r).seatGeneration i = s.seatGeneration i := seatGeneration_congr (by rw [hseat, if_pos rfl]) rfl
  have hcurve : (s.sampleTaken i r).seatCurve i = s.seatCurve i := by
    unfold State.seatCurve; rw [hseat, if_pos rfl]; rfl
  rw [acceptReport_eq]
  generalize s.sampleTaken i r = x at *
  have hbat := fun j => seat_batteryArrival (s := x) (i := i) (j := j) (fresh := r.fresh) (valid := r.battValid) (reading := r.reading.toNat)
  rw [hcurve, hgen, hclock, hseat, if_pos rfl] at hbat
  generalize x.batteryArrival i r.fresh r.battValid r.reading.toNat = y at *
  rw [seat_muteArrival, hbat, if_pos rfl, hbat]
  split
  · rfl
  · next h => exact (hseat j).trans (if_neg h)

theorem link_acceptReport : (s.acceptReport i r).link l =
    if (r.fresh && (s.seat i).ctx.active) = true ∧ l = (s.seat i).ctx.link then issuedOn (s.part = .running) (s.link l) i else s.link l := by
  have herase := fun k (h : Opens k [.seats]) => (erase_batteryArrival (s := s.sampleTaken i r) (i := i) (f := r.fresh) (b := r.battValid)
    (r := r.reading.toNat) h)
  have hlinks : ((s.sampleTaken i r).batteryArrival i r.fresh r.battValid r.reading.toNat).links = s.links :=
    erase_keeps_links (herase (allBut [.links]) (by decide)) rfl
  have hpart : ((s.sampleTaken i r).batteryArrival i r.fresh r.battValid r.reading.toNat).part = s.part :=
    erase_keeps_part (herase (allBut [.part]) (by decide)) rfl
  have hctx : (((s.sampleTaken i r).batteryArrival i r.fresh r.battValid r.reading.toNat).seat i).ctx.active = (s.seat i).ctx.active
      ∧ (((s.sampleTaken i r).batteryArrival i r.fresh r.battValid r.reading.toNat).seat i).ctx.link = (s.seat i).ctx.link := by
    rw [seat_batteryArrival]; dsimp only; rw [if_pos rfl, seat_sampleTaken, if_pos rfl]; exact ⟨rfl, rfl⟩
  rw [acceptReport_eq]
  generalize (s.sampleTaken i r).batteryArrival i r.fresh r.battValid r.reading.toNat = y at *
  rw [link_muteArrival, hctx.1, hctx.2, State.link, hlinks]
  simp only [hpart]
  rfl

/-- Every field but the seats and the links is as it was. -/
theorem eq_of_erase_arrival (h : erase (fun f => decide (f ∈ [Fld.seats, Fld.links])) t = erase (fun f => decide (f ∈ [Fld.seats, Fld.links])) s) :
    t = { s with seats := t.seats, links := t.links } := by
  obtain ⟨⟩ := s
  obtain ⟨⟩ := t
  simpa [erase] using h

theorem acceptReport_frame : s.acceptReport i r = { s with seats := (s.acceptReport i r).seats, links := (s.acceptReport i r).links } :=
  eq_of_erase_arrival (erase_acceptReport (by simp [Opens]))

/-! REPORT_TAKE of the seat's own report -/

theorem judgeReport_accepted (h : s.carrier l r.channel = some i) (hr : r.txId = (s.seat i).ctx.txId) :
    s.judgeReport l r = publishVisible s (s.acceptReport i r) [i] := by
  rw [State.judgeReport, h]; exact if_pos hr

theorem trackPilot_opens {x : Tracker} (h : x.dropoutStart = none) : trackPilot x false now = { x with
    dropoutStart := some now, onsets := if x.onsets < 255 then x.onsets + 1 else x.onsets } := by
  obtain ⟨d, a, b, w⟩ := x
  cases h; rfl
theorem trackPilot_ends {x : Tracker} : trackPilot x true now = { x with dropoutStart := none } := by
  obtain ⟨d, a, b, w⟩ := x
  cases d <;> rfl
theorem trackPilot_lasts {x : Tracker} (h : x.dropoutStart ≠ none) : trackPilot x false now = x := by
  obtain ⟨d, a, b, w⟩ := x
  cases d with
  | none => exact absurd rfl h
  | some d => rfl

theorem matchesIntent_iff {x : Intent} : matchesIntent muted x = true ↔ muted = decide (x = .muted) := by
  cases x <;> cases muted <;> decide

theorem confirmed_issued (ch : MuteChannel) : confirmed (issuedChannel ch) muted = issuedChannel ch :=
  if_neg fun h => h.1.elim (fun h => (nomatch h)) fun h => (nomatch h)

/-- What the arrival of a report leaves of the estimator and of its two monitors' clearing (R99, R103, R104). -/
theorem arrival_spec (stale swap : Prop) (hstale : stale ↔ fresh = false ∧ e.genSeen ≠ gen)
    (hswap : swap ↔ ¬ stale ∧ valid = true ∧ (arrivalBase gen e fresh).seeded = true ∧ (arrivalBase gen e fresh).v + c.swapStep ≤ reading) :
    let a := arrivalEstimator c gen e fresh valid reading now
    (stale → a.1 = e) ∧ (¬ stale → valid = false → a.1 = { arrivalBase gen e fresh with missing := true, status := .noData })
      ∧ (¬ stale → valid = true → ¬ swap → ReadingTaken c (arrivalBase gen e fresh) a.1 reading now)
      ∧ (¬ stale → valid = true → swap → ReadingTaken c (restartedEstimator gen) a.1 reading now)
      ∧ (a.2 = true ↔ fresh = true ∨ swap) := by
  dsimp only
  by_cases hs : stale
  · obtain ⟨h1, h2⟩ := hstale.1 hs
    have hno : ¬ swap := fun h => (hswap.1 h).1 hs
    rw [arrival_stale h1 h2]
    exact ⟨fun _ => rfl, fun h => absurd hs h, fun h => absurd hs h, fun h => absurd hs h, by simp [h1, hno]⟩
  · have hg := arrivalBase_genSeen (fun h => hs (hstale.2 h))
    cases valid with
    | false =>
      have hno : ¬ swap := fun h => Bool.false_ne_true (hswap.1 h).2.1
      rw [arrival_missing hg]
      exact ⟨fun h => absurd h hs, fun _ _ => rfl, fun _ h => absurd h Bool.false_ne_true, fun _ h => absurd h Bool.false_ne_true, by simp [hno]⟩
    | true =>
      have hseen : swapSeen c (arrivalBase gen e fresh) reading = true ↔ swap := by
        rw [swapSeen_iff, hswap]; simp [hs]
      rw [arrival_taken hg]
      refine ⟨fun h => absurd h hs, fun _ h => absurd h.symm Bool.false_ne_true, fun _ _ h => ?_, fun _ _ h => ?_, ?_⟩
      · rw [if_neg (hseen.not.2 h)]; exact readingTaken
      · rw [if_pos (hseen.2 h)]; exact readingTaken
      · by_cases h : swap
        · rw [if_pos (hseen.2 h)]; simp [h]
        · rw [if_neg (hseen.not.2 h)]; simp [h]

/-- Settles O34: the arrival's blocks one after another on the state without the report, and the publication. -/
theorem reportsAccepted : Obligations.ReportsAccepted := by
  unfold Obligations.ReportsAccepted
  intro s l r i k x c gen stale base swap hp hslot hcarrier htx hactive hlink hi
  have hexec := exec_reportTake l s
  rw [if_pos hp, takeReport_held hslot, judgeReport_accepted (s := s.slotEmptied l) (i := i) hcarrier htx] at hexec
  have hlinkof := fun m => link_slotEmptied (s := s) (l := l) (m := m)
  have hempty : s.slotEmptied l = { s with links := (s.slotEmptied l).links } := rfl
  generalize s.slotEmptied l = z at *
  have hzseat : ∀ j, z.seat j = s.seat j := fun j => by rw [hempty]; rfl
  have hzcurve : z.seatCurve i = c := by
    show _ = s.seatCurve i
    rw [hempty]; rfl
  have hzgen : z.seatGeneration i = gen := by
    show _ = s.seatGeneration i
    rw [hempty]; rfl
  have hzclock : z.clock = s.clock := by rw [hempty]
  have hzpart : z.part = .running := by rw [hempty]; exact hp
  have hseat := fun j => seat_acceptReport (s := z) (i := i) (j := j) (r := r)
  have hlinks := fun m => link_acceptReport (s := z) (i := i) (l := m) (r := r)
  have hframe := acceptReport_frame (s := z) (i := i) (r := r)
  have hact : (s.seat i).ctx.active = true := hactive
  have hhome : (s.seat i).ctx.link = l := hlink
  simp only [hzseat, hzcurve, hzgen, hzclock, hact, hhome, Bool.and_true, hlinkof] at hseat hlinks
  have hone := publishedOne (s := z) (t := z.acceptReport i r) (i := i)
    (publishes_iff.2 ⟨by rw [hframe, hempty]; exact hi, by rw [hframe]; exact .inl hzpart⟩) (by rw [hseat, if_pos rfl, hzseat]; rfl) (by rw [hframe]) (by rw [hframe])
  generalize z.acceptReport i r = y at *
  generalize publishVisible z y [i] = t at *
  have htseat := hone.seat
  rw [hseat, if_pos rfl] at htseat
  have htlink : ∀ m, t.link m = y.link m := fun m => by rw [hone.frame]; rfl
  have hstale : stale ↔ r.fresh = false ∧ (s.seat i).estimator.genSeen ≠ gen := Iff.rfl
  have hswap : swap ↔ ¬ stale ∧ r.battValid = true ∧ (arrivalBase gen (s.seat i).estimator r.fresh).seeded = true
      ∧ (arrivalBase gen (s.seat i).estimator r.fresh).v + c.swapStep ≤ r.reading.toNat := Iff.rfl
  obtain ⟨a1, a2, a3, a4, a5⟩ := arrival_spec (now := s.clock) stale swap hstale hswap
  refine ⟨t, hexec, ?_, fun h1 h2 => ?_, fun h1 => ?_, fun h1 h2 => ?_, ?_, ?_, ?_, ?_, fun m => ?_, fun h1 => ⟨?_, ?_⟩, fun h1 => ⟨?_, ?_⟩, ?_, fun j hj => ?_,
    fun m hm => ?_, ?_⟩
  · rw [htseat]; rfl
  · rw [htseat]; dsimp only [acceptedSeat]; rw [h1]; exact trackPilot_opens h2
  · rw [htseat]; dsimp only [acceptedSeat]; rw [h1]; exact trackPilot_ends
  · rw [htseat]; dsimp only [acceptedSeat]; rw [h1]; exact trackPilot_lasts h2
  · rw [htseat]; exact a1
  · rw [htseat]; exact a2
  · rw [htseat]; exact a3
  · rw [htseat]; exact a4
  · rw [htseat]
    dsimp only [acceptedSeat]
    by_cases h : r.fresh = true ∨ swap
    · rw [if_pos (a5.2 h), getElem_clearedBattery]; exact (if_congr (and_iff_left h) rfl rfl).symm
    · rw [if_neg (a5.not.2 h), if_neg fun h' => h h'.2]
  · rw [htseat]; dsimp only [acceptedSeat, arrivedChannel]
    rw [h1, Bool.true_and, hact, if_pos rfl, confirmed_issued]; rfl
  · rw [htlink, hlinks, if_pos ⟨h1, rfl⟩, if_pos rfl]
    rw [← eq_true hzpart]
    exact issuedLink_issuedOn i
  · rw [htseat]; dsimp only [acceptedSeat, arrivedChannel]
    rw [h1, Bool.false_and, if_neg Bool.false_ne_true]
    exact if_congr (and_congr_right fun _ => matchesIntent_iff) rfl rfl
  · rw [htlink, hlinks, if_neg (by rw [h1]; simp), if_pos rfl]
  · have hsame : SamePicture s t i ↔ SamePicture z t i := SamePicture.congr (hzseat i).symm (by rw [hempty]) rfl rfl
    have hpub := hone.published
    unfold publishedIfChanged at hpub ⊢
    rw [hsame, ← hzseat i, ← hzclock, show s.boardWrites = z.boardWrites by rw [hempty]]
    exact hpub
  · rw [hone.others j hj, hseat, if_neg hj]
  · rw [htlink, hlinks, if_neg fun h => hm h.2, if_neg hm]
  · have hk : t.links = y.links := by rw [hone.frame]
    rw [hk]
    conv_lhs => rw [hone.frame, hframe, hempty]

end Sys2Proof.Machine
end

section
/-! PROOFS. What an evaluation makes of a monitor, an estimator and a mute channel (R53, R62, R86, R106 to R111, R132). -/
namespace Sys2Proof.Machine
open Sys2Proof

variable {s t u v f : State} {i j : Seat} {l m : LinkId} {c : Curve} {e : Estimator} {gen : Word} {now : Clock} {silent : Bool}

/-! A monitor (R62) -/

theorem persisted_persist (n k : Nat) (raw : Bool) (x : Monitor) : Persisted n k raw x (persist n k raw x) where
  clear h := by cases raw <;> simp [persist, h, onsetAt]
  onset h := by cases raw <;> simp [persist, h, onsetAt]
  raised h := by cases raw <;> simp [persist, h, easingAt]
  noted h := by cases raw <;> simp [persist, h, easingAt]
  easing h := by cases raw <;> simp [persist, h, easingAt]
  lapsed h := by cases raw <;> simp [persist, h]

theorem persisted_monitorAt {n k : Nat} {raw b : Bool} {x : Monitor} (h : n ≠ 0) (hb : b = raw) : Persisted n k b x (monitorAt n k (some raw) x) := by
  subst hb
  rw [monitorAt, if_neg h]; exact persisted_persist n k b x

theorem monitorAt_disabled {n k : Nat} {raw : Option Bool} {x : Monitor} (h : n = 0) : monitorAt n k raw x = clearMonitor := if_pos h

theorem monitorAt_held {n k : Nat} {x : Monitor} : monitorAt n k none x = if n = 0 then clearMonitor else x := rfl

/-! The estimate (R110) -/

theorem EstimateOf.congr {h : List (Clock × Nat)} {e' : Estimator} (he : EstimateOf h e) (h1 : e'.result = e.result) (h2 : e'.minutes = e.minutes) :
    EstimateOf h e' := by
  obtain ⟨hfew, htable⟩ := he
  refine ⟨by rw [h1, h2]; exact hfew, fun t0 c0 tn cn ha hb => ?_⟩
  obtain ⟨a1, a2, a3, a4⟩ := htable t0 c0 tn cn ha hb
  exact ⟨by rw [h1, h2]; exact a1, by rw [h1, h2]; exact a2, by rw [h1, h2]; exact a3, by rw [h1, h2]; exact a4⟩

theorem estimateOf_computed : EstimateOf e.history (computed e) := by
  unfold computed
  cases hf : e.history.head? with
  | none =>
    have hnil : e.history = [] := List.head?_eq_none_iff.1 hf
    refine ⟨fun _ => ⟨rfl, rfl⟩, fun t0 c0 tn cn h _ => ?_⟩
    rw [hf] at h; cases h
  | some p =>
    cases hb : e.history.getLast? with
    | none =>
      have hnil : e.history = [] := List.getLast?_eq_none_iff.1 hb
      rw [hnil] at hf; cases hf
    | some q =>
      obtain ⟨t0, c0⟩ := p
      obtain ⟨tn, cn⟩ := q
      dsimp only
      refine ⟨fun h => by rw [if_pos h]; exact ⟨rfl, rfl⟩, fun t0' c0' tn' cn' h1 h2 => ?_⟩
      rw [hf] at h1; rw [hb] at h2
      cases h1; cases h2
      refine ⟨fun h => by rw [if_pos h]; exact ⟨rfl, rfl⟩, fun h h' => ?_, fun h h' h'' => ?_, fun h h' h'' => ?_⟩
      · rw [if_neg (Nat.not_lt.2 h), if_pos h']; exact ⟨rfl, rfl⟩
      · rw [if_neg (Nat.not_lt.2 h), if_neg (Nat.not_le.2 h'), if_pos (show minutesLeft cn (elapsed t0 tn) (c0 - cn) ≤ 999 from h'')]; exact ⟨rfl, rfl⟩
      · rw [if_neg (Nat.not_lt.2 h), if_neg (Nat.not_le.2 h'), if_neg (show ¬ minutesLeft cn (elapsed t0 tn) (c0 - cn) ≤ 999 from Nat.not_le.2 h'')]; exact ⟨rfl, rfl⟩

/-! The history (R108, R109) -/

/-- The next sample time, held within its age. -/
def heldNext (now t : Clock) : Clock := if (now - t).toNat < 2147483648 then heldReading now t else t

theorem aged_eq (t now : Clock) : aged t now = heldReading now t := rfl

theorem trimmed_next : (trimmed e now).nextSample = heldNext now e.nextSample := by
  rw [trimmed_nextSample, heldNext]
  simp only [reached_iff]; rfl

theorem trimmed_frame : trimmed e now = { e with
    history := (trimmed e now).history, nextSample := (trimmed e now).nextSample, result := (trimmed e now).result, minutes := (trimmed e now).minutes } := by
  unfold trimmed; dsimp only
  split
  · generalize List.dropWhile _ _ = h
    have hc := computed_frame (e := { e with history := h })
    have hh := computed_history (e := { e with history := h })
    have hn := computed_nextSample (e := { e with history := h })
    generalize computed _ = y at *
    rw [hh, hn]
    conv_lhs => rw [hc]
  · rfl

theorem trimmed_estimate : (trimmedHistory e now ≠ e.history → EstimateOf (trimmedHistory e now) (trimmed e now))
    ∧ (trimmedHistory e now = e.history → (trimmed e now).result = e.result ∧ (trimmed e now).minutes = e.minutes) := by
  have hlen : (trimmedHistory e now).length < e.history.length ↔ trimmedHistory e now ≠ e.history := by
    refine ⟨fun h he => by rw [he] at h; exact Nat.lt_irrefl _ h, fun h => ?_⟩
    refine Nat.lt_of_le_of_ne trimmedHistory_suffix.length_le fun he => h (trimmedHistory_suffix.eq_of_length he)
  unfold trimmed; dsimp only
  split
  · next hlt => exact ⟨fun _ => (estimateOf_computed (e := { e with history := trimmedHistory e now })).congr rfl rfl, fun h => absurd h (hlen.1 hlt)⟩
  · next hlt => exact ⟨fun h => absurd (hlen.2 h) hlt, fun _ => ⟨rfl, rfl⟩⟩

/-- A held reading that has been reached is still reached. -/
theorem reached_heldNext {t : Clock} : reached (heldNext now t) now = true ↔ (now - t).toNat < 2147483648 := by
  rw [reached_iff, heldNext, heldReading, elapsed]
  split
  · split
    · have : (now - (now - 1000000000#32)).toNat = 1000000000 := by
        rw [show now - (now - 1000000000#32) = 1000000000#32 by bv_omega]; rfl
      rw [this]; exact iff_of_true (by decide) ‹_›
    · rfl
  · rfl

theorem sampleDue_trimmed : sampleDue (trimmed e now) c.faulty now = true ↔
    e.seeded = true ∧ e.missing = false ∧ CurveValid c ∧ (now - e.nextSample).toNat < 2147483648 := by
  have hs : (trimmed e now).seeded = e.seeded := by rw [trimmed_frame]
  have hm : (trimmed e now).missing = e.missing := by rw [trimmed_frame]
  have hst : (statusOf (trimmed e now) c.faulty ≠ .noData ∧ statusOf (trimmed e now) c.faulty ≠ .profileFault) ↔
      ¬ (e.seeded = false ∨ e.missing = true) ∧ c.faulty = false := by
    unfold statusOf
    rw [hs, hm]
    split
    · next h => simp [h]
    · next h =>
      split
      · next h' => simp [h']
      · next h' =>
        have hf : c.faulty = false := by simpa using h'
        cases (trimmed e now).result <;> simp [h, hf]
  unfold sampleDue
  rw [Bool.and_eq_true, Bool.and_eq_true, Bool.and_eq_true, bne_iff_ne, bne_iff_ne, trimmed_next, reached_heldNext, hs, and_assoc (a := e.seeded = true),
    hst, faulty_eq_false_iff, not_or, Bool.not_eq_false, Bool.not_eq_true]
  simp only [and_assoc, and_self_left]

/-- The history work of an evaluation (R108 to R111). -/
structure HistoryKept (c : Curve) (e e' : Estimator) (now : Clock) (taken : Prop) : Prop where
  frame : e' = { e with history := e'.history, nextSample := e'.nextSample, result := e'.result, minutes := e'.minutes, status := e'.status }
  status : StatusDerived e' c
  sampled : taken → e'.history = (if 8 ≤ (trimmedHistory e now).length then (trimmedHistory e now).drop 1 else trimmedHistory e now) ++ [(now, e.charge)]
    ∧ e'.nextSample = now + BitVec.ofNat 32 (c.period * 1000) ∧ EstimateOf e'.history e'
  trimmed : ¬ taken → e'.history = trimmedHistory e now ∧ e'.nextSample = heldNext now e.nextSample
    ∧ (trimmedHistory e now ≠ e.history → EstimateOf (trimmedHistory e now) e')
    ∧ (trimmedHistory e now = e.history → e'.result = e.result ∧ e'.minutes = e.minutes)

theorem historyKept : HistoryKept c e (historyWork c e silent now) now
    (silent = false ∧ e.seeded = true ∧ e.missing = false ∧ CurveValid c ∧ (now - e.nextSample).toNat < 2147483648) := by
  have hdue : (!silent && sampleDue (Machine.trimmed e now) c.faulty now) = true ↔
      silent = false ∧ e.seeded = true ∧ e.missing = false ∧ CurveValid c ∧ (now - e.nextSample).toNat < 2147483648 := by
    rw [Bool.and_eq_true, Bool.not_eq_true', sampleDue_trimmed]
  have hd : ∀ y : Estimator, derived y c.faulty = { y with status := (derived y c.faulty).status } := fun _ => rfl
  have hframe := trimmed_frame (e := e) (now := now)
  have hhist := trimmed_history (e := e) (now := now)
  have hnext := trimmed_next (e := e) (now := now)
  obtain ⟨hnew, hsame⟩ := trimmed_estimate (e := e) (now := now)
  unfold historyWork; dsimp only
  generalize Machine.trimmed e now = y at *
  by_cases h : (!silent && sampleDue y c.faulty now) = true
  · rw [if_pos h]
    have hcharge : y.charge = e.charge := by rw [hframe]
    have hs := sampled_history (k := c) (e := y) (now := now)
    have hn := sampled_nextSample (k := c) (e := y) (now := now)
    have hf : Machine.sampled c y now = { y with
        history := (Machine.sampled c y now).history, nextSample := (Machine.sampled c y now).nextSample, result := (Machine.sampled c y now).result,
        minutes := (Machine.sampled c y now).minutes } := by
      rw [hs, hn]; unfold Machine.sampled
      conv_lhs => rw [computed_frame]
    have hest : EstimateOf (Machine.sampled c y now).history (Machine.sampled c y now) := by
      rw [hs]; exact estimateOf_computed (e := { y with
        history := roomFor y.history ++ [(now, y.charge)], nextSample := now + BitVec.ofNat 32 (c.period * 1000) })
    generalize Machine.sampled c y now = z at *
    refine ⟨?_, derived_status z c, fun _ => ⟨?_, hn, hest.congr rfl rfl⟩, fun hn => absurd (hdue.1 h) hn⟩
    · rw [hd]; dsimp only
      generalize (derived z c.faulty).status = st
      rw [hf, hframe]
    · show z.history = _
      rw [hs, hhist, hcharge]; rfl
  · rw [if_neg h]
    refine ⟨?_, derived_status y c, fun hn => absurd (hdue.2 hn) h, fun _ => ⟨hhist, hnext, fun h' => (hnew h').congr rfl rfl, fun h' => hsame h'⟩⟩
    rw [hd]; dsimp only
    generalize (derived y c.faulty).status = st
    conv_lhs => rw [hframe]

/-- The history work on a restarted estimator. -/
theorem historyWork_restarted : historyWork c (restartedEstimator gen) silent now =
    { restartedEstimator gen with nextSample := heldNext now 0 } := by
  have hk := historyKept (c := c) (e := restartedEstimator gen) (silent := silent) (now := now)
  obtain ⟨h1, h2, h3, h4⟩ := hk.trimmed fun h => (nomatch h.2.1)
  obtain ⟨h5, h6⟩ := h4 rfl
  have h7 : (historyWork c (restartedEstimator gen) silent now).status = .noData := hk.status.noData (.inl (by rw [hk.frame]; rfl))
  rw [hk.frame, h1, h2, h5, h6, h7]; rfl

/-! The deadline (R132) -/

theorem deadlineExpired_iff : s.deadlineExpired i = true ↔
    (s.seat i).channel.state = .awaiting ∧ ∃ d, (s.seat i).channel.deadline = some d ∧ (s.clock - d).toNat < 2147483648 := by
  unfold State.deadlineExpired; dsimp only
  rw [Bool.and_eq_true, beq_iff_eq]
  refine and_congr_right fun _ => ?_
  cases hd : (s.seat i).channel.deadline with
  | none => simp
  | some d => simp [reached_iff, elapsed]

/-- A mute channel after its deadline check. -/
def checkedChannel (ch : MuteChannel) (expired : Bool) : MuteChannel :=
  if expired then
    match ch.attempt with
    | .first => { ch with state := .sending, attempt := .second, deadline := none }
    | .second => { ch with state := .unconfirmed, deadline := none }
  else ch

theorem seat_deadlineCheck : (s.deadlineCheck i).seat j = if j = i then { s.seat i with
    channel := checkedChannel (s.seat i).channel (s.deadlineExpired i) } else s.seat j := by
  unfold State.deadlineCheck checkedChannel; dsimp only
  split
  · cases (s.seat i).channel.attempt with
    | first =>
      dsimp only; split
      · rw [seat_place, seat_setChannel]
      · rw [seat_setChannel]
    | second => exact seat_setChannel ..
  · split
    · next h => rw [h]
    · rfl

theorem link_deadlineCheck : (s.deadlineCheck i).link l =
    if s.deadlineExpired i = true ∧ (s.seat i).channel.attempt = .first ∧ s.part = .running ∧ l = (s.seat i).ctx.link
    then placeOn (s.link l) i else s.link l := by
  have hset : ∀ y, (s.setChannel i y).link l = s.link l := fun _ => rfl
  have hpart : ∀ y, (s.setChannel i y).part = s.part := fun _ => rfl
  unfold State.deadlineCheck; dsimp only
  split
  · next he =>
    cases (s.seat i).channel.attempt with
    | first =>
      dsimp only; split
      · next hp =>
        rw [link_place, seat_setChannel, if_pos rfl, hset]
        simp [he, hp]
      · next hp => rw [hset, if_neg fun h => hp h.2.2.1]
    | second => dsimp only; rw [hset, if_neg fun h => (nomatch h.2.1)]
  · next he => rw [if_neg fun h => he h.1]

end Sys2Proof.Machine
end

section
/-! PROOFS. The evaluation of a seat by the pass: the blocks' work, the monitors, the publication (O39, O40). -/
namespace Sys2Proof.Machine
open Sys2Proof

variable {s t u v f : State} {i j : Seat} {l m : LinkId} {c : Curve} {e : Estimator} {gen : Word} {now : Clock} {silent : Bool}

/-! The pass's next active seat (R51) -/

theorem nextActive_eq_some_iff {k : Nat} : s.nextActive k = some i ↔ k ≤ i.val ∧ i.val < s.layout.seatCount ∧ (s.seat i).ctx.active = true
    ∧ ∀ j : Seat, k ≤ j.val → j < i → (s.seat j).ctx.active = false := by
  unfold State.nextActive
  rw [List.find?_eq_some_iff_getElem]
  simp only [allSeats, List.getElem_finRange, List.length_finRange, Bool.and_eq_true, decide_eq_true_eq, Bool.not_eq_true', and_assoc]
  refine and_congr_right fun _ => and_congr_right fun hc => and_congr_right fun _ => ⟨?_, fun h => ⟨i.val, i.isLt, Fin.ext rfl, fun j hj => ?_⟩⟩
  · rintro ⟨n, hn, hi, hb⟩ j hk hj
    have hlt : j.val < n := by rw [← hi] at hj; exact hj
    have hj' : j.val < s.layout.seatCount := Nat.lt_trans hj hc
    simpa [hk, hj'] using hb j.val hlt
  · by_cases hk : k ≤ j
    · have := h ⟨j, Nat.lt_trans hj i.isLt⟩ hk hj
      simpa [hk] using fun _ => this
    · simp [hk]

/-! The blocks' work (R55) -/

theorem seatClass_congr (h1 : (t.seat i).ctx.cls = (s.seat i).ctx.cls) (h2 : t.classes = s.classes) : t.seatClass i = s.seatClass i := by
  simp only [State.seatClass, State.classOf, h1, h2]
theorem seatCurve_congr (h1 : (t.seat i).ctx.curve = (s.seat i).ctx.curve) (h2 : t.curves = s.curves) : t.seatCurve i = s.seatCurve i := by
  simp only [State.seatCurve, State.curveOf, h1, h2]

theorem seat_batteryWork : (s.batteryWork i silent).seat j = if j = i then { s.seat i with
    estimator := historyWork (s.seatCurve i) (if (s.seat i).estimator.genSeen = s.seatGeneration i then (s.seat i).estimator
      else restartedEstimator (s.seatGeneration i)) silent s.clock
    monitors := if (s.seat i).estimator.genSeen = s.seatGeneration i then (s.seat i).monitors
      else ((s.seat i).monitors.set condLow clearMonitor).set condCritical clearMonitor } else s.seat j := by
  have hcurve : (s.restartEstimator i).seatCurve i = s.seatCurve i := seatCurve_congr (by rw [seat_restartEstimator, if_pos rfl]) rfl
  unfold State.batteryWork State.generationCheck; dsimp only
  split
  · rw [seat_setEstimator]
  · rw [seat_setEstimator, hcurve, seat_restartEstimator, if_pos rfl, seat_restartEstimator]
    split <;> rfl

/-- A seat after the blocks' work of its evaluation. -/
def blockSeat (x : SeatState) (cause : SilenceCause) (silent rolls : Bool) (c : Curve) (gen : Word) (now : Clock) (expired : Bool) : SeatState :=
  { x with
    ctx := { x.ctx with silence := cause, lastReport := if silent then heldReading now x.ctx.lastReport else x.ctx.lastReport }
    tracker := if rolls then rollWindow (ageTracker x.tracker now) now else ageTracker x.tracker now
    estimator := historyWork c (if x.estimator.genSeen = gen then x.estimator else restartedEstimator gen) silent now
    monitors := if x.estimator.genSeen = gen then x.monitors else (x.monitors.set condLow clearMonitor).set condCritical clearMonitor
    channel := checkedChannel x.channel expired }

theorem blockWork_eq : s.blockWork i silent = (((s.seatStoreWork i silent).signalWork i silent).batteryWork i silent).deadlineCheck i := rfl

theorem seat_seatStoreWork : (s.seatStoreWork i silent).seat j = if j = i then { s.seat i with ctx := { (s.seat i).ctx with
    silence := s.silenceCause i silent
    lastReport := if silent then heldReading s.clock (s.seat i).ctx.lastReport else (s.seat i).ctx.lastReport } } else s.seat j := seat_setCtx ..

theorem seat_signalWork : (s.signalWork i silent).seat j = if j = i then { s.seat i with
    tracker := if s.rollsWindow i silent then rollWindow (ageTracker (s.seat i).tracker s.clock) s.clock else ageTracker (s.seat i).tracker s.clock }
    else s.seat j := seat_setTracker ..

/-- What the blocks' work up to the deadline check leaves. -/
structure Aged (s t : State) (i : Seat) (silent : Bool) : Prop where
  seat : ∀ j, t.seat j = if j = i then { blockSeat (s.seat i) (s.silenceCause i silent) silent (s.rollsWindow i silent) (s.seatCurve i)
    (s.seatGeneration i) s.clock (s.deadlineExpired i) with channel := (s.seat i).channel } else s.seat j
  links : t.links = s.links
  part : t.part = s.part
  clock : t.clock = s.clock

theorem aged_blocks : Aged s (((s.seatStoreWork i silent).signalWork i silent).batteryWork i silent) i silent := by
  have ha := fun j => seat_seatStoreWork (s := s) (i := i) (j := j) (silent := silent)
  have hf : s.seatStoreWork i silent = { s with seats := (s.seatStoreWork i silent).seats } := rfl
  have hcls : (s.seatStoreWork i silent).seatClass i = s.seatClass i := seatClass_congr (by rw [ha, if_pos rfl]) rfl
  have hcurve : (s.seatStoreWork i silent).seatCurve i = s.seatCurve i := seatCurve_congr (by rw [ha, if_pos rfl]) rfl
  have hgen : (s.seatStoreWork i silent).seatGeneration i = s.seatGeneration i := seatGeneration_congr (by rw [ha, if_pos rfl]) rfl
  generalize s.seatStoreWork i silent = a at *
  have hclock : a.clock = s.clock := by rw [hf]
  have hrolls : a.rollsWindow i silent = s.rollsWindow i silent := by unfold State.rollsWindow; rw [hcls, hclock, ha, if_pos rfl]
  have hb := fun j => seat_signalWork (s := a) (i := i) (j := j) (silent := silent)
  rw [hrolls, hclock] at hb
  have hg : a.signalWork i silent = { a with seats := (a.signalWork i silent).seats } := rfl
  have hcurve' : (a.signalWork i silent).seatCurve i = s.seatCurve i := (seatCurve_congr (s := a) (by rw [hb, if_pos rfl]) (by rw [hg])).trans hcurve
  have hgen' : (a.signalWork i silent).seatGeneration i = s.seatGeneration i := (seatGeneration_congr (s := a) (by rw [hb, if_pos rfl]) (by rw [hg])).trans hgen
  have hclock' : (a.signalWork i silent).clock = s.clock := by rw [hg]; exact hclock
  generalize a.signalWork i silent = b at *
  have hk := fun k (h : Opens k [.seats]) => erase_batteryWork (s := b) (i := i) (b := silent) h
  refine ⟨fun j => ?_, ?_, ?_, ?_⟩
  · rw [seat_batteryWork, hcurve', hgen', hclock', hb, if_pos rfl, ha, if_pos rfl, hb]
    split
    · rfl
    · next h => rw [ha, if_neg h]
  · rw [show (b.batteryWork i silent).links = b.links from erase_keeps_links (hk (allBut [.links]) (by decide)) rfl, hg, hf]
  · rw [show (b.batteryWork i silent).part = b.part from erase_keeps_part (hk (allBut [.part]) (by decide)) rfl, hg, hf]
  · rw [show (b.batteryWork i silent).clock = b.clock from erase_keeps_clock (hk (allBut [.clock]) (by decide)) rfl, hg, hf]

theorem Aged.expired (h : Aged s t i silent) : t.deadlineExpired i = s.deadlineExpired i := by
  unfold State.deadlineExpired; rw [h.seat, if_pos rfl, h.clock]

theorem seat_blockWork : (s.blockWork i silent).seat j = if j = i then blockSeat (s.seat i) (s.silenceCause i silent) silent (s.rollsWindow i silent)
    (s.seatCurve i) (s.seatGeneration i) s.clock (s.deadlineExpired i) else s.seat j := by
  have h := aged_blocks (s := s) (i := i) (silent := silent)
  rw [blockWork_eq]
  generalize ((s.seatStoreWork i silent).signalWork i silent).batteryWork i silent = y at *
  rw [seat_deadlineCheck, h.expired, h.seat, if_pos rfl, h.seat]
  split <;> rfl

theorem link_blockWork : (s.blockWork i silent).link l =
    if s.deadlineExpired i = true ∧ (s.seat i).channel.attempt = .first ∧ s.part = .running ∧ l = (s.seat i).ctx.link
    then placeOn (s.link l) i else s.link l := by
  have h := aged_blocks (s := s) (i := i) (silent := silent)
  rw [blockWork_eq]
  generalize ((s.seatStoreWork i silent).signalWork i silent).batteryWork i silent = y at *
  rw [link_deadlineCheck, h.expired, h.seat, if_pos rfl, h.part]
  simp only [State.link, h.links]
  rfl

/-! The monitors (R62) -/

/-- A monitor is offered the raw value `raw`, or its condition is disabled. -/
def Offers (raiseCount clearCount : Nat) (x y : Monitor) (raw : Prop) : Prop :=
  (raiseCount = 0 → y = clearMonitor) ∧ (raiseCount ≠ 0 → ∀ b : Bool, (b = true ↔ raw) → Persisted raiseCount clearCount b x y)

theorem offers_monitorAt {n k : Nat} {x : Monitor} {r : Bool} {raw : Prop} (h : r = true ↔ raw) : Offers n k x (monitorAt n k (some r) x) raw :=
  ⟨fun hn => monitorAt_disabled hn, fun hn _ hb => persisted_monitorAt hn (Bool.eq_iff_iff.2 (hb.trans h.symm))⟩

theorem getElem_monitorWork {silent : Bool} (k : Fin 8) : ((s.monitorWork i silent).seat i).monitors[k] =
    monitorAt (s.seatClass i).raiseCounts[k] (s.seatClass i).clearCounts[k] (s.offered i silent k) (s.seat i).monitors[k] := by
  unfold State.monitorWork
  rw [seat_setMonitors, if_pos rfl]
  simp

/-- A seat after its evaluation, up to its monitors. -/
theorem seat_judgeSeat : (s.judgeSeat i).seat j = if j = i then { blockSeat (s.seat i) (s.silenceCause i (s.isSilent i)) (s.isSilent i)
    (s.rollsWindow i (s.isSilent i)) (s.seatCurve i) (s.seatGeneration i) s.clock (s.deadlineExpired i) with
    monitors := ((s.judgeSeat i).seat i).monitors } else s.seat j := by
  have h := fun j => seat_blockWork (s := s) (i := i) (j := j) (silent := s.isSilent i)
  unfold State.judgeSeat
  generalize s.blockWork i (s.isSilent i) = y at *
  unfold State.monitorWork
  rw [seat_setMonitors, seat_setMonitors, if_pos rfl, h, if_pos rfl, h]
  split <;> rfl

theorem link_judgeSeat : (s.judgeSeat i).link l =
    if s.deadlineExpired i = true ∧ (s.seat i).channel.attempt = .first ∧ s.part = .running ∧ l = (s.seat i).ctx.link
    then placeOn (s.link l) i else s.link l := by
  have h := link_blockWork (s := s) (i := i) (l := l) (silent := s.isSilent i)
  unfold State.judgeSeat
  generalize s.blockWork i (s.isSilent i) = y at *
  exact h

theorem judgeSeat_frame : s.judgeSeat i = { s with seats := (s.judgeSeat i).seats, links := (s.judgeSeat i).links } :=
  eq_of_erase_arrival (erase_judgeSeat (by simp [Opens]))

theorem offered_silent : s.offered i silent condSilent = some silent := rfl
theorem offered_unconfirmed : s.offered i silent condUnconfirmed = some (s.rawUnconfirmed i) := rfl
theorem offered_frozen {k : Fin 8} (h1 : k ≠ condSilent) (h2 : k ≠ condUnconfirmed) : s.offered i true k = none := by
  unfold State.offered; rw [if_neg h1, if_neg h2, if_pos rfl]
theorem offered_lost : s.offered i false condLost = some (s.rawLost i) := rfl
theorem offered_weak : s.offered i false condWeak = some (s.rawWeak i) := rfl
theorem offered_hotMic : s.offered i false condHotMic = some (s.rawHotMic i) := rfl
theorem offered_speaking : s.offered i false condSpeaking = some (s.rawSpeaking i) := rfl
theorem offered_low : s.offered i false condLow = if batteryOffered (s.seat i).estimator then some (s.rawLow i) else none := rfl
theorem offered_critical : s.offered i false condCritical = if batteryOffered (s.seat i).estimator then some (s.rawCritical i) else none := rfl

theorem batteryOffered_iff : batteryOffered e = true ↔ e.status ≠ .noData ∧ e.status ≠ .profileFault := by simp [batteryOffered]

/-! The raw values (R88, R90, R113, R137 to R139) -/

theorem rawUnconfirmed_iff : s.rawUnconfirmed i = true ↔ (s.seat i).channel.state = .unconfirmed := by simp [State.rawUnconfirmed]

theorem rawLost_iff : s.rawLost i = true ↔ (s.seat i).ctx.sample.isSome ∧ ∃ d, (s.seat i).tracker.dropoutStart = some d
    ∧ (s.seatClass i).lostTime ≤ (s.clock - d).toNat := by
  unfold State.rawLost
  cases (s.seat i).tracker.dropoutStart with
  | none => simp
  | some d =>
    simp only [Bool.and_eq_true, Option.some.injEq, exists_eq_left', elapsed]
    exact and_congr_right fun _ => decide_eq_true_iff

theorem rawWeak_iff : s.rawWeak i = true ↔ ∃ p, (s.seat i).ctx.sample = some p ∧ (p.rf < (s.seatClass i).weakLevel
    ∨ (s.seatClass i).dropoutLimit ≤ (s.seat i).tracker.onsets ∨ (s.seatClass i).dropoutLimit ≤ (s.seat i).tracker.prevOnsets) := by
  unfold State.rawWeak
  cases (s.seat i).ctx.sample with
  | none => simp
  | some p => simp [or_assoc]

theorem rawHotMic_iff : s.rawHotMic i = true ↔ ∃ p, (s.seat i).ctx.sample = some p ∧ p.muted = false ∧ i ∉ s.roster
    ∧ ((s.seat i).channel.state = .settled ∨ (s.seat i).channel.state = .unconfirmed) := by
  unfold State.rawHotMic
  cases (s.seat i).ctx.sample with
  | none => simp
  | some p => simp [and_assoc]

theorem rawSpeaking_iff : s.rawSpeaking i = true ↔ ∃ p, (s.seat i).ctx.sample = some p ∧ p.muted = true ∧ (s.seatClass i).speechLevel ≤ p.audio := by
  unfold State.rawSpeaking
  cases (s.seat i).ctx.sample with
  | none => simp
  | some p => simp

theorem batteryRaw_iff {limit minutes hysteresis : Nat} {m : MonitorState} : batteryRaw limit minutes hysteresis e m = true ↔
    if m = .raised ∨ m = .noted then e.charge < limit + hysteresis ∨ (e.status = .valid ∧ e.minutes ≤ minutes)
    else e.charge ≤ limit ∨ (e.status = .valid ∧ e.minutes ≤ minutes) := by
  have hlate : (!(decide (limit + hysteresis ≤ e.charge) && !(e.status == .valid && decide (e.minutes ≤ minutes)))) = true ↔
      e.charge < limit + hysteresis ∨ (e.status = .valid ∧ e.minutes ≤ minutes) := by
    simp [Classical.or_iff_not_imp_left]
  have hearly : (decide (e.charge ≤ limit) || (e.status == .valid && decide (e.minutes ≤ minutes))) = true ↔
      e.charge ≤ limit ∨ (e.status = .valid ∧ e.minutes ≤ minutes) := by simp
  cases m with
  | raised => exact hlate
  | noted => exact hlate
  | clear => exact hearly
  | onset => exact hearly
  | easing => exact hearly
  | lapsed => exact hearly

/-! The publication (R55, R68, R158) -/

/-- The publication of an evaluation that led from s to t, in the state u. -/
structure EvaluationShown (s t u : State) (i : Seat) : Prop where
  changed : ¬ SamePicture s u i → (u.seat i).board = changedNow (s.seat i).board s.clock ∧ u.boardWrites = s.boardWrites ++ [changeWrite u i]
  same : SamePicture s u i → (u.seat i).board = (s.seat i).board ∧ u.boardWrites = s.boardWrites ++
    if s.refreshPass then [{ changeWrite u i with change := false }] else []
  seat : u.seat i = { t.seat i with board := (u.seat i).board }
  others : seatsKept t u (· = i)
  frame : u = { t with seats := u.seats, boardWrites := u.boardWrites }

theorem publishRefresh_eq (h : t.publishes i = true) : t.publishRefresh i = { t with boardWrites := t.boardWrites ++ [{ changeWrite t i with change := false }] } :=
  if_pos h

theorem boardWrites_changeWrite {ws : List BoardEntry} : changeWrite { t with boardWrites := ws } i = changeWrite t i :=
  changeWrite_congr rfl rfl rfl (orderRequest_congr rfl rfl (fun p => by cases p <;> rfl) rfl rfl rfl rfl fun _ => rfl)

theorem pass_changeWrite {p : Option Nat} : changeWrite { t with pass := p } i = changeWrite t i :=
  changeWrite_congr rfl rfl rfl (orderRequest_congr rfl rfl (fun p => by cases p <;> rfl) rfl rfl rfl rfl fun _ => rfl)

theorem evaluationShown (hp : t.publishes i = true) (hb : (t.seat i).board = (s.seat i).board) (hw : t.boardWrites = s.boardWrites)
    (hc : t.clock = s.clock) : EvaluationShown s t (publishEvaluation s t i) i := by
  have hone := publishedOne (s := s) hp hb hw hc
  rw [publishVisible_one] at hone
  unfold publishEvaluation
  by_cases h : s.picture i = t.picture i
  · have hsame : SamePicture s t i := (picture_eq_iff s t i).1 h
    rw [if_pos h]
    have hkept : ∀ ws, SamePicture s { t with boardWrites := ws } i := fun ws =>
      (SamePicture.congr (s := s) (t := t) (s' := s) (t' := { t with boardWrites := ws }) rfl rfl rfl rfl).2 hsame
    cases hr : s.refreshPass with
    | true =>
      rw [if_pos rfl, publishRefresh_eq hp]
      refine ⟨fun hn => absurd (hkept _) hn, fun _ => ⟨hb, ?_⟩, rfl, fun _ _ => rfl, rfl⟩
      rw [hr, if_pos rfl, boardWrites_changeWrite, ← hw]
      rfl
    | false =>
      refine ⟨fun hn => absurd hsame hn, fun _ => ⟨hb, ?_⟩, rfl, fun _ _ => rfl, rfl⟩
      rw [hr, if_neg Bool.false_ne_true, if_neg Bool.false_ne_true, List.append_nil]; exact hw
  · rw [if_neg h] at hone ⊢
    have hn : ¬ SamePicture s (t.publishChange i) i := fun hs => h (((picture_eq_iff s _ i).2 hs).trans picture_publishChange)
    exact ⟨fun _ => hone.published.2 hn, fun hs => absurd hs hn, hone.seat, hone.others, hone.frame⟩

/-! The pass goes on (R51) -/

theorem passOn_some {k : Nat} (hk : s.pass = some k) (hi : s.nextActive k = some i) :
    s.passOn = State.settlePass { s.evaluate i with pass := some (i.val + 1) } := by
  unfold State.passOn; rw [hk]; dsimp only; rw [hi]

theorem passOn_over {k : Nat} (hk : s.pass = some k) (hi : s.nextActive k = none) : s.passOn = { s with pass := none } := by
  unfold State.passOn; rw [hk]; dsimp only; rw [hi]

/-- Where a pass stands that has evaluated seat i (R51). -/
theorem settled_pass : ∃ p, State.settlePass { u with pass := some (i.val + 1) } = { u with pass := p }
    ∧ ((∃ j : Seat, i < j ∧ j.val < u.layout.seatCount ∧ (u.seat j).ctx.active = true) → p = some (i.val + 1))
    ∧ ((∀ j : Seat, i < j → j.val < u.layout.seatCount → (u.seat j).ctx.active = false) → p = none) := by
  by_cases h : State.seatLeft { u with pass := some (i.val + 1) } (i.val + 1)
  · refine ⟨some (i.val + 1), settlePass_left rfl h, fun _ => rfl, fun hn => ?_⟩
    obtain ⟨j, hj, hc, ha⟩ := h
    exact absurd (ha.symm.trans (hn j hj hc)) (by decide)
  · exact ⟨none, settlePass_over rfl h, fun ⟨j, hj, hc, ha⟩ => absurd ⟨j, hj, hc, ha⟩ h, fun _ => rfl⟩

/-! SEAT_EVALUATION (R51, R52) -/

/-- The monitor of a battery condition after an evaluation (R104, R112 to R114). -/
def BatteryOffers (cls : WarningClass) (x y : SeatState) (hysteresis : Nat) (stale silent : Prop) (k : Fin 8) (limit minutes : Nat) : Prop :=
  (stale → y.monitors[k] = clearMonitor)
    ∧ (¬ stale → (silent ∨ y.estimator.status = .noData ∨ y.estimator.status = .profileFault) →
        y.monitors[k] = if cls.raiseCounts[k] = 0 then clearMonitor else x.monitors[k])
    ∧ (¬ stale → ¬ silent → y.estimator.status ≠ .noData → y.estimator.status ≠ .profileFault →
        Offers cls.raiseCounts[k] cls.clearCounts[k] x.monitors[k] y.monitors[k] (if x.monitors[k].state = .raised ∨ x.monitors[k].state = .noted
          then y.estimator.charge < limit + hysteresis ∨ y.estimator.status = .valid ∧ y.estimator.minutes ≤ minutes
          else y.estimator.charge ≤ limit ∨ y.estimator.status = .valid ∧ y.estimator.minutes ≤ minutes))

/-- What an evaluation makes of its seat's state x: the state y, with the monitors still to be told (R52 to R55). -/
structure EvaluatedSeat (s : State) (i : Seat) (y : SeatState) : Prop where
  ctx : y.ctx = { (s.seat i).ctx with
    silence := s.silenceCause i (s.isSilent i)
    lastReport := if s.isSilent i then heldReading s.clock (s.seat i).ctx.lastReport else (s.seat i).ctx.lastReport }
  tracker : y.tracker = if s.rollsWindow i (s.isSilent i) then rollWindow (ageTracker (s.seat i).tracker s.clock) s.clock
    else ageTracker (s.seat i).tracker s.clock
  estimator : y.estimator = historyWork (s.seatCurve i) (if (s.seat i).estimator.genSeen = s.seatGeneration i then (s.seat i).estimator
    else restartedEstimator (s.seatGeneration i)) (s.isSilent i) s.clock
  channel : y.channel = checkedChannel (s.seat i).channel (s.deadlineExpired i)

/-- The monitors that an evaluation leaves (R54, R59, R62, R66). -/
structure EvaluatedMonitors (s : State) (i : Seat) (y : SeatState) : Prop where
  silent : Offers (s.seatClass i).raiseCounts[condSilent] (s.seatClass i).clearCounts[condSilent] (s.seat i).monitors[condSilent] y.monitors[condSilent]
    (s.isSilent i = true)
  unconfirmed : Offers (s.seatClass i).raiseCounts[condUnconfirmed] (s.seatClass i).clearCounts[condUnconfirmed] (s.seat i).monitors[condUnconfirmed]
    y.monitors[condUnconfirmed] (y.channel.state = .unconfirmed)
  frozen : s.isSilent i = true → ∀ k, k = condLost ∨ k = condWeak ∨ k = condHotMic ∨ k = condSpeaking →
    y.monitors[k] = if (s.seatClass i).raiseCounts[k] = 0 then clearMonitor else (s.seat i).monitors[k]
  lost : s.isSilent i = false → Offers (s.seatClass i).raiseCounts[condLost] (s.seatClass i).clearCounts[condLost] (s.seat i).monitors[condLost]
    y.monitors[condLost] ((s.seat i).ctx.sample.isSome ∧ ∃ d, y.tracker.dropoutStart = some d ∧ (s.seatClass i).lostTime ≤ (s.clock - d).toNat)
  weak : s.isSilent i = false → Offers (s.seatClass i).raiseCounts[condWeak] (s.seatClass i).clearCounts[condWeak] (s.seat i).monitors[condWeak]
    y.monitors[condWeak] (∃ p, (s.seat i).ctx.sample = some p ∧ (p.rf < (s.seatClass i).weakLevel
      ∨ (s.seatClass i).dropoutLimit ≤ y.tracker.onsets ∨ (s.seatClass i).dropoutLimit ≤ y.tracker.prevOnsets))
  hotMic : s.isSilent i = false → Offers (s.seatClass i).raiseCounts[condHotMic] (s.seatClass i).clearCounts[condHotMic] (s.seat i).monitors[condHotMic]
    y.monitors[condHotMic] (∃ p, (s.seat i).ctx.sample = some p ∧ p.muted = false ∧ i ∉ s.roster
      ∧ (y.channel.state = .settled ∨ y.channel.state = .unconfirmed))
  speaking : s.isSilent i = false → Offers (s.seatClass i).raiseCounts[condSpeaking] (s.seatClass i).clearCounts[condSpeaking] (s.seat i).monitors[condSpeaking]
    y.monitors[condSpeaking] (∃ p, (s.seat i).ctx.sample = some p ∧ p.muted = true ∧ (s.seatClass i).speechLevel ≤ p.audio)
  low : BatteryOffers (s.seatClass i) (s.seat i) y (s.seatCurve i).hysteresis ((s.seat i).estimator.genSeen ≠ s.seatGeneration i) (s.isSilent i = true)
    condLow (s.seatClass i).lowCharge (s.seatClass i).lowMinutes
  critical : BatteryOffers (s.seatClass i) (s.seat i) y (s.seatCurve i).hysteresis ((s.seat i).estimator.genSeen ≠ s.seatGeneration i) (s.isSilent i = true)
    condCritical (s.seatClass i).critCharge (s.seatClass i).critMinutes

theorem evaluatedSeat : EvaluatedSeat s i ((s.judgeSeat i).seat i) := by
  have h := seat_judgeSeat (s := s) (i := i) (j := i)
  rw [if_pos rfl] at h
  generalize (s.judgeSeat i).seat i = y at *
  exact ⟨by rw [h]; rfl, by rw [h]; rfl, by rw [h]; rfl, by rw [h]; rfl⟩

theorem batteryOffers {cls : WarningClass} {x b y : SeatState} {hysteresis limit minutes : Nat} {gen : Word} {silent : Bool} {k : Fin 8}
    (hraw : b.monitors[k] = if x.estimator.genSeen = gen then x.monitors[k] else clearMonitor) (he : y.estimator = b.estimator)
    (hstale : x.estimator.genSeen ≠ gen → b.estimator.status = .noData)
    (hy : y.monitors[k] = monitorAt cls.raiseCounts[k] cls.clearCounts[k] (if silent then none else if batteryOffered b.estimator
      then some (batteryRaw limit minutes hysteresis b.estimator b.monitors[k].state) else none) b.monitors[k]) :
    BatteryOffers cls x y hysteresis (x.estimator.genSeen ≠ gen) (silent = true) k limit minutes := by
  have hnone : silent = true ∨ batteryOffered b.estimator = false → y.monitors[k] = if cls.raiseCounts[k] = 0 then clearMonitor else b.monitors[k] := fun h => by
    rw [hy, ← monitorAt_held (k := cls.clearCounts[k])]
    congr 1
    rcases h with h | h
    · rw [h, if_pos rfl]
    · rw [h]; cases silent <;> rfl
  refine ⟨fun h => ?_, fun h hs => ?_, fun h hs h1 h2 => ?_⟩
  · rw [hnone (.inr (by rw [batteryOffered, hstale h]; rfl)), hraw, if_neg h, ite_self]
  · rw [hnone (hs.imp_right fun h' => ?_), hraw, if_pos (not_not.1 h)]
    rw [← Bool.not_eq_true, batteryOffered_iff, ← he]
    exact fun ⟨h1, h2⟩ => h'.elim h1 h2
  · rw [hy, if_neg hs, if_pos (batteryOffered_iff.2 (by rw [← he]; exact ⟨h1, h2⟩)), hraw, if_pos (not_not.1 h), he]
    exact offers_monitorAt batteryRaw_iff

theorem historyWork_stale {x : Estimator} (h : x.genSeen ≠ gen) :
    historyWork c (if x.genSeen = gen then x else restartedEstimator gen) silent now = { restartedEstimator gen with nextSample := heldNext now 0 } := by
  rw [if_neg h, historyWork_restarted]

theorem evaluatedMonitors : EvaluatedMonitors s i ((s.judgeSeat i).seat i) := by
  have hmon := fun k => getElem_monitorWork (s := s.blockWork i (s.isSilent i)) (i := i) (silent := s.isSilent i) k
  have hj := seat_judgeSeat (s := s) (i := i) (j := i)
  rw [if_pos rfl] at hj
  rw [show (s.blockWork i (s.isSilent i)).monitorWork i (s.isSilent i) = s.judgeSeat i from rfl] at hmon
  have hb := seat_blockWork (s := s) (i := i) (j := i) (silent := s.isSilent i)
  rw [if_pos rfl] at hb
  have hk := fun k (h : Opens k [.seats, .links]) => erase_blockWork (s := s) (i := i) (b := s.isSilent i) h
  have hroster := erase_keeps_roster (hk (allBut [.roster]) (by decide)) rfl
  have hclock := erase_keeps_clock (hk (allBut [.clock]) (by decide)) rfl
  have hclasses := erase_keeps_classes (hk (allBut [.classes]) (by decide)) rfl
  have hcurves := erase_keeps_curves (hk (allBut [.curves]) (by decide)) rfl
  generalize s.blockWork i (s.isSilent i) = b at *
  have hcls : b.seatClass i = s.seatClass i := seatClass_congr (by rw [hb]; rfl) hclasses
  have hcurve : b.seatCurve i = s.seatCurve i := seatCurve_congr (by rw [hb]; rfl) hcurves
  have hraw : ∀ k : Fin 8, (b.seat i).monitors[k] = if (s.seat i).estimator.genSeen = s.seatGeneration i then (s.seat i).monitors[k]
      else if k = condLow ∨ k = condCritical then clearMonitor else (s.seat i).monitors[k] := fun k => by
    rw [hb]; dsimp only [blockSeat]
    split
    · rfl
    · exact getElem_clearedBattery _ k
  have hother : ∀ k : Fin 8, k ≠ condLow → k ≠ condCritical → (b.seat i).monitors[k] = (s.seat i).monitors[k] := fun k h1 h2 => by
    rw [hraw, if_neg (not_or.2 ⟨h1, h2⟩), ite_self]
  have hctx : (b.seat i).ctx.sample = (s.seat i).ctx.sample := by rw [hb]; rfl
  have hstale : (s.seat i).estimator.genSeen ≠ s.seatGeneration i → (b.seat i).estimator.status = .noData := fun h => by
    rw [hb]; dsimp only [blockSeat]; rw [historyWork_stale h]; rfl
  have htracker : ((s.judgeSeat i).seat i).tracker = (b.seat i).tracker := by rw [hj, hb]
  have hchannel : ((s.judgeSeat i).seat i).channel = (b.seat i).channel := by rw [hj, hb]
  have hest : ((s.judgeSeat i).seat i).estimator = (b.seat i).estimator := by rw [hj, hb]
  clear hj hb hk
  generalize (s.judgeSeat i).seat i = y at *
  rw [hcls] at hmon
  have hlow : ∀ k : Fin 8, k = condLow ∨ k = condCritical →
      (b.seat i).monitors[k] = if (s.seat i).estimator.genSeen = s.seatGeneration i then (s.seat i).monitors[k] else clearMonitor := fun k h => by
    rw [hraw, if_pos h]
  refine ⟨?_, ?_, fun h k hk => ?_, fun h => ?_, fun h => ?_, fun h => ?_, fun h => ?_, ?_, ?_⟩
  · rw [hmon, offered_silent, hother _ (by decide) (by decide)]; exact offers_monitorAt Iff.rfl
  · rw [hmon, offered_unconfirmed, hother _ (by decide) (by decide), hchannel]; exact offers_monitorAt rawUnconfirmed_iff
  · have hne : k ≠ condSilent ∧ k ≠ condUnconfirmed ∧ k ≠ condLow ∧ k ≠ condCritical := by
      rcases hk with rfl | rfl | rfl | rfl <;> decide
    rw [hmon, h, offered_frozen hne.1 hne.2.1, hother _ hne.2.2.1 hne.2.2.2]; rfl
  · rw [hmon, h, offered_lost, hother _ (by decide) (by decide), ← hcls, ← hclock, ← hctx, htracker]; exact offers_monitorAt rawLost_iff
  · rw [hmon, h, offered_weak, hother _ (by decide) (by decide), ← hcls, ← hctx, htracker]; exact offers_monitorAt rawWeak_iff
  · rw [hmon, h, offered_hotMic, hother _ (by decide) (by decide), ← hroster, ← hctx, hchannel]; exact offers_monitorAt rawHotMic_iff
  · rw [hmon, h, offered_speaking, hother _ (by decide) (by decide), ← hcls, ← hctx]; exact offers_monitorAt rawSpeaking_iff
  · refine batteryOffers (b := b.seat i) (hlow _ (.inl rfl)) hest hstale ((hmon _).trans ?_)
    cases s.isSilent i with
    | true => rw [offered_frozen (by decide) (by decide), if_pos rfl]
    | false => rw [offered_low, if_neg Bool.false_ne_true, State.rawLow, hcls, hcurve]
  · refine batteryOffers (b := b.seat i) (hlow _ (.inr rfl)) hest hstale ((hmon _).trans ?_)
    cases s.isSilent i with
    | true => rw [offered_frozen (by decide) (by decide), if_pos rfl]
    | false => rw [offered_critical, if_neg Bool.false_ne_true, State.rawCritical, hcls, hcurve]

/-- What is left by an evaluation of seat i, with the pass gone on (R51 to R55). -/
structure PassedOn (s t : State) (i : Seat) : Prop where
  seat : EvaluatedSeat s i (t.seat i)
  monitors : EvaluatedMonitors s i (t.seat i)
  link : ∀ l, t.link l = if s.deadlineExpired i = true ∧ (s.seat i).channel.attempt = .first ∧ s.part = .running ∧ l = (s.seat i).ctx.link
    then placeOn (s.link l) i else s.link l
  goes : (∃ j : Seat, i < j ∧ j.val < s.layout.seatCount ∧ (s.seat j).ctx.active = true) → t.pass = some (i.val + 1)
  done : (∀ j : Seat, i < j → j.val < s.layout.seatCount → (s.seat j).ctx.active = false) → t.pass = none
  changed : ¬ SamePicture s t i → (t.seat i).board = changedNow (s.seat i).board s.clock ∧ t.boardWrites = s.boardWrites ++ [changeWrite t i]
  same : SamePicture s t i → (t.seat i).board = (s.seat i).board ∧ t.boardWrites = s.boardWrites ++
    if s.refreshPass then [{ changeWrite t i with change := false }] else []
  others : seatsKept s t (· = i)
  frame : t = { s with links := t.links, seats := t.seats, boardWrites := t.boardWrites, pass := t.pass }

theorem EvaluatedMonitors.congr {y z : SeatState} (h : EvaluatedMonitors s i y) (h1 : z.monitors = y.monitors) (h2 : z.tracker = y.tracker)
    (h3 : z.channel = y.channel) (h4 : z.estimator = y.estimator) : EvaluatedMonitors s i z := by
  obtain ⟨a1, a2, a3, a4, a5, a6, a7, a8, a9⟩ := h
  refine ⟨by rw [h1]; exact a1, by rw [h1, h3]; exact a2, by rw [h1]; exact a3, by rw [h1, h2]; exact a4, by rw [h1, h2]; exact a5,
    by rw [h1, h3]; exact a6, by rw [h1]; exact a7, ?_, ?_⟩
  · unfold BatteryOffers at a8 ⊢; rw [h1, h4]; exact a8
  · unfold BatteryOffers at a9 ⊢; rw [h1, h4]; exact a9

theorem passedOn {k : Nat} (hp : s.part = .running) (hk : s.pass = some k) (hi : s.nextActive k = some i) : PassedOn s s.passOn i := by
  obtain ⟨-, hcount, -, -⟩ := nextActive_eq_some_iff.1 hi
  have hseat := fun j => seat_judgeSeat (s := s) (i := i) (j := j)
  have hlink := fun l => link_judgeSeat (s := s) (i := i) (l := l)
  have hframe := judgeSeat_frame (s := s) (i := i)
  have hes := evaluatedSeat (s := s) (i := i)
  have hem := evaluatedMonitors (s := s) (i := i)
  rw [passOn_some hk hi, State.evaluate]
  generalize s.judgeSeat i = z at *
  have hboard : (z.seat i).board = (s.seat i).board := by rw [hseat, if_pos rfl]; rfl
  have hshown := evaluationShown (s := s) (t := z) (i := i) (publishes_iff.2 ⟨by rw [hframe]; exact hcount, by rw [hframe]; exact .inl hp⟩) hboard
    (by rw [hframe]) (by rw [hframe])
  generalize publishEvaluation s z i = u at *
  obtain ⟨p, hp1, hp2, hp3⟩ := settled_pass (u := u) (i := i)
  have hlayout : u.layout = s.layout := by rw [hshown.frame, hframe]
  have hothers : ∀ j, j ≠ i → u.seat j = s.seat j := fun j hj => by rw [hshown.others j hj, hseat, if_neg hj]
  have hactive : ∀ j : Seat, i < j → (u.seat j).ctx.active = (s.seat j).ctx.active := fun j hj => by rw [hothers j (Fin.ne_of_gt hj)]
  rw [hp1]
  have hframe' : ({ u with pass := p } : State) = { s with links := u.links, seats := u.seats, boardWrites := u.boardWrites, pass := p } := by
    have h1 : u.links = z.links := by rw [hshown.frame]
    rw [h1]
    conv_lhs => rw [hshown.frame, hframe]
  have hwrite := pass_changeWrite (t := u) (i := i) (p := p)
  have hlinks : u.links = z.links := by rw [hshown.frame]
  obtain ⟨t, ht⟩ : ∃ t : State, t = { u with pass := p } := ⟨_, rfl⟩
  have htseat : ∀ j, t.seat j = u.seat j := fun j => by rw [ht]; rfl
  have htlinks : t.links = z.links := by rw [ht]; exact hlinks
  have htpass : t.pass = p := by rw [ht]
  have htwrites : t.boardWrites = u.boardWrites := by rw [ht]
  have htroster : t.roster = u.roster := by rw [ht]
  rw [← ht] at hwrite hframe' ⊢
  have hsame : SamePicture s t i ↔ SamePicture s u i := SamePicture.congr rfl rfl (htseat i) htroster
  have hu : t.seat i = { z.seat i with board := (u.seat i).board } := (htseat i).trans hshown.seat
  refine ⟨?_, ?_, fun l => ?_, fun h => ?_, fun h => ?_, fun h => ?_, fun h => ?_, fun j hj => ?_, ?_⟩
  · obtain ⟨a1, a2, a3, a4⟩ := hes
    rw [hu]; exact ⟨a1, a2, a3, a4⟩
  · rw [hu]; exact hem.congr rfl rfl rfl rfl
  · rw [← hlink l, State.link, htlinks]; rfl
  · obtain ⟨j, h1, h2, h3⟩ := h
    rw [htpass, hp2 ⟨j, h1, by rw [hlayout]; exact h2, by rw [hactive j h1]; exact h3⟩]
  · rw [htpass, hp3 fun j h1 h2 => by rw [hactive j h1]; exact h j h1 (by rw [← hlayout]; exact h2)]
  · rw [hwrite, htseat, htwrites]; exact hshown.changed (hsame.not.1 h)
  · rw [hwrite, htseat, htwrites]; exact hshown.same (hsame.1 h)
  · rw [htseat, hothers j hj]
  · rw [htlinks, ← hlinks, htpass, htwrites, show t.seats = u.seats by rw [ht]]; exact hframe'

end Sys2Proof.Machine
end

section
/-! PROOFS. SEAT_EVALUATION and the rows of its single steps (O39, O40). -/
namespace Sys2Proof.Machine
open Sys2Proof

variable {s t u v f : State} {i j : Seat} {l m : LinkId} {c : Curve} {e : Estimator} {gen : Word} {now : Clock}

theorem isSilent_iff : s.isSilent i = true ↔ (s.seatClass i).silenceTime ≤ (s.clock - (s.seat i).ctx.lastReport).toNat := decide_eq_true_iff

theorem rollsWindow_iff : s.rollsWindow i (s.isSilent i) = true ↔ ¬ (s.seatClass i).silenceTime ≤ (s.clock - (s.seat i).ctx.lastReport).toNat
    ∧ (s.seatClass i).fadeWindow * 1000 ≤ (s.clock - heldReading s.clock (s.seat i).tracker.windowStart).toNat := by
  unfold State.rollsWindow windowElapsed
  rw [Bool.and_eq_true, Bool.not_eq_true', ← isSilent_iff, Bool.not_eq_true, decide_eq_true_iff]; rfl

theorem silenceCause_iff {silent : Prop} [Decidable silent] (h : s.isSilent i = true ↔ silent) : s.silenceCause i (s.isSilent i) =
    if ¬ silent then .noCause else if (s.link (s.seat i).ctx.link).state = .down then .linkDown
      else if (s.seat i).ctx.foreignSeen then .foreignUnit else .noReports := by
  unfold State.silenceCause
  exact if_congr (by rw [← h, Bool.not_eq_true]) rfl rfl

theorem checkedChannel_first {x : MuteChannel} (h : x.attempt = .first) :
    checkedChannel x true = { x with state := .sending, attempt := .second, deadline := none } := by
  obtain ⟨a, b, c, d⟩ := x
  cases h; rfl
theorem checkedChannel_second {x : MuteChannel} (h : x.attempt = .second) : checkedChannel x true = { x with state := .unconfirmed, deadline := none } := by
  obtain ⟨a, b, c, d⟩ := x
  cases h; rfl

/-- The deadline's part of an evaluation (R132). -/
theorem PassedOn.deadline (h : PassedOn s t i) (hp : s.part = .running) :
    (s.deadlineExpired i = false → (t.seat i).channel = (s.seat i).channel ∧ t.links = s.links)
    ∧ (s.deadlineExpired i = true → (s.seat i).channel.attempt = .first →
        (t.seat i).channel = { (s.seat i).channel with state := .sending, attempt := .second, deadline := none }
        ∧ PlacedLink True (s.link (s.seat i).ctx.link) (t.link (s.seat i).ctx.link) i ∧ linksKept s t (· = (s.seat i).ctx.link))
    ∧ (s.deadlineExpired i = true → (s.seat i).channel.attempt = .second →
        (t.seat i).channel = { (s.seat i).channel with state := .unconfirmed, deadline := none } ∧ t.links = s.links) := by
  have hkept : (∀ l, t.link l = s.link l) → t.links = s.links := fun hl => Vector.ext fun k hk => hl ⟨k, hk⟩
  refine ⟨fun he => ⟨?_, hkept fun l => ?_⟩, fun he ha => ⟨?_, ?_, fun l hl => ?_⟩, fun he ha => ⟨?_, hkept fun l => ?_⟩⟩
  · rw [h.seat.channel, he]; rfl
  · rw [h.link, if_neg fun hn => absurd (hn.1.symm.trans he) (by decide)]
  · rw [h.seat.channel, he, checkedChannel_first ha]
  · rw [h.link, if_pos ⟨he, ha, hp, rfl⟩]
    have := placedLink_placeOn (k := s.link (s.seat i).ctx.link) i (running := True)
    rwa [if_pos trivial] at this
  · rw [h.link, if_neg fun hn => hl hn.2.2.2]
  · rw [h.seat.channel, he, checkedChannel_second ha]
  · rw [h.link, if_neg fun hn => absurd (hn.2.1.symm.trans ha) (by decide)]

/-- The estimator's part of an evaluation of an estimator that has seen the current generation (R108 to R111). -/
theorem PassedOn.history (h : PassedOn s t i) (hs : (s.seat i).estimator.genSeen = s.seatGeneration i) :
    HistoryKept (s.seatCurve i) (s.seat i).estimator (t.seat i).estimator s.clock (s.isSilent i = false ∧ (s.seat i).estimator.seeded = true
      ∧ (s.seat i).estimator.missing = false ∧ CurveValid (s.seatCurve i) ∧ (s.clock - (s.seat i).estimator.nextSample).toNat < 2147483648) := by
  rw [h.seat.estimator, if_pos hs]; exact historyKept

theorem exec_seatEvaluation (s : State) : exec .seatEvaluation s = .next (if s.part = .running then s.passOn else s) := rfl

/-- Settles O39: the pass's next active seat, the blocks' work, the monitors, the publication and the pass. -/
theorem seatEvaluation : Obligations.SeatEvaluation := by
  unfold Obligations.SeatEvaluation
  intro s k i x cls age silent stale expired rolls kept next taken
  have hexec := exec_seatEvaluation s
  have hsilent : s.isSilent i = true ↔ silent := isSilent_iff
  have hawake : s.isSilent i = false ↔ ¬ silent := by rw [← hsilent, Bool.not_eq_true]
  have hrolls : s.rollsWindow i (s.isSilent i) = true ↔ rolls := rollsWindow_iff
  have hexpired : s.deadlineExpired i = true ↔ expired := deadlineExpired_iff
  refine ⟨fun h => ?_, fun n hp hn hno => ?_, fun hp hk h1 h2 h3 h4 => ?_⟩
  · rw [hexec]
    split
    · next hp =>
      have hnone : s.pass = none := h.resolve_left fun h' => h' hp
      unfold State.passOn; rw [hnone]
    · rfl
  · rw [hexec, if_pos hp, passOn_over hn]
    refine Option.isNone_iff_eq_none.1 (nextActive_isNone_iff.2 ?_)
    rintro ⟨j, hj, hc, ha⟩
    exact absurd (ha.symm.trans (hno j hj hc)) (by decide)
  · have ht := passedOn hp hk (nextActive_eq_some_iff.2 ⟨h1, h2, h3, h4⟩)
    rw [if_pos hp] at hexec
    generalize s.passOn = t at *
    obtain ⟨d1, d2, d3⟩ := ht.deadline hp
    have hm := ht.monitors
    refine ⟨t, hexec, ht.goes, ht.done, ?_, ?_, fun hs => ?_, fun hs => ?_, fun hn => d1 ?_, fun he => d2 (hexpired.2 he), fun he => d3 (hexpired.2 he), ?_,
      hm.unconfirmed, fun hs => ?_, fun hs => ?_, ?_, ?_, ht.changed, ht.same, ht.others, ht.frame⟩
    · have hlast : (if s.isSilent i = true then heldReading s.clock x.ctx.lastReport else x.ctx.lastReport) =
          if silent then heldReading s.clock x.ctx.lastReport else x.ctx.lastReport := if_congr hsilent rfl rfl
      rw [ht.seat.ctx, silenceCause_iff hsilent, hlast]
    · exact ht.seat.tracker.trans (if_congr hrolls rfl rfl)
    · rw [ht.seat.estimator, historyWork_stale hs]; rfl
    · have hh := ht.history (not_not.1 hs)
      exact ⟨hh.frame, hh.status, fun htk => hh.sampled ⟨hawake.2 htk.1, htk.2⟩, fun htk => hh.trimmed fun h' => htk ⟨hawake.1 h'.1, h'.2⟩⟩
    · rw [← Bool.not_eq_true, hexpired]; exact hn
    · have := hm.silent
      rw [hsilent] at this
      exact this
    · have hfr := hm.frozen (hsilent.2 hs)
      exact ⟨hfr _ (.inl rfl), hfr _ (.inr (.inl rfl)), hfr _ (.inr (.inr (.inl rfl))), hfr _ (.inr (.inr (.inr rfl)))⟩
    · have hw := hawake.2 hs
      exact ⟨hm.lost hw, hm.weak hw, hm.hotMic hw, hm.speaking hw⟩
    · have := hm.low
      rw [hsilent] at this
      exact this
    · have := hm.critical
      rw [hsilent] at this
      exact this

theorem exec_fadeWindowRollover (i : Seat) (s : State) : exec (.fadeWindowRollover i) s = .next (s.evaluateWhen i (s.rollsWindow i (s.isSilent i))) := rfl
theorem exec_historySample (i : Seat) (s : State) : exec (.historySample i) s = .next (s.evaluateWhen i (s.takesSample i)) := rfl
theorem exec_confirmationDeadlineExpiry (i : Seat) (s : State) :
    exec (.confirmationDeadlineExpiry i) s = .next (s.evaluateWhen i (s.deadlineExpired i)) := rfl

/-- The pass in flight has reached seat i (R51). -/
def State.PassReaches (s : State) (i : Seat) : Prop :=
  s.part = .running ∧ (s.seat i).ctx.active = true ∧ i.val < s.layout.seatCount ∧ ∃ k, s.pass = some k
    ∧ k ≤ i.val ∧ ∀ j : Seat, k ≤ j.val → j < i → (s.seat j).ctx.active = false

theorem evaluable_iff : s.evaluable i = true ↔ s.PassReaches i := by
  unfold State.evaluable State.reachedSeat State.PassReaches
  rw [Bool.and_eq_true, beq_iff_eq, beq_iff_eq, Option.bind_eq_some_iff]
  simp only [nextActive_eq_some_iff]
  exact ⟨fun ⟨hp, k, hk, h1, h2, h3, h4⟩ => ⟨hp, h3, h2, k, hk, h1, h4⟩, fun ⟨hp, h3, h2, k, hk, h1, h4⟩ => ⟨hp, k, hk, h1, h2, h3, h4⟩⟩

theorem evaluateWhen_not {due : Bool} (h : ¬ (s.PassReaches i ∧ due = true)) : s.evaluateWhen i due = s :=
  if_neg fun hn => by rw [Bool.and_eq_true, evaluable_iff] at hn; exact h hn

/-- A step of an evaluation is made with the seat's whole evaluation (log 5). -/
theorem evaluateWhen_due {due : Bool} (h : s.PassReaches i) (hd : due = true) : s.evaluateWhen i due = s.passOn ∧ PassedOn s s.passOn i ∧ s.part = .running := by
  refine ⟨if_pos (by rw [Bool.and_eq_true, evaluable_iff]; exact ⟨h, hd⟩), ?_, h.1⟩
  obtain ⟨hp, ha, hc, k, hk, h1, h2⟩ := h
  exact passedOn hp hk (nextActive_eq_some_iff.2 ⟨h1, hc, ha, h2⟩)

theorem PassedOn.beyond (h : PassedOn s t i) {k : Nat} (hk : t.pass = some k) : i.val < k := by
  by_cases hl : ∃ j : Seat, i < j ∧ j.val < s.layout.seatCount ∧ (s.seat j).ctx.active = true
  · rw [h.goes hl] at hk; cases hk; exact Nat.lt_succ_self _
  · rw [h.done fun j h1 h2 => Bool.eq_false_iff.2 fun h3 => hl ⟨j, h1, h2, h3⟩] at hk; cases hk

theorem takesSample_iff : s.takesSample i = true ↔ s.isSilent i = false ∧ (s.seat i).estimator.genSeen = s.seatGeneration i
    ∧ (s.seat i).estimator.seeded = true ∧ (s.seat i).estimator.missing = false ∧ CurveValid (s.seatCurve i)
    ∧ (s.clock - (s.seat i).estimator.nextSample).toNat < 2147483648 := by
  unfold State.takesSample
  rw [Bool.and_eq_true, Bool.and_eq_true, Bool.not_eq_true', beq_iff_eq, sampleDue_trimmed, and_assoc]

/-- Settles O40: each of the three rows is the seat's evaluation when its step falls due in it, and nothing otherwise. -/
theorem sharesOfEvaluation : Obligations.SharesOfEvaluation := by
  unfold Obligations.SharesOfEvaluation
  intro s i x cls e age reached silent rolls samples expired evaluates
  have hsilent : s.isSilent i = true ↔ silent := isSilent_iff
  have hawake : s.isSilent i = false ↔ ¬ silent := by rw [← hsilent, Bool.not_eq_true]
  have hrolls : s.PassReaches i ∧ s.rollsWindow i (s.isSilent i) = true ↔ rolls := and_congr_right fun _ => rollsWindow_iff
  have hsamples : s.PassReaches i ∧ s.takesSample i = true ↔ samples := and_congr_right fun _ => by rw [takesSample_iff, hawake]
  have hexpired : s.PassReaches i ∧ s.deadlineExpired i = true ↔ expired := and_congr_right fun _ => deadlineExpired_iff
  have hrow : ∀ (c : Instr) (due : Bool) (step : State → Prop), exec c s = .next (s.evaluateWhen i due) → s.PassReaches i ∧ due = true →
      (∀ t, PassedOn s t i → s.part = .running → step t) → evaluates c step := fun c due step hc hd hstep => by
    obtain ⟨h1, h2, h3⟩ := evaluateWhen_due hd.1 hd.2
    rw [h1] at hc
    exact ⟨s.passOn, hc, by rw [exec_seatEvaluation, if_pos h3], h2.others, fun k hk => h2.beyond hk, hstep _ h2 h3⟩
  refine ⟨fun h => ?_, fun h => ?_, fun h => ?_, fun h => ?_, fun h => ?_, fun h => ?_⟩
  · refine hrow _ _ _ (exec_fadeWindowRollover i s) (hrolls.2 h) fun t ht _ => ?_
    rw [ht.seat.tracker, if_pos (hrolls.2 h).2]; rfl
  · rw [exec_fadeWindowRollover, evaluateWhen_not (hrolls.not.2 h)]
  · refine hrow _ _ _ (exec_historySample i s) (hsamples.2 h) fun t ht _ => ?_
    obtain ⟨h1, h2, h3⟩ := takesSample_iff.1 (hsamples.2 h).2
    have hh := ht.history h2
    obtain ⟨a1, a2, a3⟩ := hh.sampled ⟨h1, h3⟩
    exact ⟨a1, a2, a3, hh.status⟩
  · rw [exec_historySample, evaluateWhen_not (hsamples.not.2 h)]
  · refine hrow _ _ _ (exec_confirmationDeadlineExpiry i s) (hexpired.2 h) fun t ht hp => ?_
    obtain ⟨-, d2, d3⟩ := ht.deadline hp
    exact ⟨d2 (hexpired.2 h).2, d3 (hexpired.2 h).2⟩
  · rw [exec_confirmationDeadlineExpiry, evaluateWhen_not (hexpired.not.2 h)]

end Sys2Proof.Machine
end

section
/-! PROOFS. The reading of a start and its judgement (R173). -/
namespace Sys2Proof.Machine
open Sys2Proof

variable {s t u v f : State} {i j : Seat} {l m : LinkId} {rs : List ReadWord} {ws : List Word} {k n : Nat}

/-! The words of a start's reading -/

/-- The address of the k-th word of a start's reading, if the reading comes to it. -/
def State.startAddr (s : State) (k : Nat) : Nat :=
  if k < 27 then directoryAddrs.getD k 0 else if k = 27 then s.dirPageWord .a else if k = 28 then s.dirPageWord .b else s.dirTableWord (k - 29)

/-- What CHECKING has of that word. -/
def State.startWord (s : State) (k : Nat) : ReadWord := s.readsAs s.reads s.startAddr k

theorem startRead_eq (k a : Nat) : s.startRead k a = (s.reads[k]?).getD (s.look a) := by
  unfold State.startRead
  cases s.reads[k]? <;> rfl

theorem idxOf_directoryAddrs : ∀ k < 27, directoryAddrs.idxOf (directoryAddrs.getD k 0) = k := by decide
theorem getD_idxOf_directoryAddrs : ∀ a ∈ directoryAddrs, directoryAddrs.getD (directoryAddrs.idxOf a) 0 = a ∧ directoryAddrs.idxOf a < 27 := by decide

theorem startWord_directory (hk : k < 27) : s.startWord k = s.dirRead (directoryAddrs.getD k 0) := by
  rw [State.startWord, State.readsAs, State.dirRead, startRead_eq, idxOf_directoryAddrs k hk, State.startAddr, if_pos hk]
theorem dirRead_eq {a : Nat} (ha : a ∈ directoryAddrs) : s.dirRead a = s.startWord (directoryAddrs.idxOf a) := by
  obtain ⟨h1, h2⟩ := getD_idxOf_directoryAddrs a ha
  rw [startWord_directory h2, h1]
theorem startWord_pageA : s.startWord 27 = s.pageRead .a := (startRead_eq 27 _).symm
theorem startWord_pageB : s.startWord 28 = s.pageRead .b := (startRead_eq 28 _).symm
theorem startWord_table : s.startWord (29 + k) = s.tableRead k := by
  rw [State.startWord, State.readsAs, State.tableRead, startRead_eq, State.startAddr, if_neg (by omega), if_neg (by omega), if_neg (by omega),
    Nat.add_sub_cancel_left]

theorem directory_good_iff : (∀ a ∈ directoryAddrs, (s.dirRead a).bad = false) ↔ ∀ k < 27, (s.startWord k).bad = false := by
  refine ⟨fun h k hk => ?_, fun h a ha => ?_⟩
  · rw [startWord_directory hk]
    refine h _ ?_
    rw [List.getD_eq_getElem _ _ (show k < directoryAddrs.length from hk)]
    exact List.getElem_mem _
  · rw [dirRead_eq ha]; exact h _ (getD_idxOf_directoryAddrs a ha).2

/-! The directory -/

/-- The directory as CHECKING reads it. -/
def State.startDirectory (s : State) : Directory :=
  { layout := { seatCount := (s.dirWord 0).toNat, seatTable := (s.dirWord 1).toNat, board := (s.dirWord 2).toNat,
                changeList := (s.dirWord 3).toNat, classTable := (s.dirWord 4).toNat, curveTable := (s.dirWord 5).toNat,
                pageArea := (s.dirWord 6).toNat }
    capacity := (s.dirWord 7).toNat
    scanPeriod := clampTo 5 100 (s.dirWord 8).toNat
    refreshInterval := clampTo 1 255 (s.dirWord 9).toNat
    floorLimit := clampTo 1 8 ((s.dirWord 10).toNat % 256)
    floorPolicy := policyOf ((s.dirWord 10).toNat / 256)
    links := Vector.ofFn fun l : Fin 8 =>
      { enabled := (s.dirWord (12 + 2 * l.val)).getLsbD 15
        divisor := (s.dirWord (12 + 2 * l.val)).toNat % 256
        timeout := clampTo 50 2000 (s.dirWord (13 + 2 * l.val)).toNat } }

theorem directoryOf_read (h : ∀ k < 27, nth ws k = (s.startWord k).value) : directoryOf ws = s.startDirectory := by
  have hw : ∀ k < 27, nth ws k = s.dirWord (directoryAddrs.getD k 0) := fun k hk => by rw [h k hk, startWord_directory hk]; rfl
  have hlow : ∀ k < 11, directoryAddrs.getD k 0 = k := by decide
  have hlink : ∀ l : Fin 8, directoryAddrs.getD (11 + 2 * l.val) 0 = 12 + 2 * l.val ∧ directoryAddrs.getD (12 + 2 * l.val) 0 = 13 + 2 * l.val := by decide
  have hfirst : ∀ k < 11, nth ws k = s.dirWord k := fun k hk => by rw [hw k (by omega), hlow k hk]
  have hsetup : ∀ l : Fin 8, nth ws (11 + 2 * l.val) = s.dirWord (12 + 2 * l.val) ∧ nth ws (12 + 2 * l.val) = s.dirWord (13 + 2 * l.val) := fun l => by
    rw [hw _ (by omega), hw _ (by omega), (hlink l).1, (hlink l).2]; exact ⟨rfl, rfl⟩
  unfold directoryOf State.startDirectory
  simp only [(hsetup _).1, (hsetup _).2, hfirst 0 (by omega), hfirst 1 (by omega), hfirst 2 (by omega), hfirst 3 (by omega), hfirst 4 (by omega),
    hfirst 5 (by omega), hfirst 6 (by omega), hfirst 7 (by omega), hfirst 8 (by omega), hfirst 9 (by omega), hfirst 10 (by omega), lowByte, highByte]

/-! The regions (R173, checks 4 and 5) -/

theorem startDirectory_regions : s.startDirectory.regions = s.dirRegions := by
  unfold Directory.regions State.dirRegions State.startDirectory
  dsimp only
  rw [Nat.mul_comm _ 3, Nat.mul_comm _ 12]

theorem allApart_iff_pairwise : ∀ {rs : List (Nat × Nat)}, allApart rs = true ↔ rs.Pairwise fun r r' => apart r r' = true
  | [] => by simp [allApart]
  | r :: rs => by rw [allApart, Bool.and_eq_true, List.all_eq_true, allApart_iff_pairwise, List.pairwise_cons]

theorem apart_iff {r r' : Nat × Nat} (h : 0 < r.2) (h' : 0 < r'.2) :
    apart r r' = true ↔ ∀ x, ¬ (r.1 ≤ x ∧ x < r.1 + r.2 ∧ r'.1 ≤ x ∧ x < r'.1 + r'.2) := by
  simp only [apart, Bool.or_eq_true, decide_eq_true_eq]
  refine ⟨fun ha x => by omega, fun ha => ?_⟩
  have h1 := ha r.1
  have h2 := ha r'.1
  omega

theorem allApart_iff {rs : List (Nat × Nat)} (hpos : ∀ r ∈ rs, 0 < r.2) : allApart rs = true ↔
    ∀ (p q : Nat) (r r' : Nat × Nat), p < q → rs[p]? = some r → rs[q]? = some r' → ∀ x, ¬ (r.1 ≤ x ∧ x < r.1 + r.2 ∧ r'.1 ≤ x ∧ x < r'.1 + r'.2) := by
  rw [allApart_iff_pairwise, List.pairwise_iff_getElem]
  refine ⟨fun h p q r r' hpq hr hr' => ?_, fun h p q hp hq hpq => ?_⟩
  · obtain ⟨hp, rfl⟩ := List.getElem?_eq_some_iff.1 hr
    obtain ⟨hq, rfl⟩ := List.getElem?_eq_some_iff.1 hr'
    exact (apart_iff (hpos _ (List.getElem_mem hp)) (hpos _ (List.getElem_mem hq))).1 (h p q hp hq hpq)
  · exact (apart_iff (hpos _ (List.getElem_mem hp)) (hpos _ (List.getElem_mem hq))).2
      (h p q _ _ hpq (List.getElem?_eq_getElem hp) (List.getElem?_eq_getElem hq))

theorem dirRegions_apart_iff (h1 : s.countFits) (h2 : s.capacityFits) : allApart s.startDirectory.regions = true ↔ s.regionsApart := by
  rw [startDirectory_regions]
  refine allApart_iff fun r hr => ?_
  obtain ⟨h1, -⟩ := h1
  obtain ⟨h2, -⟩ := h2
  simp only [State.dirRegions, List.mem_cons, List.not_mem_nil, or_false] at hr
  rcases hr with rfl | rfl | rfl | rfl | rfl | rfl | rfl <;> dsimp only <;> omega

/-! Checks 2 to 6 (R173) -/

theorem count_fails_iff : (s.startDirectory.layout.seatCount < 1 ∨ 512 < s.startDirectory.layout.seatCount) ↔ ¬ s.countFits := by
  show ((s.dirWord 0).toNat < 1 ∨ 512 < (s.dirWord 0).toNat) ↔ _
  unfold State.countFits; omega
theorem capacity_fails_iff : (s.startDirectory.capacity < 16 ∨ 512 < s.startDirectory.capacity) ↔ ¬ s.capacityFits := by
  show ((s.dirWord 7).toNat < 16 ∨ 512 < (s.dirWord 7).toNat) ↔ _
  unfold State.capacityFits; omega
theorem range_fails_iff : s.startDirectory.regions.any (fun r => ramWords < r.1 + r.2) = true ↔ ¬ s.regionsFit := by
  rw [startDirectory_regions, List.any_eq_true, State.regionsFit]
  simp only [ramWords, not_forall, Nat.not_le, exists_prop]
  exact exists_congr fun r => and_congr_right fun _ => decide_eq_true_iff
theorem links_fail_iff : s.startDirectory.links.toList.all (fun l => l.enabled == false) = true ↔ ¬ s.someLink := by
  simp only [State.someLink, State.startDirectory, List.all_eq_true, Vector.mem_toList_iff, Vector.mem_ofFn, forall_exists_index, forall_apply_eq_imp_iff,
    beq_iff_eq, not_exists, Bool.not_eq_true]

theorem failure_seatCount (h : ¬ s.countFits) : s.startDirectory.failure = some .seatCount := if_pos (count_fails_iff.2 h)
theorem failure_listCapacity (h1 : s.countFits) (h : ¬ s.capacityFits) : s.startDirectory.failure = some .listCapacity := by
  unfold Directory.failure
  rw [if_neg (count_fails_iff.not.2 (not_not.2 h1)), if_pos (capacity_fails_iff.2 h)]
theorem failure_directoryRange (h1 : s.countFits) (h2 : s.capacityFits) (h : ¬ s.regionsFit) : s.startDirectory.failure = some .directoryRange := by
  unfold Directory.failure
  rw [if_neg (count_fails_iff.not.2 (not_not.2 h1)), if_neg (capacity_fails_iff.not.2 (not_not.2 h2)), if_pos (range_fails_iff.2 h)]

/-- Checks 5 and 6, the others passed. -/
theorem failure_later (h1 : s.countFits) (h2 : s.capacityFits) (h3 : s.regionsFit) : s.startDirectory.failure =
    if allApart s.startDirectory.regions = false then some .regionOverlap
    else if s.startDirectory.links.toList.all (fun l => l.enabled == false) then some .noLink else none := by
  unfold Directory.failure
  rw [if_neg (count_fails_iff.not.2 (not_not.2 h1)), if_neg (capacity_fails_iff.not.2 (not_not.2 h2)), if_neg (range_fails_iff.not.2 (not_not.2 h3))]

theorem failure_regionOverlap (h1 : s.countFits) (h2 : s.capacityFits) (h3 : s.regionsFit) (h : ¬ s.regionsApart) :
    s.startDirectory.failure = some .regionOverlap := by
  rw [failure_later h1 h2 h3, if_pos (Bool.eq_false_iff.2 ((dirRegions_apart_iff h1 h2).not.2 h))]
theorem failure_noLink (h1 : s.countFits) (h2 : s.capacityFits) (h3 : s.regionsFit) (h4 : s.regionsApart) (h : ¬ s.someLink) :
    s.startDirectory.failure = some .noLink := by
  rw [failure_later h1 h2 h3, if_neg (by rw [(dirRegions_apart_iff h1 h2).2 h4]; decide), if_pos (links_fail_iff.2 h)]
theorem failure_none (h : s.directoryFits) : s.startDirectory.failure = none := by
  obtain ⟨h1, h2, h3, h4, h5⟩ := h
  rw [failure_later h1 h2 h3, if_neg (by rw [(dirRegions_apart_iff h1 h2).2 h4]; decide), if_neg (links_fail_iff.not.2 (not_not.2 h5))]

/-! The reading (R173) -/

/-- A reading of a start that has its words as CHECKING has them. -/
def StartReading (s : State) (rs : List ReadWord) : Prop := ∀ k, k < rs.length → k < 165 → rs[k]? = some (s.startWord k)

theorem startReading_reads : StartReading s s.reads := fun k hk _ => by
  rw [State.startWord, readsAs_read hk, List.getElem?_eq_getElem hk]
theorem startReading_looks : StartReading s (s.reads ++ s.looks s.startAddr s.reads.length n) := fun k hk _ => by
  rw [List.length_append, length_looks] at hk
  exact getElem?_looks hk

theorem StartReading.nth (h : StartReading s rs) (hk : k < rs.length) (h' : k < 165) : nth (valuesOf rs) k = (s.startWord k).value := by
  rw [Machine.nth, valuesOf, List.getElem?_map, h k hk h']; rfl
theorem StartReading.directory (h : StartReading s rs) (hl : 27 ≤ rs.length) : directoryOf (valuesOf rs) = s.startDirectory :=
  directoryOf_read fun k hk => h.nth (by omega) (by omega)

theorem startablePage_isNone_iff {w : Word} : (startablePage w).isNone = true ↔ ¬ startable w := by
  have hw : startable w ↔ w.toNat = 0 ∨ w.toNat = 1 ∨ w.toNat = 4 := by
    unfold startable
    simp only [← BitVec.toNat_inj]; rfl
  rw [hw]
  unfold startablePage pageStateOfWord
  rcases w.toNat with _ | _ | _ | _ | _ | n <;> simp

/-- The reading of a start comes to its k-th word (R173). -/
structure StartComes (s : State) (k : Nat) : Prop where
  inside : k < 165
  fits : 27 ≤ k → s.directoryFits
  pageA : 28 ≤ k → startable (s.pageRead .a).value
  pageB : 29 ≤ k → startable (s.pageRead .b).value

theorem StartComes.next (hc : StartComes s rs.length) (h : StartReading s rs) (hg : firstBadRead rs = none) :
    nextStartRead rs = some (s.startAddr rs.length) := by
  obtain ⟨h165, hfits, hA, hB⟩ := hc
  unfold nextStartRead State.startAddr; dsimp only
  rw [hg, if_neg (by decide)]
  by_cases h27 : rs.length < 27
  · rw [if_pos (show rs.length < directoryWords from h27), if_pos h27, List.getD_eq_getElem _ _ (show rs.length < directoryAddrs.length from h27)]
    exact List.getElem?_eq_getElem _
  · rw [if_neg (show ¬ rs.length < directoryWords from h27), h.directory (by omega), failure_none (hfits (by omega)), if_neg (by decide), if_neg h27]
    by_cases e27 : rs.length = 27
    · rw [if_pos (show rs.length = directoryWords from e27), if_pos e27]; rfl
    · rw [if_neg (show ¬ rs.length = directoryWords from e27), if_neg e27, h.nth (k := directoryWords) (show 27 < rs.length by omega) (by decide),
        show s.startWord directoryWords = s.pageRead .a from startWord_pageA, if_neg (fun hn => startablePage_isNone_iff.1 hn (hA (by omega)))]
      by_cases e28 : rs.length = 28
      · rw [if_pos (show rs.length = directoryWords + 1 from e28), if_pos e28]; rfl
      · rw [if_neg (show ¬ rs.length = directoryWords + 1 from e28), if_neg e28, h.nth (k := directoryWords + 1) (show 28 < rs.length by omega) (by decide),
          show s.startWord (directoryWords + 1) = s.pageRead .b from startWord_pageB, if_neg (fun hn => startablePage_isNone_iff.1 hn (hB (by omega))),
          if_pos (show rs.length < startWords from h165)]
        rfl

theorem StartComes.before (hc : StartComes s k) (hn : n ≤ k) : StartComes s n :=
  ⟨Nat.lt_of_le_of_lt hn hc.inside, fun h => hc.fits (h.trans hn), fun h => hc.pageA (h.trans hn), fun h => hc.pageB (h.trans hn)⟩

theorem nextStartRead_bad (h : (firstBadRead rs).isSome = true) : nextStartRead rs = none := if_pos h

theorem looks_good (hg : ∀ j < k, (s.startWord j).bad = false) (hn : s.reads.length + n ≤ k) :
    firstBadRead (s.reads ++ s.looks s.startAddr s.reads.length n) = none := firstBadRead_looks fun j hj => hg j (by omega)

theorem next_looks (hc : StartComes s k) (hg : ∀ j < k, (s.startWord j).bad = false) (hn : s.reads.length + n ≤ k) :
    nextStartRead (s.reads ++ s.looks s.startAddr s.reads.length n) = some (s.startAddr (s.reads.length + n)) := by
  have hl : (s.reads ++ s.looks s.startAddr s.reads.length n).length = s.reads.length + n := by rw [List.length_append, length_looks]
  have := StartComes.next (rs := s.reads ++ s.looks s.startAddr s.reads.length n) (by rw [hl]; exact hc.before hn) startReading_looks (looks_good hg hn)
  rwa [hl] at this

/-- The reading of a start that meets its first bad word: it is read at this event, or the reading has it. -/
theorem startReading_bad (hc : StartComes s k) (hg : ∀ j < k, (s.startWord j).bad = false) (hb : (s.startWord k).bad = true) :
    ∃ rs, StartReading s rs ∧ k < rs.length ∧ (firstBadRead rs).isSome = true
      ∧ (s.reads.length ≤ k → s.readOn nextStartRead startWords = { s.recordFault (s.startAddr k) .parity with reads := rs })
      ∧ (k < s.reads.length → s.readOn nextStartRead startWords = { s with reads := rs }) := by
  have hk := hc.inside
  have hfirst : ∀ rs, StartReading s rs → k < rs.length → (firstBadRead rs).isSome = true := fun rs hr hl => by
    rw [firstBadRead_at (hr k hl hk) hb fun j hj x hx => ?_]
    · rfl
    · rw [hr j (by omega) (by omega)] at hx
      cases hx; exact hg j hj
  by_cases hl : s.reads.length ≤ k
  · refine ⟨s.reads ++ s.looks s.startAddr s.reads.length (k - s.reads.length + 1), startReading_looks, ?_, ?_, fun _ => ?_, fun h => absurd h (by omega)⟩
    · rw [List.length_append, length_looks]; omega
    · refine hfirst _ startReading_looks ?_
      rw [List.length_append, length_looks]; omega
    · have := readOn_bad (s := s) (rs := s.reads) (addr := s.startAddr) (next := nextStartRead) (164 - (k - s.reads.length)) hl
        (fun j hj => next_looks hc hg hj) hg hb fun l => nextStartRead_bad
      rw [show k - s.reads.length + (164 - (k - s.reads.length) + 1) = startWords by simp only [startWords, wordsBeforeTables, directoryWords, tableWords]; omega] at this
      exact this
  · have hl' : k < s.reads.length := by omega
    exact ⟨s.reads, startReading_reads, hl', hfirst _ startReading_reads hl', fun h => absurd h hl, fun _ =>
      readOn_over (nextStartRead_bad (hfirst _ startReading_reads hl')) _⟩

/-- The reading of a start that ends without a bad word before its n-th. -/
theorem startReading_ends (hn : n ≤ 165) (hc : s.reads.length < n → StartComes s (n - 1)) (hg : ∀ j < n, (s.startWord j).bad = false)
    (hover : ∀ rs, StartReading s rs → n ≤ rs.length → (firstBadRead rs).isSome = false → nextStartRead rs = none) :
    ∃ rs, StartReading s rs ∧ n ≤ rs.length ∧ s.readOn nextStartRead startWords = { s with reads := rs } ∧ ((∀ r ∈ s.reads, r.bad = false) → firstBadRead rs = none) := by
  by_cases hl : s.reads.length ≤ n
  · have hlen : (s.reads ++ s.looks s.startAddr s.reads.length (n - s.reads.length)).length = n := by rw [List.length_append, length_looks]; omega
    have hfirst := looks_good (n := n - s.reads.length) hg (by omega)
    refine ⟨_, startReading_looks, by rw [hlen], ?_, fun _ => hfirst⟩
    have := readOn_good (s := s) (next := nextStartRead) s.startAddr (165 - (n - s.reads.length)) (n - s.reads.length) s.reads
      (fun j hj => next_looks (hc (by omega)) (fun j hj => hg j (by omega)) (by omega)) fun j hj => ?_
    · rw [show n - s.reads.length + (165 - (n - s.reads.length)) = startWords by simp only [startWords, wordsBeforeTables, directoryWords, tableWords]; omega] at this
      refine this.trans (readOn_over (s := { s with reads := s.reads ++ s.looks s.startAddr s.reads.length (n - s.reads.length) }) ?_ _)
      exact hover _ startReading_looks (by rw [hlen]) (by rw [hfirst]; rfl)
    · have := hg (s.reads.length + j) (by omega)
      rw [State.startWord, readsAs_stands (by omega)] at this
      exact this
  · refine ⟨s.reads, startReading_reads, by omega, readOn_over ?_ _, firstBadRead_eq_none.2⟩
    cases hb : (firstBadRead s.reads).isSome with
    | true => exact nextStartRead_bad hb
    | false => exact hover _ startReading_reads (by omega) hb

end Sys2Proof.Machine
end

section
/-! PROOFS. A start that fails (O59). -/
namespace Sys2Proof.Machine
open Sys2Proof

variable {s t u v f y : State} {l m : LinkId} {rs : List ReadWord} {k n : Nat} {code : StartResult} {d : Directory}

/-! The code of a start (R173) -/

theorem directory_take (hr : StartReading s rs) (hg : ∀ k < 27, (s.startWord k).bad = false) : firstBadRead (rs.take directoryWords) = none :=
  firstBadRead_none_of fun j hj x hx => by
    have h1 : j < 27 ∧ j < rs.length := by
      rw [List.length_take] at hj
      exact lt_min_iff.1 hj
    rw [List.getElem?_take_of_lt (show j < directoryWords from h1.1), hr j h1.2 (by omega)] at hx
    cases hx; exact hg j h1.1

theorem directory_take_bad (hr : StartReading s rs) (hk : k < 27) (hl : k < rs.length) (hg : ∀ j < k, (s.startWord j).bad = false)
    (hb : (s.startWord k).bad = true) : (firstBadRead (rs.take directoryWords)).isSome = true := by
  rw [firstBadRead_at (k := k) (r := s.startWord k) (by rw [List.getElem?_take_of_lt (show k < directoryWords from hk), hr k hl (by omega)]) hb fun j hj x hx => ?_]
  · rfl
  · rw [List.getElem?_take_of_lt (show j < directoryWords from Nat.lt_trans hj hk), hr j (by omega) (by omega)] at hx
    cases hx; exact hg j hj

theorem startCode_directoryBad (h : (firstBadRead (rs.take directoryWords)).isSome = true) : startCode rs = .ramFault := if_pos h

theorem startCode_failure (h : firstBadRead (rs.take directoryWords) = none) (hd : directoryOf (valuesOf rs) = d) (hf : d.failure = some code) :
    startCode rs = code := by
  unfold startCode; dsimp only
  rw [h, if_neg (by decide), hd, hf]

theorem startCode_fits (h : firstBadRead (rs.take directoryWords) = none) (hd : directoryOf (valuesOf rs) = d) (hf : d.failure = none) : startCode rs =
    if (firstBadRead rs).isSome then .ramFault
    else if (startablePage (nth (valuesOf rs) directoryWords)).isNone ∨ (startablePage (nth (valuesOf rs) (directoryWords + 1))).isNone then .pageState
    else .ok := by
  unfold startCode; dsimp only
  rw [h, if_neg (by decide), hd, hf]

/-! The setup of a failed start, and its code (R174) -/

theorem takeSetup_good (h : firstBadRead (rs.take directoryWords) = none) (hd : directoryOf (valuesOf rs) = d) :
    y.takeSetup rs = { y.takeLinkSetup d.links with scanPeriod := d.scanPeriod, refreshInterval := d.refreshInterval } := by
  unfold State.takeSetup
  rw [h, if_neg (by decide), hd]

theorem endChecking_of (hy : s.readOn nextStartRead startWords = y) (hr : y.reads = rs) (hc : startCode rs = code) (hne : code ≠ .ok) :
    s.endChecking = (y.takeSetup rs).failStart code := by
  rw [endChecking_eq]
  unfold State.startJudged State.startReads
  rw [hy, hr, hc, if_neg hne]

/-- What a start that fails after its directory leaves. -/
structure StartFailed (s y t : State) (code : StartResult) : Prop where
  part : t.part = .halted
  result : t.startResult = code
  started : raised y t .started
  latch : t.faultLatch = y.faultLatch
  setup : SetupTaken s t
  links : ∀ l, t.link l = { y.link l with enabled := (t.link l).enabled, divisor := (t.link l).divisor, timeout := (t.link l).timeout }
  frame : t = { y with part := .halted, startResult := code, causes := t.causes, links := t.links, scanPeriod := t.scanPeriod, refreshInterval := t.refreshInterval, reads := [] }

theorem link_takeLinkSetup {setup : Vector LinkSetup 8} : (y.takeLinkSetup setup).link l =
    { y.link l with enabled := setup[l].enabled, divisor := setup[l].divisor, timeout := setup[l].timeout } := by
  simp [State.link, State.takeLinkSetup]

theorem setupTaken_startDirectory (h1 : t.links = (y.takeLinkSetup s.startDirectory.links).links) (h2 : t.scanPeriod = s.startDirectory.scanPeriod)
    (h3 : t.refreshInterval = s.startDirectory.refreshInterval) : SetupTaken s t := by
  have hl : ∀ l, t.link l = (y.takeLinkSetup s.startDirectory.links).link l := fun l => by rw [State.link, h1]; rfl
  have hs : ∀ l : LinkId, s.startDirectory.links[l].enabled = (s.dirWord (12 + 2 * l.val)).getLsbD 15
      ∧ s.startDirectory.links[l].divisor = (s.dirWord (12 + 2 * l.val)).toNat % 256
      ∧ s.startDirectory.links[l].timeout = clampTo 50 2000 (s.dirWord (13 + 2 * l.val)).toNat := fun l => by
    simp [State.startDirectory]
  refine ⟨fun l => ?_, h2, h3⟩
  rw [hl, link_takeLinkSetup]
  exact hs l

theorem startFailed (h : firstBadRead (rs.take directoryWords) = none) (hd : directoryOf (valuesOf rs) = s.startDirectory) :
    StartFailed s y ((y.takeSetup rs).failStart code) code := by
  rw [takeSetup_good h hd]
  have hl := fun l => link_takeLinkSetup (y := y) (l := l) (setup := s.startDirectory.links)
  have hf : y.takeLinkSetup s.startDirectory.links = { y with links := (y.takeLinkSetup s.startDirectory.links).links } := rfl
  have hset := fun t => setupTaken_startDirectory (s := s) (y := y) (t := t)
  generalize y.takeLinkSetup s.startDirectory.links = z at *
  refine ⟨rfl, rfl, ?_, by rw [hf]; rfl, hset _ rfl rfl rfl, fun l => ?_, by rw [hf]; rfl⟩
  · have := raised_raise (s := y) .started
    unfold raised State.causeSet at this ⊢
    rw [hf]; exact this
  · show z.link l = { y.link l with enabled := (z.link l).enabled, divisor := (z.link l).divisor, timeout := (z.link l).timeout }
    rw [hl]

/-- The latch and the causes after a failed start whose k-th word, at address a, is bad. -/
def BadRecorded (s t : State) (k a : Nat) : Prop :=
  (s.reads.length ≤ k → s.faultLatch = none →
    t.faultLatch = some { addr := a, kind := .parity, multiple := false } ∧ t.causeSet .fault = true)
  ∧ (s.reads.length ≤ k → ∀ f, s.faultLatch = some f →
    t.faultLatch = some { f with multiple := true } ∧ t.causeSet .fault = s.causeSet .fault)
  ∧ (k < s.reads.length → t.faultLatch = s.faultLatch ∧ t.causeSet .fault = s.causeSet .fault)
  ∧ t.causeSet .started = true ∧ ∀ c, c ≠ .started → c ≠ .fault → t.causeSet c = s.causeSet c

theorem badRecorded {a : Nat} (hp : s.part = .checking) (h1 : s.reads.length ≤ k → y = { s.recordFault a .parity with reads := rs })
    (h2 : k < s.reads.length → y = { s with reads := rs }) (hl : t.faultLatch = y.faultLatch) (hr : raised y t .started) : BadRecorded s t k a := by
  obtain ⟨hset, hother⟩ := hr
  by_cases hk : s.reads.length ≤ k
  · have hf := (faultReported_recordFault (s := s) (by rw [hp]; decide) a .parity).congr (s' := s) (t' := y) rfl rfl (by rw [h1 hk]) (by rw [h1 hk])
    have hfault : t.causeSet .fault = y.causeSet .fault := hother _ (by decide)
    refine ⟨fun _ h => ?_, fun _ f h => ?_, fun h => absurd hk (Nat.not_le.2 h), hset, fun c hc hc' => (hother c hc).trans (hf.others c hc')⟩
    · rw [hl, hfault]; exact hf.empty h
    · rw [hl, hfault]; exact hf.full f h
  · have hy := h2 (Nat.not_le.1 hk)
    have hc : ∀ c, y.causeSet c = s.causeSet c := fun c => by rw [hy]; rfl
    refine ⟨fun h => absurd h hk, fun h => absurd h hk, fun _ => ⟨by rw [hl, hy], ?_⟩, hset, fun c h _ => ?_⟩
    · rw [hother _ (by decide), hc]
    · rw [hother c h, hc]

/-- A start that fails at a word that is not bad. -/
theorem startFails (hp : s.part = .checking) (hy : s.readOn nextStartRead startWords = { s with reads := rs }) (hr : StartReading s rs) (hl : 27 ≤ rs.length)
    (hg : ∀ k < 27, (s.startWord k).bad = false) (hc : startCode rs = code) (hne : code ≠ .ok) :
    ∃ t, exec .checkingEnd s = .next t ∧ t.part = .halted ∧ t.startResult = code
      ∧ raised s t .started ∧ SetupTaken s t
      ∧ (∀ l, t.link l = { s.link l with enabled := (t.link l).enabled, divisor := (t.link l).divisor, timeout := (t.link l).timeout })
      ∧ t = { s with part := .halted, startResult := code, causes := t.causes, links := t.links,
                     scanPeriod := t.scanPeriod, refreshInterval := t.refreshInterval, reads := [] } := by
  have hexec := exec_checkingEnd s
  rw [if_pos hp, endChecking_of hy rfl hc hne] at hexec
  have hf := startFailed (y := { s with reads := rs }) (code := code) (directory_take hr hg) (hr.directory hl)
  generalize (({ s with reads := rs } : State).takeSetup rs).failStart code = t at *
  exact ⟨t, hexec, hf.part, hf.result, hf.started, hf.setup, hf.links, hf.frame⟩

/-- A start that fails at a bad word after its directory. -/
theorem startFaults (hp : s.part = .checking) (h27 : 27 ≤ k) (hc : StartComes s k) (hg : ∀ j < k, (s.startWord j).bad = false) (hb : (s.startWord k).bad = true) :
    ∃ t, exec .checkingEnd s = .next t ∧ t.part = .halted ∧ t.startResult = .ramFault
      ∧ BadRecorded s t k (s.startAddr k) ∧ SetupTaken s t
      ∧ (∀ l, t.link l = { s.link l with enabled := (t.link l).enabled, divisor := (t.link l).divisor, timeout := (t.link l).timeout })
      ∧ t = { s with part := .halted, startResult := .ramFault, causes := t.causes, faultLatch := t.faultLatch,
                     links := t.links, scanPeriod := t.scanPeriod, refreshInterval := t.refreshInterval, reads := [] } := by
  obtain ⟨rs, hr, hl, hbad, h1, h2⟩ := startReading_bad hc hg hb
  have hg27 : ∀ j < 27, (s.startWord j).bad = false := fun j hj => hg j (by omega)
  have htake := directory_take hr hg27
  have hdir := hr.directory (by omega)
  have hcode : startCode rs = .ramFault := by rw [startCode_fits htake hdir (failure_none (hc.fits h27)), if_pos hbad]
  have hyreads : (s.readOn nextStartRead startWords).reads = rs := by
    by_cases h : s.reads.length ≤ k
    · rw [h1 h]
    · rw [h2 (by omega)]
  have hylinks : (s.readOn nextStartRead startWords).links = s.links := by rw [readOn_frame]
  have hyframe := readOn_frame (next := nextStartRead) startWords s
  have hexec := exec_checkingEnd s
  rw [if_pos hp, endChecking_of rfl hyreads hcode (by decide)] at hexec
  generalize s.readOn nextStartRead startWords = y at *
  have hf := startFailed (y := y) (code := .ramFault) htake hdir
  generalize (y.takeSetup rs).failStart .ramFault = t at *
  refine ⟨t, hexec, hf.part, hf.result, badRecorded hp h1 h2 hf.latch hf.started, hf.setup, fun l => ?_, ?_⟩
  · have hyl : y.link l = s.link l := by rw [State.link, hylinks]; rfl
    have := hf.links l
    rwa [hyl] at this
  · rw [hf.latch]
    conv_lhs => rw [hf.frame, hyframe]

/-- A start whose directory has a bad word. -/
theorem startFaults_directory (hp : s.part = .checking) (h27 : k < 27) (hg : ∀ j < k, (s.startWord j).bad = false) (hb : (s.startWord k).bad = true) :
    ∃ t, exec .checkingEnd s = .next t ∧ t.part = .halted ∧ t.startResult = .ramFault
      ∧ BadRecorded s t k (s.startAddr k)
      ∧ t = { s with part := .halted, startResult := .ramFault, causes := t.causes, faultLatch := t.faultLatch, reads := [] } := by
  obtain ⟨rs, hr, hl, hbad, h1, h2⟩ := startReading_bad ⟨by omega, fun h => absurd h (by omega), fun h => absurd h (by omega), fun h => absurd h (by omega)⟩ hg hb
  have htake := directory_take_bad hr h27 hl hg hb
  have hyreads : (s.readOn nextStartRead startWords).reads = rs := by
    by_cases h : s.reads.length ≤ k
    · rw [h1 h]
    · rw [h2 (by omega)]
  have hyframe := readOn_frame (next := nextStartRead) startWords s
  have hexec := exec_checkingEnd s
  rw [if_pos hp, endChecking_of rfl hyreads (startCode_directoryBad htake) (by decide)] at hexec
  generalize s.readOn nextStartRead startWords = y at *
  have hsetup : y.takeSetup rs = y := if_pos htake
  rw [hsetup] at hexec
  have hlatch : (y.failStart .ramFault).faultLatch = y.faultLatch := rfl
  have hraised : raised y (y.failStart .ramFault) .started := raised_raise (s := { y with startResult := .ramFault, reads := [], part := .halted }) .started
  have hframe : y.failStart .ramFault = { y with part := .halted, startResult := .ramFault, causes := (y.failStart .ramFault).causes, reads := [] } := rfl
  generalize y.failStart .ramFault = t at *
  refine ⟨t, hexec, by rw [hframe], by rw [hframe], badRecorded hp h1 h2 hlatch hraised, ?_⟩
  rw [hlatch]
  conv_lhs => rw [hframe, hyframe]

/-! The word at which a start ends (R173) -/

/-- A start that fails a check of its directory. -/
theorem startFails_directory (hp : s.part = .checking) (hg : ∀ k < 27, (s.startWord k).bad = false) (hf : s.startDirectory.failure = some code) (hne : code ≠ .ok) :
    ∃ t, exec .checkingEnd s = .next t ∧ t.part = .halted ∧ t.startResult = code
      ∧ raised s t .started ∧ SetupTaken s t
      ∧ (∀ l, t.link l = { s.link l with enabled := (t.link l).enabled, divisor := (t.link l).divisor, timeout := (t.link l).timeout })
      ∧ t = { s with part := .halted, startResult := code, causes := t.causes, links := t.links,
                     scanPeriod := t.scanPeriod, refreshInterval := t.refreshInterval, reads := [] } := by
  obtain ⟨rs, hr, hl, hy, -⟩ := startReading_ends (n := 27) (by decide)
    (fun _ => ⟨by decide, fun h => absurd h (by decide), fun h => absurd h (by decide), fun h => absurd h (by decide)⟩) hg fun rs hr hl hb => by
      unfold nextStartRead; dsimp only
      rw [hb, if_neg Bool.false_ne_true, if_neg (show ¬ rs.length < directoryWords from Nat.not_lt.2 hl), hr.directory hl, hf]; rfl
  exact startFails hp hy hr hl hg (startCode_failure (directory_take hr hg) (hr.directory hl) hf) hne

theorem good_succ (h : ∀ k < n, (s.startWord k).bad = false) (hn : (s.startWord n).bad = false) : ∀ k < n + 1, (s.startWord k).bad = false := fun k hk =>
  (Nat.lt_succ_iff_lt_or_eq.1 hk).elim (h k) fun h => h ▸ hn

/-- A start that fails at a page's state word. -/
theorem startFails_page (hp : s.part = .checking) (hfits : s.directoryFits) (hg : ∀ k < 27, (s.startWord k).bad = false) (hreads : ∀ r ∈ s.reads, r.bad = false)
    (hA : (s.pageRead .a).bad = false) (hs : ¬ startable (s.pageRead .a).value ∨ (s.pageRead .b).bad = false ∧ ¬ startable (s.pageRead .b).value) :
    ∃ t, exec .checkingEnd s = .next t ∧ t.part = .halted ∧ t.startResult = .pageState
      ∧ raised s t .started ∧ SetupTaken s t
      ∧ (∀ l, t.link l = { s.link l with enabled := (t.link l).enabled, divisor := (t.link l).divisor, timeout := (t.link l).timeout })
      ∧ t = { s with part := .halted, startResult := .pageState, causes := t.causes, links := t.links,
                     scanPeriod := t.scanPeriod, refreshInterval := t.refreshInterval, reads := [] } := by
  have hnone := failure_none hfits
  obtain ⟨n, h28, h165, hc, hgn, hsn⟩ : ∃ n, 28 ≤ n ∧ n ≤ 165 ∧ StartComes s (n - 1) ∧ (∀ k < n, (s.startWord k).bad = false)
      ∧ (¬ startable (s.pageRead .a).value ∨ 29 ≤ n ∧ ¬ startable (s.pageRead .b).value) := by
    have hg28 := good_succ hg (by rw [startWord_pageA]; exact hA)
    by_cases hsa : startable (s.pageRead .a).value
    · obtain ⟨hB, hsb⟩ := hs.resolve_left (not_not.2 hsa)
      exact ⟨29, by decide, by decide, ⟨by decide, fun _ => hfits, fun _ => hsa, fun h => absurd h (by decide)⟩,
        good_succ hg28 (by rw [startWord_pageB]; exact hB), .inr ⟨Nat.le_refl _, hsb⟩⟩
    · exact ⟨28, by decide, by decide, ⟨by decide, fun _ => hfits, fun h => absurd h (by decide), fun h => absurd h (by decide)⟩, hg28, .inl hsa⟩
  have hwordA : ∀ {rs}, StartReading s rs → 28 ≤ rs.length → nth (valuesOf rs) directoryWords = (s.pageRead .a).value := fun hr hl => by
    rw [hr.nth (k := directoryWords) (show 27 < _ by omega) (by decide), ← startWord_pageA]; rfl
  have hwordB : ∀ {rs}, StartReading s rs → 29 ≤ rs.length → nth (valuesOf rs) (directoryWords + 1) = (s.pageRead .b).value := fun hr hl => by
    rw [hr.nth (k := directoryWords + 1) (show 28 < _ by omega) (by decide), ← startWord_pageB]; rfl
  obtain ⟨rs, hr, hl, hy, hnb⟩ := startReading_ends h165 (fun _ => hc) hgn fun rs hr hl hb => by
    unfold nextStartRead; dsimp only
    rw [hb, if_neg Bool.false_ne_true, if_neg (show ¬ rs.length < directoryWords from fun h : rs.length < 27 => absurd hl (by omega)), hr.directory (by omega), hnone,
      if_neg (by decide), if_neg (show ¬ rs.length = directoryWords from fun h : rs.length = 27 => absurd hl (by omega)), hwordA hr (by omega)]
    by_cases hsa : startable (s.pageRead .a).value
    · obtain ⟨hl', hsb⟩ := hsn.resolve_left (not_not.2 hsa)
      rw [if_neg fun h => startablePage_isNone_iff.1 h hsa, if_neg (show ¬ rs.length = directoryWords + 1 from fun h : rs.length = 28 => absurd hl (by omega)),
        hwordB hr (by omega), if_pos (startablePage_isNone_iff.2 hsb)]
    · rw [if_pos (startablePage_isNone_iff.2 hsa)]
  refine startFails hp hy hr (by omega) hg ?_ (by decide)
  rw [startCode_fits (directory_take hr hg) (hr.directory (by omega)) hnone, hnb hreads, if_neg (by decide), if_pos]
  rw [startablePage_isNone_iff, startablePage_isNone_iff, hwordA hr (by omega)]
  exact hsn.imp_right fun ⟨hn, hsb⟩ => by rw [hwordB hr (by omega)]; exact hsb

/-- Settles O59: the reading goes on to the word at which it ends, and the code follows. -/
theorem failedStarts : Obligations.FailedStarts := by
  unfold Obligations.FailedStarts
  intro s hp fails recorded faults good starts
  have hA : StartComes s 27 ↔ s.directoryFits := ⟨fun h => h.fits (by decide), fun h => ⟨by decide, fun _ => h, fun h => absurd h (by decide), fun h => absurd h (by decide)⟩⟩
  refine ⟨fun hdir => ?_, fun before after a hsplit hbefore hbad => ?_⟩
  · have hg := directory_good_iff.1 hdir
    refine ⟨fun h => ?_, fun h1 h => ?_, fun h1 h2 h => ?_, fun h1 h2 h3 h => ?_, fun h1 h2 h3 h4 h => ?_, fun hf hr ha hs => ?_, fun hf ha => ?_,
      fun hf ha hsa hb => ?_, fun hf ha hb hsa hsb k hk hgk hbk => ?_⟩
    · exact startFails_directory hp hg (failure_seatCount h) (by decide)
    · exact startFails_directory hp hg (failure_listCapacity h1 h) (by decide)
    · exact startFails_directory hp hg (failure_directoryRange h1 h2 h) (by decide)
    · exact startFails_directory hp hg (failure_regionOverlap h1 h2 h3 h) (by decide)
    · exact startFails_directory hp hg (failure_noLink h1 h2 h3 h4 h) (by decide)
    · exact startFails_page hp hf hg hr ha hs
    · exact startFaults hp (by decide) (hA.2 hf) hg (by rw [startWord_pageA]; exact Bool.not_eq_false _ ▸ ha)
    · have hg28 := good_succ hg (by rw [startWord_pageA]; exact ha)
      exact startFaults hp (by decide) ⟨by decide, fun _ => hf, fun _ => hsa, fun h => absurd h (by decide)⟩ hg28 (by rw [startWord_pageB]; exact Bool.not_eq_false _ ▸ hb)
    · have hg29 := good_succ (good_succ hg (by rw [startWord_pageA]; exact ha)) (by rw [startWord_pageB]; exact hb)
      have haddr : s.startAddr (29 + k) = s.dirTableWord k := by
        rw [State.startAddr, if_neg (by omega), if_neg (by omega), if_neg (by omega), Nat.add_sub_cancel_left]
      have := startFaults hp (k := 29 + k) (by omega) ⟨by omega, fun _ => hf, fun _ => hsa, fun _ => hsb⟩ (fun j hj => ?_) (by rw [startWord_table]; exact hbk)
      · rw [haddr] at this; exact this
      · rcases Nat.lt_or_ge j 29 with h | h
        · exact hg29 j h
        · obtain ⟨x, rfl⟩ := Nat.exists_eq_add_of_le h
          rw [startWord_table]; exact hgk x (by omega)
  · have hlen : directoryAddrs.length = 27 := by decide
    have hk : before.length < 27 := by rw [← hlen, hsplit]; simp
    have haddr : ∀ k (h : k < 27), s.startAddr k = directoryAddrs[k] := fun k h => by
      rw [State.startAddr, if_pos h]; exact List.getD_eq_getElem _ _ (by rw [hlen]; exact h)
    have hword : ∀ k (h : k < 27), s.startWord k = s.dirRead directoryAddrs[k] := fun k h => by
      rw [startWord_directory h]; exact congrArg s.dirRead (List.getD_eq_getElem _ _ (by rw [hlen]; exact h))
    have ha : directoryAddrs[before.length] = a := by simp [hsplit]
    have := startFaults_directory hp hk (fun j hj => ?_) (by rw [hword _ hk, ha]; exact hbad)
    · rw [haddr _ hk, ha] at this
      exact this
    · rw [hword j (by omega)]
      refine hbefore _ ?_
      have hj' : directoryAddrs[j]? = before[j]? := by rw [hsplit, List.getElem?_append_left hj]
      rw [List.getElem?_eq_getElem (by omega), List.getElem?_eq_getElem hj] at hj'
      have hm : before[j] ∈ before := List.getElem_mem _
      rw [← Option.some.inj hj'] at hm
      exact hm

end Sys2Proof.Machine
end

section
/-! PROOFS. What each block takes at entry to RUNNING (R42, R58, R120, R142, R162). -/
namespace Sys2Proof.Machine
open Sys2Proof

variable {s t u v f y : State} {i j : Seat} {l m : LinkId} {k n a cap : Nat} {is : List Seat}

/-! Words written in a row -/

/-- The words `ws` stand from address a on, and nothing else of the RAM has changed. -/
theorem putWords_shown (ws : List Word) (hm : s.memoryLaw) (hr : a + ws.length ≤ 16384) :
    (∀ k (h : k < ws.length), (s.putWords a ws).readWord (a + k) = ws[k]) ∧ wordsKept s (s.putWords a ws) (fun x => ∃ k < ws.length, x = a + k)
      ∧ (s.putWords a ws).memoryLaw := by
  refine ⟨fun k h => ?_, fun x hx => ?_, memoryLaw_putWords _ hm⟩
  · rw [readWord_putWords _ hm.1 hr, dif_pos ⟨by omega, by omega⟩]
    simp
  · have ho : x < a ∨ a + ws.length ≤ x := by
      by_contra hn
      exact hx ⟨x - a, by omega, by omega⟩
    exact ⟨readWord_putWords_other _ hm.1 ho, wordBad_putWords_other _ ho⟩

theorem words_congr (h1 : t.ram = s.ram) (h2 : t.badParity = s.badParity) (a : Nat) : t.readWord a = s.readWord a ∧ t.wordBad a = s.wordBad a := by
  unfold State.readWord State.wordBad; rw [h1, h2]; exact ⟨rfl, rfl⟩
theorem memoryLaw_congr (hm : s.memoryLaw) (h1 : t.ram = s.ram) (h2 : t.badParity = s.badParity) : t.memoryLaw := by
  unfold State.memoryLaw at hm ⊢; rw [h1, h2]; exact hm

/-! The links (R42) -/

theorem deferIn_last : ∀ {xs : List Seat}, (∀ j ∈ xs, j < i) → deferIn i xs = xs ++ [i]
  | [], _ => rfl
  | x :: xs, h => by
    rw [deferIn, if_neg (not_lt.2 (le_of_lt (h x List.mem_cons_self))), deferIn_last fun j hj => h j (List.mem_cons_of_mem _ hj)]; rfl

/-- A link on which the seats `q` have been placed, in ascending order, from nothing on. -/
def queued (x : Link) (q : List Seat) : Link := { x with queue := q.take 16, deferred := q.drop 16 }

theorem queued_state {x : Link} {q : List Seat} : (queued x q).state = x.state := rfl
theorem queued_errorsSeen {x : Link} {q : List Seat} : (queued x q).errorsSeen = x.errorsSeen := rfl

theorem placeOn_queued {x : Link} {q : List Seat} (hq : ∀ j ∈ q, j < i) : placeOn (queued x q) i = queued x (q ++ [i]) := by
  have hno : ¬ (((queued x q).queue.contains i || (queued x q).deferred.contains i) = true) := by
    simp only [queued, Bool.or_eq_true, List.contains_iff_mem]
    exact fun h => absurd (hq i (h.elim List.mem_of_mem_take List.mem_of_mem_drop)) (lt_irrefl i)
  unfold placeOn
  rw [if_neg hno]
  by_cases h : q.length < 16
  · rw [if_pos (show (queued x q).queue.length < queueSize by simp [queued, queueSize, h])]
    simp only [queued]
    rw [List.take_of_length_le (by omega), List.take_of_length_le (by rw [List.length_append]; exact h), List.drop_of_length_le (by omega),
      List.drop_of_length_le (by rw [List.length_append]; exact h)]
  · rw [if_neg (show ¬ (queued x q).queue.length < queueSize by simp [queued, queueSize]; omega)]
    simp only [queued]
    rw [deferIn_last fun j hj => hq j (List.mem_of_mem_drop hj), List.take_append_of_le_length (by omega), List.drop_append_of_le_length (by omega)]

/-- The seat is left SENDING on link l. -/
def State.sendsOn (s : State) (l : LinkId) (i : Seat) : Bool :=
  decide ((s.seat i).ctx.active = true ∧ (s.seat i).ctx.link = l ∧ (s.seat i).channel.state = .sending)

/-- Those of the seats `is` that are left SENDING are placed on their links, one after another. -/
def State.placeAll (s : State) (is : List Seat) : State :=
  is.foldl (fun t i => if (t.seat i).ctx.active ∧ (t.seat i).channel.state = .sending then t.place i else t) s

theorem placeSending_eq (s : State) : s.placeSending = s.placeAll allSeats := rfl

/-- What placing them leaves. -/
structure PlacedAll (x : LinkId → Link) (q : LinkId → List Seat) (is : List Seat) (u t : State) : Prop where
  frame : t = { u with links := t.links }
  link : ∀ l, t.link l = queued (x l) (q l ++ is.filter (u.sendsOn l))

theorem placedAll {x : LinkId → Link} : ∀ {is : List Seat} {u : State} {q : LinkId → List Seat}, is.Pairwise (· < ·) → (∀ l, u.link l = queued (x l) (q l)) →
    (∀ l, ∀ j ∈ q l, ∀ i ∈ is, j < i) → PlacedAll x q is u (u.placeAll is) := by
  intro is
  induction is with
  | nil => exact fun _ hl _ => ⟨rfl, fun l => by rw [State.placeAll, List.foldl_nil, hl, List.filter_nil, List.append_nil]⟩
  | cons i is ih =>
    intro u q hs hl hq
    obtain ⟨hi, hs'⟩ := List.pairwise_cons.1 hs
    have hcons : u.placeAll (i :: is) = (if (u.seat i).ctx.active ∧ (u.seat i).channel.state = .sending then u.place i else u).placeAll is := rfl
    rw [hcons]
    by_cases hp : (u.seat i).ctx.active = true ∧ (u.seat i).channel.state = .sending
    · rw [if_pos hp]
      have hsame : ∀ l, (u.place i).sendsOn l = u.sendsOn l := fun l => by funext j; unfold State.sendsOn; rw [seat_place]
      have hplace := fun l => link_place (s := u) (i := i) (l := l)
      have hframe : u.place i = { u with links := (u.place i).links } := rfl
      generalize u.place i = v at *
      have hnext : ∀ l, v.link l = queued (x l) (q l ++ if l = (u.seat i).ctx.link then [i] else []) := fun l => by
        rw [hplace]
        split
        · next he => rw [hl, placeOn_queued fun j hj => hq l j hj i List.mem_cons_self]
        · rw [hl, List.append_nil]
      have hbelow : ∀ l, ∀ j ∈ q l ++ (if l = (u.seat i).ctx.link then [i] else []), ∀ i' ∈ is, j < i' := fun l j hj i' hi' => by
        rcases List.mem_append.1 hj with h | h
        · exact hq l j h i' (List.mem_cons_of_mem _ hi')
        · split at h
          · rw [List.mem_singleton.1 h]; exact hi i' hi'
          · cases h
      obtain ⟨h2, h3⟩ := ih hs' hnext hbelow
      generalize v.placeAll is = t at *
      refine ⟨?_, fun l => ?_⟩
      · conv_lhs => rw [h2, hframe]
      · rw [h3, hsame, List.append_assoc, List.filter_cons]
        by_cases he : l = (u.seat i).ctx.link
        · rw [if_pos he, if_pos (show u.sendsOn l i = true from decide_eq_true ⟨hp.1, he.symm, hp.2⟩)]; rfl
        · rw [if_neg he, if_neg (show ¬ u.sendsOn l i = true from fun h => he (of_decide_eq_true h).2.1.symm)]; rfl
    · rw [if_neg hp]
      obtain ⟨h2, h3⟩ := ih hs' hl fun l j hj i' hi' => hq l j hj i' (List.mem_cons_of_mem _ hi')
      refine ⟨h2, fun l => ?_⟩
      rw [h3, List.filter_cons, if_neg (show ¬ u.sendsOn l i = true from fun h => hp ⟨(of_decide_eq_true h).1, (of_decide_eq_true h).2.2⟩)]

/-- The counters' words of these links written from `c` (R30, R42). -/
structure CountersShown (c : LinkId → Vector Nat 11) (ls : List LinkId) (u t : State) : Prop where
  words : ∀ l ∈ ls, ∀ k : Fin 11, t.readWord (64 + 11 * l.val + k.val) = word (c l)[k]
  kept : wordsKept u t fun a => ∃ l ∈ ls, ∃ k < 11, a = 64 + 11 * l.val + k
  memory : t.memoryLaw
  frame : t = { u with ram := t.ram, badParity := t.badParity }

theorem countersShown {c : LinkId → Vector Nat 11} : ∀ {ls : List LinkId} {u : State}, ls.Nodup → u.memoryLaw →
    CountersShown c ls u (ls.foldl (fun t l => t.putWords (hdrCounter l 0) ((c l).toList.map word)) u) := by
  intro ls
  induction ls with
  | nil => exact fun _ hm => ⟨fun l h => (nomatch h), fun _ _ => ⟨rfl, rfl⟩, hm, rfl⟩
  | cons l ls ih =>
    intro u hn hm
    obtain ⟨hl, hn'⟩ := List.nodup_cons.1 hn
    have hlen : ((c l).toList.map word).length = 11 := by simp
    obtain ⟨h1, h2, h3⟩ := putWords_shown (a := hdrCounter l 0) ((c l).toList.map word) hm (by rw [hlen, hdrCounter]; omega)
    have hf := putWords_frame ((c l).toList.map word) u (hdrCounter l 0)
    have hword : ∀ k : Fin 11, (u.putWords (hdrCounter l 0) ((c l).toList.map word)).readWord (64 + 11 * l.val + k.val) = word (c l)[k] := fun k => by
      have := h1 k.val (by rw [hlen]; exact k.isLt)
      rw [hdrCounter, Nat.add_zero] at this
      rw [hdrCounter, Nat.add_zero, this]; simp
    rw [List.foldl_cons]
    rw [hlen] at h2
    generalize u.putWords (hdrCounter l 0) ((c l).toList.map word) = v at *
    have hrest := ih hn' h3
    generalize ls.foldl _ v = t at *
    refine ⟨fun l' hl' k => ?_, ?_, hrest.memory, ?_⟩
    · rcases List.mem_cons.1 hl' with rfl | h
      · rw [(hrest.kept _ ?_).1, hword]
        rintro ⟨l'', h'', k', hk', he⟩
        have : l''.val = l'.val := by omega
        exact hl (Fin.ext this ▸ h'')
      · exact hrest.words l' h k
    · refine (h2.trans hrest.kept).mono fun a ha => ?_
      rcases ha with ⟨k, hk, he⟩ | ⟨l', h', k, hk, he⟩
      · exact ⟨l, List.mem_cons_self, k, hk, by rw [he, hdrCounter]; omega⟩
      · exact ⟨l', List.mem_cons_of_mem _ h', k, hk, he⟩
    · conv_lhs => rw [hrest.frame, hf]

/-- The links at entry to RUNNING (R42). -/
structure LinksStarted (s t : State) : Prop where
  link : ∀ l, t.link l = queued (startedLink (s.link l)) (allSeats.filter (s.sendsOn l))
  words : ∀ (l : LinkId) (k : Fin 11), t.readWord (64 + 11 * l.val + k.val) = word (s.link l).counters[k]
  summary : SummaryShown t
  kept : wordsKept s t fun a => a = 36 ∨ 64 ≤ a ∧ a < 152
  memory : t.memoryLaw
  frame : t = { s with links := t.links, ram := t.ram, badParity := t.badParity }

theorem queued_nil {x : Link} (h1 : x.queue = []) (h2 : x.deferred = []) : queued x [] = x := by
  obtain ⟨⟩ := x
  cases h1; cases h2; rfl

/-- The seats ascend. -/
theorem pairwise_allSeats : allSeats.Pairwise (· < ·) := List.pairwise_lt_finRange 512

theorem linksStarted (hm : s.memoryLaw) : LinksStarted s s.startLinks := by
  unfold State.startLinks State.writeCounters
  obtain ⟨a, ha⟩ : ∃ a : State, a = { s with links := s.links.map startedLink } := ⟨_, rfl⟩
  rw [← ha]
  have hlink : ∀ l, a.link l = startedLink (s.link l) := fun l => by rw [ha]; exact State.link_map startedLink l
  have hma : a.memoryLaw := by rw [ha]; exact hm
  have hw := countersShown (c := fun l => (a.link l).counters) (ls := allLinks) (u := a) (List.nodup_finRange 8) hma
  generalize allLinks.foldl _ a = b at *
  obtain ⟨hsum, hkept⟩ := summary_written hw.memory
  have hmem : b.writeLinkSummary.memoryLaw := memoryLaw_putWord hw.memory
  have hfr : b.writeLinkSummary = { b with ram := b.writeLinkSummary.ram, badParity := b.writeLinkSummary.badParity } := rfl
  generalize b.writeLinkSummary = d at *
  have hdl : ∀ l, d.link l = queued (startedLink (s.link l)) [] := fun l => by
    rw [queued_nil rfl rfl, ← hlink, hfr, hw.frame]; rfl
  have hds : ∀ l, d.sendsOn l = s.sendsOn l := fun l => by
    funext j; unfold State.sendsOn
    have : d.seat j = s.seat j := by rw [hfr, hw.frame, ha]; rfl
    rw [this]
  obtain ⟨h2, h3⟩ := placedAll (x := fun l => startedLink (s.link l)) (q := fun _ => []) pairwise_allSeats hdl fun l j h => (nomatch h)
  rw [placeSending_eq]
  generalize d.placeAll allSeats = t at *
  have htl : ∀ l, t.link l = queued (startedLink (s.link l)) (allSeats.filter (s.sendsOn l)) := fun l => by rw [h3, hds, List.nil_append]
  have hram : t.ram = d.ram := by rw [h2]
  have hbad : t.badParity = d.badParity := by rw [h2]
  have hread := words_congr hram hbad
  refine ⟨htl, fun l k => ?_, fun l => ?_, fun x hx => ?_, memoryLaw_congr hmem hram hbad, ?_⟩
  · rw [(hread _).1, (hkept _ (by omega)).1, hw.words l (List.mem_finRange l) k, hlink]; rfl
  · have := hsum l
    rw [hdl, queued_state, queued_errorsSeen] at this
    rw [(hread _).1, htl, queued_state, queued_errorsSeen]
    exact this
  · rw [(hread x).1, (hread x).2, (hkept x fun h => hx (.inl h)).1, (hkept x fun h => hx (.inl h)).2]
    have := hw.kept x fun ⟨l, _, k, hk, he⟩ => hx (.inr (by have := l.isLt; omega))
    rw [ha] at this
    exact this
  · rw [hram, hbad]
    conv_lhs => rw [h2, hfr, hw.frame, ha]

/-! The evaluation engine (R58) -/

/-- The words 32 to 35 at entry to RUNNING, and the timer. -/
structure EvaluationStarted (s t : State) : Prop where
  low : t.readWord 32 = lowHalf s.clock
  high : t.readWord 33 = highHalf s.clock
  passes : t.readWord 34 = s.passCount
  late : t.readWord 35 = word s.lateCount
  kept : wordsKept s t fun a => 32 ≤ a ∧ a ≤ 35
  memory : t.memoryLaw
  frame : t = { s with ram := t.ram, badParity := t.badParity, countdown := 1, pass := none, refreshPass := false, scanTimer := some s.clock }

/-- The words that the evaluation engine writes at entry to RUNNING. -/
def evaluationWords (s : State) : Nat → Option Word :=
  Function.update (Function.update (Function.update (Function.update (fun _ => none) 32 (some (lowHalf s.clock))) 33 (some (highHalf s.clock)))
    34 (some s.passCount)) 35 (some (word s.lateCount))

theorem evaluationStarted (hm : s.memoryLaw) : EvaluationStarted s s.startEvaluation := by
  have hw : Wrote s s.startEvaluation (evaluationWords s) :=
    (((((Wrote.refl hm).put (a := 32) (by decide) (lowHalf s.clock)).put (a := 33) (by decide) (highHalf s.clock)).put (a := 34) (by decide) s.passCount).put
      (a := 35) (by decide) (word s.lateCount)).congr rfl rfl
  have hf : s.startEvaluation = { s with
      ram := s.startEvaluation.ram, badParity := s.startEvaluation.badParity, countdown := 1, pass := none, refreshPass := false, scanTimer := some s.clock } := rfl
  generalize s.startEvaluation = t at *
  refine ⟨hw.written (by simp [evaluationWords]), hw.written (by simp [evaluationWords]), hw.written (by simp [evaluationWords]),
    hw.written (by simp [evaluationWords]), hw.kept fun a ha => ?_, hw.memory, hf⟩
  unfold evaluationWords
  rw [Function.update_of_ne (by omega), Function.update_of_ne (by omega), Function.update_of_ne (by omega), Function.update_of_ne (by omega)]

/-! The pages (R142) -/

/-- The pages at entry to RUNNING. -/
structure OrdersStarted (s t : State) (x y : PageState) : Prop where
  pageA : t.pageA = x
  pageB : t.pageB = y
  wordA : t.readWord s.layout.pageArea = word x.code
  wordB : t.readWord (s.layout.pageArea + 196) = word y.code
  kept : wordsKept s t fun a => a = s.layout.pageArea ∨ a = s.layout.pageArea + 196
  memory : t.memoryLaw
  frame : t = { s with
    ram := t.ram, badParity := t.badParity, pageA := x, pageB := y
    posting := (if x = .posted then [.a] else []) ++ (if y = .posted then [.b] else []), worked := none, suspended := none, lift := none, reads := [] }

theorem writePageState_frames (x : PageState) :
    s.writePageState .a x = { s with pageA := x, ram := (s.writePageState .a x).ram, badParity := (s.writePageState .a x).badParity }
      ∧ s.writePageState .b x = { s with pageB := x, ram := (s.writePageState .b x).ram, badParity := (s.writePageState .b x).badParity } := ⟨rfl, rfl⟩

theorem startOrders_eq (x y : PageState) : s.startOrders x y = { (s.writePageState .a x).writePageState .b y with
    posting := (if x = .posted then [.a] else []) ++ (if y = .posted then [.b] else []), worked := none, suspended := none, lift := none, reads := [] } := rfl

theorem ordersStarted {x y : PageState} (hm : s.memoryLaw) (ha : s.layout.pageArea + 196 < 16384) : OrdersStarted s (s.startOrders x y) x y := by
  have hwa : Wrote s (s.writePageState .a x) _ :=
    ((Wrote.refl hm).congr (u := s.setPageState .a x) rfl rfl).put (a := s.layout.pageArea) (by omega) (word x.code)
  obtain ⟨t, ht⟩ : ∃ t, t = s.startOrders x y := ⟨_, rfl⟩
  rw [← ht]
  rw [startOrders_eq] at ht
  obtain ⟨hfa, -⟩ := writePageState_frames (s := s) x
  generalize s.writePageState .a x = g at *
  have hlay : g.layout = s.layout := by rw [hfa]
  have hw : Wrote s (g.writePageState .b y) _ :=
    (hwa.congr (u := g.setPageState .b y) rfl rfl).put (a := g.layout.pageArea + 196) (by rw [hlay]; exact ha) (word y.code)
  rw [hlay] at hw
  obtain ⟨-, hfb⟩ := writePageState_frames (s := g) y
  generalize g.writePageState .b y = d at *
  have hram : t.ram = d.ram := by rw [ht]
  have hbad : t.badParity = d.badParity := by rw [ht]
  have hw := hw.congr hram hbad
  have hf : t = { s with
      ram := t.ram, badParity := t.badParity, pageA := x, pageB := y
      posting := (if x = .posted then [.a] else []) ++ (if y = .posted then [.b] else []), worked := none, suspended := none, lift := none, reads := [] } := by
    rw [hram, hbad]
    conv_lhs => rw [ht, hfb, hfa]
  refine ⟨by rw [hf], by rw [hf], hw.written ?_, hw.written (Function.update_self _ _ _), hw.kept fun a ha => ?_, hw.memory, hf⟩
  · rw [Function.update_of_ne (by omega), Function.update_self]
  · rw [Function.update_of_ne fun h => ha (.inr h), Function.update_of_ne fun h => ha (.inl h)]

/-- A page state that a start accepts, and its word. -/
theorem startablePage_spec {w : Word} (h : startable w) : word ((startablePage w).getD .free).code = w ∧ pageNumber ((startablePage w).getD .free) = w.toNat
    ∧ ((startablePage w).getD .free = .posted ↔ w = 1) := by
  have h0 : startablePage 0 = some .free := rfl
  have h1 : startablePage 1 = some .posted := rfl
  have h4 : startablePage 4 = some .done := rfl
  rcases h with rfl | rfl | rfl
  · rw [h0]; exact ⟨rfl, rfl, iff_of_false (fun h => (nomatch h)) (by decide)⟩
  · rw [h1]; exact ⟨rfl, rfl, iff_of_true rfl rfl⟩
  · rw [h4]; exact ⟨rfl, rfl, iff_of_false (fun h => (nomatch h)) (by decide)⟩

/-! The change list (R162) -/

/-- What settling the list leaves. -/
structure ListSettled (s t : State) (cap : Nat) (served : List Seat) : Prop where
  capacity : t.capacity = cap
  changeList : t.changeList = s.inRange.take cap ++ served
  writePos : t.writePos = t.changeList.length % cap
  taken : t.takenCount = s.takenCount
  entries : ∀ k (h : k < t.changeList.length), t.readWord (s.layout.changeList + k) = seatWord t.changeList[k]
  owedWord : t.readWord 37 = word t.owedCount
  fillWord : t.readWord 38 = t.fillCount
  takenWord : t.readWord 39 = t.takenCount
  seat : ∀ i, t.seat i = { s.seat i with board := { (s.seat i).board with
    listed := (t.seat i).board.listed, relistDue := (s.settledBoard cap i).relistDue, owed := (s.settledBoard cap i).owed && !decide (i ∈ served) } }
  notified : t.changeList ≠ [] → t.causeSet .changes = true
  quiet : t.changeList = [] → t.causeSet .changes = s.causeSet .changes
  causes : ∀ c, c ≠ .changes → t.causeSet c = s.causeSet c
  kept : wordsKept s t fun a => 37 ≤ a ∧ a ≤ 39 ∨ ∃ k < t.changeList.length, a = s.layout.changeList + k
  memory : t.memoryLaw
  frame : t = { s with
    causes := t.causes, ram := t.ram, badParity := t.badParity, seats := t.seats, changeList := t.changeList, writePos := t.writePos
    fillCount := t.fillCount, owedCount := t.owedCount, capacity := cap }

/-- The entries that stay, rewritten from position 0 of the list's region. -/
theorem settled_words (hm : s.memoryLaw) (hfit : s.layout.changeList + cap ≤ 16384) :
    (∀ k (h : k < (s.inRange.take cap).length), (s.settled cap).readWord (s.layout.changeList + k) = seatWord (s.inRange.take cap)[k])
      ∧ wordsKept s (s.settled cap) (fun a => ∃ k < (s.inRange.take cap).length, a = s.layout.changeList + k) ∧ (s.settled cap).memoryLaw := by
  have hlen : ((s.inRange.take cap).map seatWord).length = (s.inRange.take cap).length := List.length_map ..
  have hle : (s.inRange.take cap).length ≤ cap := List.length_take_le ..
  have hd : ((s.dropOutOfRange s.layout.seatCount).dropOverflow cap).memoryLaw := memoryLaw_congr hm rfl rfl
  have hdw := words_congr (s := s) (t := (s.dropOutOfRange s.layout.seatCount).dropOverflow cap) rfl rfl
  obtain ⟨h1, h2, h3⟩ := putWords_shown (a := s.layout.changeList) ((s.inRange.take cap).map seatWord) hd (by rw [hlen]; omega)
  have hram : (s.settled cap).ram = (((s.dropOutOfRange s.layout.seatCount).dropOverflow cap).putWords s.layout.changeList ((s.inRange.take cap).map seatWord)).ram := rfl
  have hbad : (s.settled cap).badParity = (((s.dropOutOfRange s.layout.seatCount).dropOverflow cap).putWords s.layout.changeList ((s.inRange.take cap).map seatWord)).badParity := rfl
  generalize (s.dropOutOfRange s.layout.seatCount).dropOverflow cap = d at *
  have hw := words_congr hram hbad
  refine ⟨fun k hk => ?_, fun a ha => ?_, memoryLaw_congr h3 hram hbad⟩
  · rw [(hw _).1, h1 k (by rw [hlen]; exact hk), List.getElem_map]
  · rw [(hw a).1, (hw a).2, (h2 a (by rw [hlen]; exact ha)).1, (h2 a (by rw [hlen]; exact ha)).2]
    exact hdw a

theorem notifyChanges_causes : (s.changeList ≠ [] → s.notifyChanges.causeSet .changes = true) ∧ (s.changeList = [] → s.notifyChanges = s)
    ∧ (∀ c, c ≠ .changes → s.notifyChanges.causeSet c = s.causeSet c) ∧ s.notifyChanges = { s with causes := s.notifyChanges.causes } := by
  unfold State.notifyChanges
  by_cases h : s.changeList = []
  · rw [if_pos (by rw [h]; rfl)]
    exact ⟨fun h' => absurd h h', fun _ => rfl, fun _ _ => rfl, rfl⟩
  · rw [if_neg (by simpa using h)]
    obtain ⟨h1, h2⟩ := raised_raise (s := s) .changes
    exact ⟨fun _ => h1, fun h' => absurd h' h, h2, rfl⟩

theorem settled_kept : s.settled cap = { s with
    ram := (s.settled cap).ram, badParity := (s.settled cap).badParity, seats := (s.settled cap).seats, changeList := (s.settled cap).changeList
    writePos := (s.settled cap).writePos, fillCount := (s.settled cap).fillCount, owedCount := (s.settled cap).owedCount, capacity := cap } := by
  have hg := settled_frame (s := s) (cap := cap)
  have hd : (s.dropOutOfRange s.layout.seatCount).dropOverflow cap = { s with
      seats := ((s.dropOutOfRange s.layout.seatCount).dropOverflow cap).seats
      changeList := ((s.dropOutOfRange s.layout.seatCount).dropOverflow cap).changeList
      owedCount := ((s.dropOutOfRange s.layout.seatCount).dropOverflow cap).owedCount } := rfl
  generalize (s.dropOutOfRange s.layout.seatCount).dropOverflow cap = d at *
  generalize s.settled cap = g at *
  have h1 : g.seats = d.seats := by rw [hg]
  have h2 : g.changeList = d.changeList := by rw [hg]
  have h3 : g.owedCount = d.owedCount := by rw [hg]
  rw [h1, h2, h3]
  conv_lhs => rw [hg, hd]
  conv_rhs => rw [hg]

/-- The header's three counts of the list, written and notified. -/
structure CountsWritten (u t : State) : Prop where
  words : Wrote u t (Function.update (Function.update (Function.update (fun _ => none) 38 (some u.fillCount)) 37 (some (word u.owedCount))) 39 (some u.takenCount))
  notified : u.changeList ≠ [] → t.causeSet .changes = true
  quiet : u.changeList = [] → t.causes = u.causes
  causes : ∀ c, c ≠ .changes → t.causeSet c = u.causeSet c
  frame : t = { u with causes := t.causes, ram := t.ram, badParity := t.badParity }

theorem countsWritten (hm : u.memoryLaw) : CountsWritten u ((u.writeFill.writeOwed.writeTaken).notifyChanges) := by
  have hw : Wrote u (u.writeFill.writeOwed.writeTaken) _ :=
    (((Wrote.refl hm).put (a := 38) (by decide) u.fillCount).put (a := 37) (by decide) (word u.owedCount)).put (a := 39) (by decide) u.takenCount
  have hf : u.writeFill.writeOwed.writeTaken = { u with ram := u.writeFill.writeOwed.writeTaken.ram, badParity := u.writeFill.writeOwed.writeTaken.badParity } := rfl
  generalize u.writeFill.writeOwed.writeTaken = v at *
  have hlist : v.changeList = u.changeList := by rw [hf]
  have hcauses : v.causes = u.causes := by rw [hf]
  obtain ⟨h1, h2, h3, h4⟩ := notifyChanges_causes (s := v)
  rw [hlist] at h1 h2
  generalize v.notifyChanges = t at *
  have hram : t.ram = v.ram := by rw [h4]
  have hbad : t.badParity = v.badParity := by rw [h4]
  refine ⟨hw.congr hram hbad, h1, fun h => by rw [h2 h, hcauses], fun c hc => (h3 c hc).trans (by rw [State.causeSet, hcauses]; rfl), ?_⟩
  rw [hram, hbad]
  conv_lhs => rw [h4, hf]

theorem listSettled (hs : s.ListSound 0) (hm : s.memoryLaw) (hcap : 16 ≤ cap ∧ cap ≤ 512) (h256 : 256 ≤ s.layout.changeList) (hfit : s.layout.changeList + cap ≤ 16384) :
    ListSettled s (s.settleChangeList cap) cap (s.settled cap).owedServed := by
  obtain ⟨hwords, hkept, hmem⟩ := settled_words hm hfit
  have hlist := settled_changeList (s := s) (cap := cap)
  have hpos := settled_writePos (s := s) (cap := cap)
  have htaken := settled_takenCount (s := s) (cap := cap)
  have hseat := fun i => seat_settled (s := s) (cap := cap) (j := i)
  have hsound := hs.settled hcap
  have hgframe := settled_kept (s := s) (cap := cap)
  have hle : (s.inRange.take cap).length ≤ cap := List.length_take_le ..
  rw [settleChangeList_eq]
  generalize s.settled cap = g at *
  have hgcap : g.capacity = cap := by rw [hgframe]
  have hglay : g.layout = s.layout := by rw [hgframe]
  have hgcauses : g.causes = s.causes := by rw [hgframe]
  have hplaced : g.ListPlaced := ⟨by rw [hglay]; exact h256, by rw [hglay, hgcap]; exact hfit, hsound.pos⟩
  have hserved := appendOwed_served 512 hplaced hmem hsound.short (by
    have h := List.length_filter_le (fun i => (g.seat i).board.owed) allSeats
    rwa [show allSeats.length = 512 from List.length_finRange] at h)
  have hroom : g.owedServed.length ≤ cap - (s.inRange.take cap).length := by
    rw [State.owedServed, hgcap, hlist]; exact List.length_take_le ..
  generalize g.owedServed = served at *
  generalize State.appendOwed 512 g = u at *
  have hspot : ∀ k < served.length, g.spot k = s.layout.changeList + ((s.inRange.take cap).length + k) := fun k hk => by
    rw [State.spot, hglay, hgcap, hpos, Nat.mod_add_mod, Nat.mod_eq_of_lt (by omega)]
  have hulist : u.changeList = s.inRange.take cap ++ served := by rw [hserved.changeList, hlist]
  have hlen : u.changeList.length = (s.inRange.take cap).length + served.length := by rw [hulist, List.length_append]
  have hc := countsWritten hserved.appends.memory
  generalize (u.writeFill.writeOwed.writeTaken).notifyChanges = t at *
  have htlist : t.changeList = u.changeList := by rw [hc.frame]
  have hother : ∀ a, ¬ (37 ≤ a ∧ a ≤ 39) → t.readWord a = u.readWord a ∧ t.wordBad a = u.wordBad a := fun a ha => hc.words.other (by
    rw [Function.update_of_ne (by omega), Function.update_of_ne (by omega), Function.update_of_ne (by omega)])
  have hcap' : u.capacity = cap := by rw [hserved.appends.capacity, hgcap]
  have hkept' : wordsKept s t fun a => 37 ≤ a ∧ a ≤ 39 ∨ ∃ k < t.changeList.length, a = s.layout.changeList + k := fun a ha => by
    obtain ⟨hcount, hspots⟩ := not_or.1 ha
    rw [htlist, hlen] at hspots
    obtain ⟨e1, e2⟩ := hother a hcount
    obtain ⟨e3, e4⟩ := hserved.appends.kept a (by
      rintro (hh | hh | ⟨k, hk, hh⟩)
      · exact hcount (by omega)
      · exact hcount (by omega)
      · exact hspots ⟨(s.inRange.take cap).length + k, by omega, by rw [hh, hspot k hk]⟩)
    obtain ⟨e5, e6⟩ := hkept a fun ⟨k, hk, hh⟩ => hspots ⟨k, by omega, hh⟩
    exact ⟨e1.trans (e3.trans e5), e2.trans (e4.trans e6)⟩
  have hentries : ∀ k (h : k < u.changeList.length), t.readWord (s.layout.changeList + k) = seatWord u.changeList[k] := fun k h => by
    rw [hlen] at h
    rw [(hother _ (by omega)).1]
    by_cases hk : k < (s.inRange.take cap).length
    · have hget : u.changeList[k] = (s.inRange.take cap)[k] := by simp only [hulist]; exact List.getElem_append_left hk
      rw [hget, ← hwords k hk, (hserved.appends.kept _ ?_).1]
      rintro (hh | hh | ⟨k', hk', hh⟩)
      · omega
      · omega
      · rw [hspot k' hk'] at hh; omega
    · have hget : u.changeList[k] = served[k - (s.inRange.take cap).length] := by simp only [hulist]; exact List.getElem_append_right (by omega)
      rw [hget, ← hserved.appends.spots _ (by omega), hspot _ (by omega), Nat.add_sub_cancel' (by omega)]
  refine ⟨by rw [hc.frame, ← hcap'], by rw [htlist, hulist], ?_, by rw [hc.frame, ← htaken, ← hserved.counts.1], ?_, ?_, ?_, ?_, fun i => ?_, fun h => hc.notified (by rw [← htlist]; exact h),
    fun h => ?_, fun c hcc => ?_, hkept', hc.words.memory, ?_⟩
  · rw [htlist, hlen, show t.writePos = u.writePos by rw [hc.frame], hserved.appends.pos, hpos, hgcap, Nat.mod_add_mod]
  · simp only [htlist]; exact hentries
  · rw [show t.owedCount = u.owedCount by rw [hc.frame]]; exact hc.words.written (by rw [Function.update_of_ne (by decide), Function.update_self])
  · rw [show t.fillCount = u.fillCount by rw [hc.frame]]; exact hc.words.written (by rw [Function.update_of_ne (by decide), Function.update_of_ne (by decide), Function.update_self])
  · rw [show t.takenCount = u.takenCount by rw [hc.frame]]; exact hc.words.written (Function.update_self _ _ _)
  · have e := hserved.seat i
    rw [hseat] at e
    have ht : t.seat i = u.seat i := by rw [hc.frame]; rfl
    rw [ht]; exact e
  · have hnil : u.changeList = [] := htlist.symm.trans h
    rw [hulist] at hnil
    have hq := hserved.appends.quiet (List.append_eq_nil_iff.1 hnil).2
    rw [State.causeSet, hc.quiet (by rw [hulist]; exact hnil), hq, hgcauses]; rfl
  · rw [hc.causes c hcc, hserved.appends.causes c hcc, State.causeSet, hgcauses]; rfl
  · have hu := hserved.frame
    unfold ListFrame at hu
    have hlatch := hserved.counts.2
    have hut := hserved.counts.1
    have e1 : t.seats = u.seats := by rw [hc.frame]
    have e2 : t.writePos = u.writePos := by rw [hc.frame]
    have e3 : t.fillCount = u.fillCount := by rw [hc.frame]
    have e4 : t.owedCount = u.owedCount := by rw [hc.frame]
    rw [hut, hlatch] at hu
    rw [e1, e2, e3, e4, htlist]
    conv_lhs => rw [hc.frame, hu, hgframe]

/-- The owed seats that the settled list serves. -/
theorem settled_owedServed : (s.settled cap).owedServed = (allSeats.filter fun i => (s.seat i).board.owed && decide (i.val < s.layout.seatCount)).take
    (cap - (s.inRange.take cap).length) := by
  have hcap : (s.settled cap).capacity = cap := rfl
  rw [State.owedServed, settled_changeList, hcap]
  by_cases h : s.overflow cap = []
  · refine congrArg (List.take _) (List.filter_congr fun i _ => ?_)
    rw [seat_settled]
    unfold State.settledBoard
    rw [h]; simp
  · have hlt : cap < s.inRange.length := by
      by_contra hn
      exact h (List.drop_eq_nil_of_le (Nat.not_lt.1 hn))
    have hroom : cap - (s.inRange.take cap).length = 0 := by rw [List.length_take]; omega
    rw [hroom, List.take_zero, List.take_zero]

end Sys2Proof.Machine
end

section
/-! PROOFS. The seats that a start retires, and the state that enters RUNNING (R18, R119, R174). -/
namespace Sys2Proof.Machine
open Sys2Proof

variable {s t u v f y : State} {i j : Seat} {l m : LinkId} {k n a cap : Nat} {is : List Seat} {rs : List ReadWord}

/-! The seats retired (R18) -/

/-- A link but for what an entry to RUNNING sets anew. -/
theorem startedLink_withdrawn {x : Link} : startedLink (cancelOn (withdrawFrom x i) i) = startedLink x := by
  have h1 : ∀ z : Link, startedLink (refill z) = startedLink z := fun z => by unfold refill; split <;> rfl
  have h2 : ∀ z : Link, startedLink (cancelOn z i) = startedLink z := fun z => by
    unfold cancelOn
    split
    · split <;> rfl
    · rfl
  rw [h2]
  unfold withdrawFrom
  split
  · rw [h1]; rfl
  · rfl

/-- The seats `is` retired, one after another. -/
def State.retireAll (s : State) (is : List Seat) : State := is.foldl State.retire s

theorem retireAll_cons : s.retireAll (i :: is) = (s.retire i).retireAll is := rfl

/-- The fields that retirements may change. -/
theorem eq_of_erase_retire (h : erase (fun f => decide (f ∈ [Fld.roster, .seats, .links, .carriers])) t = erase (fun f => decide (f ∈ [Fld.roster, .seats, .links, .carriers])) s) :
    t = { s with roster := t.roster, seats := t.seats, links := t.links, carriers := t.carriers } := by
  obtain ⟨⟩ := s
  obtain ⟨⟩ := t
  simpa [erase] using h

/-- What retiring these seats leaves. -/
structure RetiredAll (s t : State) (is : List Seat) : Prop where
  seat : ∀ j, t.seat j = if j ∈ is then retiredSeat (s.seat j) s.clock (s.seatGeneration j) else s.seat j
  link : ∀ l, startedLink (t.link l) = startedLink (s.link l)
  carrier : ∀ l c, t.carrier l c = if ∃ i ∈ is, (s.seat i).ctx.active = true ∧ (s.seat i).ctx.link = l ∧ (s.seat i).ctx.channel = c then none else s.carrier l c
  roster : t.roster = s.roster.diff is
  frame : t = { s with roster := t.roster, seats := t.seats, links := t.links, carriers := t.carriers }

theorem retiredAll : ∀ {is : List Seat} {s : State}, is.Nodup → RetiredAll s (s.retireAll is) is := by
  intro is
  induction is with
  | nil => exact fun _ => ⟨fun _ => (if_neg (List.not_mem_nil)).symm, fun _ => rfl, fun _ _ => (if_neg fun ⟨_, h, _⟩ => (nomatch h)).symm, rfl, rfl⟩
  | cons i is ih =>
    intro s hn
    obtain ⟨hi, hn'⟩ := List.nodup_cons.1 hn
    have hseats := fun j => seat_foldl_retire (j := j) (i :: is) hn s
    rw [show (i :: is).foldl State.retire s = s.retireAll (i :: is) from rfl, retireAll_cons] at hseats
    have hseat := fun j => seat_retire (s := s) (i := i) (j := j)
    have hlink := fun l => link_retire (s := s) (i := i) (l := l)
    have hcarrier := fun l c => carrier_retire (s := s) (i := i) (l := l) c
    have hroster := retire_roster (s := s) (i := i)
    have hframe := eq_of_erase_retire (s := s) (t := s.retire i) (erase_retire (by simp [Opens]))
    rw [retireAll_cons]
    generalize s.retire i = v at *
    obtain ⟨-, h2, h3, h4, h5⟩ := ih (s := v) hn'
    generalize v.retireAll is = t at *
    have hother : ∀ j ∈ is, v.seat j = s.seat j := fun j hj => by rw [hseat, if_neg fun e : j = i => hi (e ▸ hj)]
    refine ⟨hseats, fun l => ?_, fun l c => ?_, ?_, ?_⟩
    · rw [h2, hlink]
      split
      · exact startedLink_withdrawn
      · rfl
    · rw [h3, hcarrier]
      have hex : (∃ j ∈ is, (v.seat j).ctx.active = true ∧ (v.seat j).ctx.link = l ∧ (v.seat j).ctx.channel = c) ↔
          ∃ j ∈ is, (s.seat j).ctx.active = true ∧ (s.seat j).ctx.link = l ∧ (s.seat j).ctx.channel = c :=
        exists_congr fun j => and_congr_right fun hj => by rw [hother j hj]
      by_cases hA : ∃ j ∈ is, (s.seat j).ctx.active = true ∧ (s.seat j).ctx.link = l ∧ (s.seat j).ctx.channel = c
      · obtain ⟨j, hj, hA'⟩ := hA
        rw [if_pos (hex.2 ⟨j, hj, hA'⟩), if_pos ⟨j, List.mem_cons_of_mem _ hj, hA'⟩]
      · rw [if_neg fun h => hA (hex.1 h)]
        refine if_congr ⟨fun ⟨e1, e2, e3⟩ => ⟨i, List.mem_cons_self, e1, e2.symm, e3.symm⟩, fun ⟨j, hj, e1, e2, e3⟩ => ?_⟩ rfl rfl
        rcases List.mem_cons.1 hj with rfl | hj
        · exact ⟨e1, e2.symm, e3.symm⟩
        · exact absurd ⟨j, hj, e1, e2, e3⟩ hA
    · rw [h4, hroster, List.diff_cons]
    · conv_lhs => rw [h5, hframe]

/-! The state that enters RUNNING -/

/-- What a start that passes leaves before it enters RUNNING (R72, R18, R119). -/
structure StartPrepared (s b : State) (gone : List Seat) : Prop where
  part : b.part = s.part
  layout : b.layout = s.startDirectory.layout
  setup : ∀ l, startedLink (b.link l) = startedLink { s.link l with
    enabled := s.startDirectory.links[l].enabled, divisor := s.startDirectory.links[l].divisor, timeout := s.startDirectory.links[l].timeout }
  scanPeriod : b.scanPeriod = s.startDirectory.scanPeriod
  refreshInterval : b.refreshInterval = s.startDirectory.refreshInterval
  stores : StoresReplaced s b fun k => (s.tableRead k).value
  seat : ∀ j, b.seat j = if j ∈ gone then retiredSeat (s.seat j) s.clock b.generations[(s.seat j).ctx.curve] else s.seat j
  carrier : ∀ l c, b.carrier l c = if ∃ i ∈ gone, (s.seat i).ctx.link = l ∧ (s.seat i).ctx.channel = c then none else s.carrier l c
  roster : b.roster = s.roster.filter fun i => decide (i ∉ gone)
  emptyRules : b.roster = [] → b.floorLimit = s.startDirectory.floorLimit ∧ b.floorPolicy = s.startDirectory.floorPolicy
  rules : b.roster ≠ [] → b.floorLimit = s.floorLimit ∧ b.floorPolicy = s.floorPolicy
  frame : b = { s with
    startResult := .ok, reads := [], layout := b.layout, links := b.links, scanPeriod := b.scanPeriod, refreshInterval := b.refreshInterval, classes := b.classes
    curves := b.curves, generations := b.generations, seats := b.seats, carriers := b.carriers, roster := b.roster, floorLimit := b.floorLimit
    floorPolicy := b.floorPolicy }

theorem startDirectory_link (l : LinkId) : s.startDirectory.links[l].enabled = (s.dirWord (12 + 2 * l.val)).getLsbD 15 := by
  simp [State.startDirectory]

theorem tableWords_start (hr : StartReading s rs) (hl : 165 ≤ rs.length) : TableWords ((valuesOf rs).drop wordsBeforeTables) fun k => (s.tableRead k).value :=
  fun k hk => by
    rw [nth_drop, show wordsBeforeTables + k = 29 + k from rfl, hr.nth (by omega) (by omega), startWord_table]

/-- The state in which the seats are retired: the setup and the layout taken, the stores replaced. -/
structure StartStored (s u : State) : Prop where
  link : ∀ l, u.link l = { s.link l with
    enabled := s.startDirectory.links[l].enabled, divisor := s.startDirectory.links[l].divisor, timeout := s.startDirectory.links[l].timeout }
  stores : StoresReplaced s u fun k => (s.tableRead k).value
  frame : u = { s with
    startResult := .ok, reads := [], layout := s.startDirectory.layout, links := u.links, scanPeriod := s.startDirectory.scanPeriod
    refreshInterval := s.startDirectory.refreshInterval, classes := u.classes, curves := u.curves, generations := u.generations }

theorem startStored (hr : StartReading s rs) (hl : 165 ≤ rs.length) (hg : ∀ k < 27, (s.startWord k).bad = false) :
    StartStored s ((({ s with reads := rs } : State).takeSetup rs).startStores rs) := by
  have hdir := hr.directory (by omega)
  have hlink := fun l => link_takeLinkSetup (y := { s with reads := rs }) (l := l) (setup := s.startDirectory.links)
  have hsetup : ({ s with reads := rs } : State).takeLinkSetup s.startDirectory.links = { s with
    reads := rs, links := (({ s with reads := rs } : State).takeLinkSetup s.startDirectory.links).links } := rfl
  rw [takeSetup_good (directory_take hr hg) hdir]
  unfold State.startStores
  rw [hdir]
  generalize ({ s with reads := rs } : State).takeLinkSetup s.startDirectory.links = z at *
  obtain ⟨w, hw⟩ : ∃ w : State, w = { z with
      scanPeriod := s.startDirectory.scanPeriod, refreshInterval := s.startDirectory.refreshInterval, startResult := .ok, layout := s.startDirectory.layout
      reads := [] } := ⟨_, rfl⟩
  rw [← hw]
  have hstores := storesReplaced (s := w) (tableWords_start hr hl)
  have hframe : ∀ x y, w.replaceStores x y = { w with
    classes := (w.replaceStores x y).classes, curves := (w.replaceStores x y).curves, generations := (w.replaceStores x y).generations } := fun _ _ => rfl
  have hframe := hframe (classesOfTable ((valuesOf rs).drop wordsBeforeTables)) (curvesOfTable ((valuesOf rs).drop wordsBeforeTables))
  generalize w.replaceStores _ _ = u at *
  have hlinks : u.links = z.links := by rw [hframe, hw]
  refine ⟨fun l => ?_, hstores.congr (by rw [hw, hsetup]) (by rw [hw, hsetup]) rfl rfl rfl, ?_⟩
  · rw [State.link, hlinks]; exact hlink l
  · rw [hlinks]
    conv_lhs => rw [hframe, hw, hsetup]

theorem startRetires_eq (h : StartStored s u) : u.retires = s.startRetires := by
  funext j
  have hseat : u.seat j = s.seat j := by rw [h.frame]; rfl
  have hcount : u.layout.seatCount = (s.dirWord 0).toNat := by rw [h.frame]; rfl
  unfold State.retires State.startRetires
  rw [hseat, hcount, h.link, startDirectory_link]
  exact congrArg _ (congrArg _ (by rw [beq_false]))

theorem startPrepared (hr : StartReading s rs) (hl : 165 ≤ rs.length) (hg : ∀ k < 27, (s.startWord k).bad = false) (hn : s.roster.Nodup) :
    StartPrepared s ((({ s with reads := rs } : State).takeSetup rs).startSeats rs) (allSeats.filter s.startRetires) := by
  have hA := startStored hr hl hg
  have hret := startRetires_eq hA
  have hdir := hr.directory (by omega)
  unfold State.startSeats
  rw [hdir]
  generalize (({ s with reads := rs } : State).takeSetup rs).startStores rs = u at *
  have hgone : u.retiring = allSeats.filter s.startRetires := by rw [State.retiring, hret]
  rw [hgone]
  have hR := retiredAll (s := u) (nodup_filter_seats s.startRetires)
  rw [show (allSeats.filter s.startRetires).foldl State.retire u = u.retireAll (allSeats.filter s.startRetires) from rfl]
  have hactive : ∀ i ∈ allSeats.filter s.startRetires, (s.seat i).ctx.active = true := fun i hi =>
    (Bool.and_eq_true_iff.1 (List.mem_filter.1 hi).2).1
  generalize allSeats.filter s.startRetires = gone at *
  generalize u.retireAll gone = t at *
  have hseat : ∀ j, u.seat j = s.seat j := fun j => by rw [hA.frame]; rfl
  have hfloor : t.startFloorRules s.startDirectory = { t with
    floorLimit := (t.startFloorRules s.startDirectory).floorLimit, floorPolicy := (t.startFloorRules s.startDirectory).floorPolicy } := rfl
  have hrules : (t.roster = [] → (t.startFloorRules s.startDirectory).floorLimit = s.startDirectory.floorLimit
        ∧ (t.startFloorRules s.startDirectory).floorPolicy = s.startDirectory.floorPolicy)
      ∧ (t.roster ≠ [] → (t.startFloorRules s.startDirectory).floorLimit = t.floorLimit ∧ (t.startFloorRules s.startDirectory).floorPolicy = t.floorPolicy) := by
    unfold State.startFloorRules
    refine ⟨fun h => ?_, fun h => ?_⟩
    · rw [h]; exact ⟨rfl, rfl⟩
    · have : t.roster.isEmpty = false := by simpa using h
      rw [this]; exact ⟨rfl, rfl⟩
  generalize t.startFloorRules s.startDirectory = b at *
  have hroster : b.roster = t.roster := by rw [hfloor]
  have hgens : b.generations = u.generations := by rw [hfloor, hR.frame]
  have hbseat : ∀ j, b.seat j = t.seat j := fun j => by rw [hfloor]; rfl
  have hblink : ∀ l, b.link l = t.link l := fun l => by rw [hfloor]; rfl
  have hbcarrier : ∀ l c, b.carrier l c = t.carrier l c := fun l c => by rw [hfloor]; rfl
  have hucarrier : ∀ l c, u.carrier l c = s.carrier l c := fun l c => by rw [hA.frame]; rfl
  have huroster : u.roster = s.roster := by rw [hA.frame]
  have huclock : u.clock = s.clock := by rw [hA.frame]
  refine ⟨by rw [hfloor, hR.frame, hA.frame], by rw [hfloor, hR.frame, hA.frame], fun l => ?_, by rw [hfloor, hR.frame, hA.frame], by rw [hfloor, hR.frame, hA.frame],
    hA.stores.congr rfl rfl (by rw [hfloor, hR.frame]) (by rw [hfloor, hR.frame]) hgens, fun j => ?_, fun l c => ?_, ?_, fun h => hrules.1 (hroster ▸ h), fun h => ?_, ?_⟩
  · rw [hblink, hR.link, hA.link]
  · have hgen : u.seatGeneration j = b.generations[(s.seat j).ctx.curve] := by simp only [State.seatGeneration, hseat, hgens]
    rw [hbseat, hR.seat, hgen, hseat, huclock]
  · rw [hbcarrier, hR.carrier, hucarrier]
    refine if_congr (exists_congr fun i => and_congr_right fun hi => ?_) rfl rfl
    rw [hseat]; exact and_iff_right (hactive i hi)
  · rw [hroster, hR.roster, huroster, hn.sdiff_eq_filter]
  · obtain ⟨h1, h2⟩ := hrules.2 (hroster ▸ h)
    exact ⟨h1.trans (by rw [hR.frame, hA.frame]), h2.trans (by rw [hR.frame, hA.frame])⟩
  · have e1 : b.layout = s.startDirectory.layout := by rw [hfloor, hR.frame, hA.frame]
    have e2 : b.links = t.links := by rw [hfloor]
    have e3 : b.scanPeriod = s.startDirectory.scanPeriod := by rw [hfloor, hR.frame, hA.frame]
    have e4 : b.refreshInterval = s.startDirectory.refreshInterval := by rw [hfloor, hR.frame, hA.frame]
    have e5 : b.classes = u.classes := by rw [hfloor, hR.frame]
    have e6 : b.curves = u.curves := by rw [hfloor, hR.frame]
    have e7 : b.seats = t.seats := by rw [hfloor]
    have e8 : b.carriers = t.carriers := by rw [hfloor]
    rw [e1, e2, e3, e4, e5, e6, hgens, e7, e8, hroster]
    conv_lhs => rw [hfloor, hR.frame, hA.frame]

end Sys2Proof.Machine
end

section
/-! PROOFS. A start that succeeds: entry to RUNNING, block by block (R174). -/
namespace Sys2Proof.Machine
open Sys2Proof

variable {s t u b e : State} {i j : Seat} {l : LinkId} {cap : Nat} {gone : List Seat} {x y : PageState}

/-- The regions of the list and of the pages, as an entry to RUNNING finds them (R173). -/
structure RegionsPlaced (s : State) (cap : Nat) : Prop where
  room : 16 ≤ cap ∧ cap ≤ 512
  list : 256 ≤ s.layout.changeList ∧ s.layout.changeList + cap ≤ 16384
  pages : 256 ≤ s.layout.pageArea ∧ s.layout.pageArea + 392 ≤ 16384
  apart : s.layout.changeList + cap ≤ s.layout.pageArea ∨ s.layout.pageArea + 392 ≤ s.layout.changeList

theorem regionsPlaced (h : s.directoryFits) (hb : b.layout = s.startDirectory.layout) : RegionsPlaced b (s.dirWord 7).toNat := by
  obtain ⟨-, hcap, hfit, hapart, -⟩ := h
  have h3 := hfit ((s.dirWord 3).toNat, (s.dirWord 7).toNat) (by simp [State.dirRegions])
  have h6 := hfit ((s.dirWord 6).toNat, 392) (by simp [State.dirRegions])
  have a03 := hapart 0 3 _ _ (by decide) rfl rfl (s.dirWord 3).toNat
  have a06 := hapart 0 6 _ _ (by decide) rfl rfl (s.dirWord 6).toNat
  have a36 := hapart 3 6 _ _ (by decide) rfl rfl
  have a36a := a36 (s.dirWord 3).toNat
  have a36b := a36 (s.dirWord 6).toNat
  obtain ⟨c1, c2⟩ := hcap
  have e1 : b.layout.changeList = (s.dirWord 3).toNat := by rw [hb]; rfl
  have e2 : b.layout.pageArea = (s.dirWord 6).toNat := by rw [hb]; rfl
  dsimp only at *
  refine ⟨⟨c1, c2⟩, ?_, ?_, ?_⟩ <;> omega

/-- The owed seats that an entry to RUNNING puts on the list. -/
def State.ownedServed (s : State) (cap : Nat) : List Seat :=
  (allSeats.filter fun i => (s.seat i).board.owed && decide (i.val < s.layout.seatCount)).take (cap - (s.inRange.take cap).length)

theorem settled_ownedServed : (s.settled cap).owedServed = s.ownedServed cap := by
  rw [settled_owedServed, State.ownedServed]

/-- What settles the list is looked up in the list, the layout and the boards. -/
theorem settles_congr (h1 : t.changeList = s.changeList) (h2 : t.layout = s.layout) (h3 : ∀ i, t.seat i = s.seat i) :
    t.inRange = s.inRange ∧ t.ownedServed cap = s.ownedServed cap ∧ ∀ i, t.settledBoard cap i = s.settledBoard cap i := by
  have hin : t.inRange = s.inRange := by rw [State.inRange, h1, h2]; rfl
  refine ⟨hin, ?_, fun i => ?_⟩
  · unfold State.ownedServed
    rw [hin, h2]
    refine congrArg (List.take _) (List.filter_congr fun i _ => ?_)
    rw [h3]
  · unfold State.settledBoard State.overflow
    rw [hin, h2, h3]

/-- What an entry to RUNNING leaves (R42, R58, R119, R142, R162). -/
structure RunningEntered (b e : State) (cap : Nat) (x y : PageState) : Prop where
  link : ∀ l, e.link l = queued (startedLink (b.link l)) (allSeats.filter (b.sendsOn l))
  counters : ∀ (l : LinkId) (k : Fin 11), e.readWord (64 + 11 * l.val + k.val) = word (b.link l).counters[k]
  summary : SummaryShown e
  low : e.readWord 32 = lowHalf b.clock
  high : e.readWord 33 = highHalf b.clock
  passes : e.readWord 34 = b.passCount
  late : e.readWord 35 = word b.lateCount
  floor : FloorShown e
  wordA : e.readWord b.layout.pageArea = word x.code
  wordB : e.readWord (b.layout.pageArea + 196) = word y.code
  changeList : e.changeList = b.inRange.take cap ++ b.ownedServed cap
  writePos : e.writePos = e.changeList.length % cap
  taken : e.takenCount = b.takenCount
  entries : ∀ k (h : k < e.changeList.length), e.readWord (b.layout.changeList + k) = seatWord e.changeList[k]
  owedWord : e.readWord 37 = word e.owedCount
  fillWord : e.readWord 38 = e.fillCount
  takenWord : e.readWord 39 = e.takenCount
  seat : ∀ i, e.seat i = { b.seat i with board := { (b.seat i).board with
    listed := (e.seat i).board.listed, relistDue := (b.settledBoard cap i).relistDue, owed := (b.settledBoard cap i).owed && !decide (i ∈ b.ownedServed cap) } }
  sound : e.ListSound 0
  notified : e.changeList ≠ [] → e.causeSet .changes = true
  quiet : e.changeList = [] → e.causeSet .changes = b.causeSet .changes
  causes : ∀ c, c ≠ .changes → e.causeSet c = b.causeSet c
  kept : wordsKept b e fun a => 32 ≤ a ∧ a ≤ 39 ∨ 41 ≤ a ∧ a ≤ 49 ∨ 64 ≤ a ∧ a < 152
    ∨ (∃ k < e.changeList.length, a = b.layout.changeList + k) ∨ a = b.layout.pageArea ∨ a = b.layout.pageArea + 196
  frame : e = { b with
    part := .running, causes := e.causes, ram := e.ram, badParity := e.badParity, links := e.links, seats := e.seats, scanTimer := some b.clock
    pass := none, refreshPass := false, countdown := 1, pageA := x, pageB := y
    posting := (if x = .posted then [.a] else []) ++ (if y = .posted then [.b] else []), worked := none, suspended := none, lift := none, reads := []
    changeList := e.changeList, writePos := e.writePos, fillCount := e.fillCount, owedCount := e.owedCount, capacity := cap }

theorem layout_entered {a t1 t2 t3 : State} (ha : a = { b with part := .running }) (h1 : LinksStarted a t1) (h2 : EvaluationStarted t1 t2) (h3 : t3 = { t2 with ram := t3.ram, badParity := t3.badParity }) :
    t3.layout = b.layout := by rw [h3, h2.frame, h1.frame, ha]

theorem layout_ordered {t3 t4 : State} (h4 : OrdersStarted t3 t4 x y) : t4.layout = t3.layout := by rw [h4.frame]

theorem linksFrame {a t1 : State} (ha : a = { b with part := .running }) (h1 : LinksStarted a t1) :
    t1 = { b with part := .running, links := t1.links, ram := t1.ram, badParity := t1.badParity } := by
  conv_lhs => rw [h1.frame, ha]

theorem evaluationFrame {t1 t2 : State} (h1 : t1 = { b with part := .running, links := t1.links, ram := t1.ram, badParity := t1.badParity })
    (h2 : EvaluationStarted t1 t2) : t2 = { b with
      part := .running, ram := t2.ram, badParity := t2.badParity, links := t1.links, scanTimer := some b.clock, pass := none, refreshPass := false
      countdown := 1 } := by
  have hclock : t1.clock = b.clock := by rw [h1]
  conv_lhs => rw [h2.frame, hclock, h1]

/-- The orders' state at entry to RUNNING, from the one before it. -/
theorem ordersFrame {a t1 t2 t3 t4 : State} (ha : a = { b with part := .running }) (h1 : LinksStarted a t1) (h2 : EvaluationStarted t1 t2)
    (h3 : t3 = { t2 with ram := t3.ram, badParity := t3.badParity }) (h4 : OrdersStarted t3 t4 x y) : t4 = { b with
      part := .running, ram := t4.ram, badParity := t4.badParity, links := t1.links, scanTimer := some b.clock
      pass := none, refreshPass := false, countdown := 1, pageA := x, pageB := y
      posting := (if x = .posted then [.a] else []) ++ (if y = .posted then [.b] else []), worked := none, suspended := none, lift := none, reads := [] } := by
  have h2' := evaluationFrame (linksFrame ha h1) h2
  conv_lhs => rw [h4.frame, h3, h2']

theorem listLawful_started {ls : Vector Link 8} {t4 : State} (h4 : t4 = { b with
      part := .running, ram := t4.ram, badParity := t4.badParity, links := ls, scanTimer := some b.clock
      pass := none, refreshPass := false, countdown := 1, pageA := x, pageB := y
      posting := (if x = .posted then [.a] else []) ++ (if y = .posted then [.b] else []), worked := none, suspended := none, lift := none, reads := [] })
    (hl : b.ListLawful) : t4.ListLawful := by
  obtain ⟨hs, ho⟩ := listLawful_iff.1 hl
  refine listLawful_iff.2 ⟨hs.congr (by rw [h4]) (by rw [h4]) (by rw [h4]) (by rw [h4]) (by rw [h4]) (by rw [h4]) fun i => ?_, ?_⟩
  · have : t4.seat i = b.seat i := by rw [h4]; rfl
    rw [this]; exact ⟨rfl, rfl, rfl⟩
  · rw [State.OwedOnlyFull, h4]; exact ho

/-- The blocks' states put together. -/
theorem entered_of {a t1 t2 t3 t4 : State} (ha : a = { b with part := .running }) (hr : RegionsPlaced b cap) (h1 : LinksStarted a t1)
    (h2 : EvaluationStarted t1 t2) (h3 : FloorShown t3) (hk3 : wordsKept t2 t3 floorWords) (hf3 : t3 = { t2 with ram := t3.ram, badParity := t3.badParity })
    (h4 : OrdersStarted t3 t4 x y) (h5 : ListSettled t4 e cap (t4.settled cap).owedServed) (hsound : e.ListSound 0) : RunningEntered b e cap x y := by
  have hf4 := ordersFrame ha h1 h2 hf3 h4
  have e3 : t3.layout = b.layout := layout_entered ha h1 h2 hf3
  have hlay : t4.layout = b.layout := by rw [hf4]
  have hseat : ∀ i, t4.seat i = b.seat i := fun i => by rw [hf4]; rfl
  obtain ⟨hin, hserved, hboard⟩ := settles_congr (s := b) (t := t4) (cap := cap) (by rw [hf4]) hlay hseat
  rw [settled_ownedServed, hserved] at h5
  have hlen : e.changeList.length ≤ cap := h5.capacity ▸ hsound.short
  have hroom := hr.list
  have hpages := hr.pages
  have hk5 : ∀ k, ¬ (37 ≤ k ∧ k ≤ 39) → ¬ (b.layout.changeList ≤ k ∧ k < b.layout.changeList + cap) → e.readWord k = t4.readWord k := fun k hk hk' =>
    (h5.kept k (by rw [hlay]; rintro (h | ⟨n, hn, h⟩) <;> omega)).1
  have hk4 : ∀ k < 256, t4.readWord k = t3.readWord k := fun k hk => (h4.kept k (by rw [e3]; omega)).1
  have hlow : ∀ k < 256, ¬ (37 ≤ k ∧ k ≤ 39) → e.readWord k = t3.readWord k := fun k hk hk' => (hk5 k hk' (by omega)).trans (hk4 k hk)
  have hlow2 : ∀ k < 256, ¬ (37 ≤ k ∧ k ≤ 39) → ¬ (41 ≤ k ∧ k ≤ 49) → e.readWord k = t2.readWord k := fun k hk hk' hf =>
    (hlow k hk hk').trans (hk3 k hf).1
  have hlow1 : ∀ k < 256, ¬ (32 ≤ k ∧ k ≤ 35) → ¬ (37 ≤ k ∧ k ≤ 39) → ¬ (41 ≤ k ∧ k ≤ 49) → e.readWord k = t1.readWord k := fun k hk he hk' hf =>
    (hlow2 k hk hk' hf).trans (h2.kept k he).1
  have hlinks4 : t4.links = t1.links := by rw [hf4]
  have hlinks5 : e.links = t4.links := by rw [h5.frame]
  have hlinks := hlinks5.trans hlinks4
  have helink : ∀ l, e.link l = t1.link l := fun l => by rw [State.link, hlinks]; rfl
  have hef : e = { t4 with
      causes := e.causes, ram := e.ram, badParity := e.badParity, seats := e.seats, changeList := e.changeList, writePos := e.writePos
      fillCount := e.fillCount, owedCount := e.owedCount, capacity := cap } := h5.frame
  have hside := hr.apart
  refine ⟨fun l => ?_, fun l k => ?_, fun l => ?_, ?_, ?_, ?_, ?_, ⟨fun k hk => ?_, ?_⟩, ?_, ?_, by rw [h5.changeList, hin], h5.writePos, by rw [h5.taken, hf4],
    fun k h => by rw [← hlay]; exact h5.entries k h, h5.owedWord, h5.fillWord, h5.takenWord, fun i => ?_, hsound, h5.notified, fun h => ?_, fun c hc => ?_, ?_, ?_⟩
  · rw [helink, h1.link, ha]; rfl
  · rw [hlow1 _ (by omega) (by omega) (by omega) (by omega), h1.words, ha]; rfl
  · rw [hlow1 _ (by omega) (by omega) (by omega) (by omega), helink]; exact h1.summary l
  · rw [hlow2 _ (by omega) (by omega) (by omega), h2.low, h1.frame, ha]
  · rw [hlow2 _ (by omega) (by omega) (by omega), h2.high, h1.frame, ha]
  · rw [hlow2 _ (by omega) (by omega) (by omega), h2.passes, h1.frame, ha]
  · rw [hlow2 _ (by omega) (by omega) (by omega), h2.late, h1.frame, ha]
  · rw [hlow _ (by omega) (by omega), h3.members k hk, hef, h4.frame]
  · rw [hlow _ (by omega) (by omega), h3.rules, hef, h4.frame]
  · rw [hk5 _ (by omega) (by omega), ← e3, h4.wordA]
  · rw [hk5 _ (by omega) (by omega), ← e3, h4.wordB]
  · have := h5.seat i
    rwa [hseat, hboard] at this
  · rw [h5.quiet h, State.causeSet, hf4]; rfl
  · rw [h5.causes c hc, State.causeSet, hf4]; rfl
  · have hall : wordsKept a e _ := (((h1.kept.trans h2.kept).trans hk3).trans h4.kept).trans h5.kept
    have hab : wordsKept b a fun _ => False := fun k _ => by rw [ha]; exact ⟨rfl, rfl⟩
    refine (hab.trans hall).mono fun k hk => ?_
    rw [e3, hlay] at hk
    unfold floorWords at hk
    rcases hk with hk | (((hk | hk) | hk) | hk) | hk | hk
    · exact hk.elim
    · omega
    · omega
    · omega
    · omega
    · omega
    · exact .inr (.inr (.inr (.inl hk)))
  · rw [hlinks]
    conv_lhs => rw [hef, hf4]

theorem runningEntered {d : Directory} (hd : d.capacity = cap) (hm : b.memoryLaw) (hl : b.ListLawful) (hr : RegionsPlaced b cap) :
    RunningEntered b (b.enterRunning d x y) cap x y := by
  have h1 := linksStarted (s := { b with part := .running }) hm
  have h2 := evaluationStarted h1.memory
  obtain ⟨h3, hk3⟩ := floorShown_written h2.memory
  have hf3 := writeFloorHeader_frame (s := (State.startLinks { b with part := .running }).startEvaluation)
  have hm3 := memoryLaw_writeFloorHeader h2.memory
  unfold State.enterRunning; dsimp only
  rw [hd]
  generalize State.startLinks { b with part := .running } = t1 at *
  generalize t1.startEvaluation = t2 at *
  generalize t2.writeFloorHeader = t3 at *
  have e3 : t3.layout = b.layout := layout_entered rfl h1 h2 hf3
  have h4 := ordersStarted (s := t3) (x := x) (y := y) hm3 (by rw [e3]; have := hr.pages; omega)
  have hlaw := listLawful_started (ordersFrame rfl h1 h2 hf3 h4) hl
  have hlay4 : (t3.startOrders x y).layout = b.layout := (layout_ordered h4).trans e3
  have h5 := listSettled (cap := cap) (listLawful_iff.1 hlaw).1 h4.memory hr.room (by rw [hlay4]; exact hr.list.1) (by rw [hlay4]; exact hr.list.2)
  exact entered_of rfl hr h1 h2 h3 hk3 hf3 h4 h5 (listLawful_iff.1 (listLawful_settleChangeList hlaw hr.room)).1

/-! The retired seats published, and STARTED (R69, R174) -/

/-- What that leaves of the state that has entered RUNNING. -/
structure StartPublished (e t : State) (gone : List Seat) : Prop where
  seat : ∀ i, t.seat i = { e.seat i with board :=
    if i ∈ gone ∧ i.val < e.layout.seatCount then changedNow (e.seat i).board e.clock else (e.seat i).board }
  writes : t.boardWrites = e.boardWrites ++ changeWrites t gone
  started : raised e t .started
  frame : t = { e with causes := t.causes, seats := t.seats, boardWrites := t.boardWrites }

theorem startPublished (hp : e.part = .running) (hn : gone.Nodup) : StartPublished e ((e.publishAll gone).raise .started) gone := by
  have hseat := fun i => seat_publishAll (s := e) (is := gone) (j := i)
  have hwrites := publishAll_boardWrites (s := e) hn
  have hframe := publishAll_frame (s := e) (is := gone)
  generalize e.publishAll gone = p at *
  have hlay : p.layout = e.layout := by rw [hframe]
  rw [changeWrites_congr hlay (.inl hp)] at hwrites
  have hr := raised_raise (s := p) .started
  have hf : p.raise .started = { p with causes := (p.raise .started).causes } := rfl
  generalize p.raise .started = t at *
  have hcause : ∀ c, p.causeSet c = e.causeSet c := fun c => by rw [hframe]; rfl
  have htseat : ∀ i, t.seat i = p.seat i := fun i => by rw [hf]; rfl
  have hw : changeWrites t gone = changeWrites p gone := by
    unfold changeWrites
    rw [show t.layout = p.layout by rw [hf]]
    exact List.map_congr_left fun i _ => changeWrite_congr (htseat i) (by rw [hf]) (by rw [hf]) (by rw [hf]; rfl)
  refine ⟨fun i => ?_, ?_, ⟨hr.1, fun c hc => (hr.2 c hc).trans (hcause c)⟩, ?_⟩
  · rw [htseat, hseat]
    have : (i ∈ gone ∧ e.publishes i = true) ↔ i ∈ gone ∧ i.val < e.layout.seatCount := by
      rw [publishes_iff]; exact and_congr_right fun _ => and_iff_left (.inl hp)
    exact congrArg _ (if_congr this rfl rfl)
  · rw [hw, ← hwrites, show t.boardWrites = p.boardWrites by rw [hf]]
  · have e1 : t.seats = p.seats := by rw [hf]
    have e2 : t.boardWrites = p.boardWrites := by rw [hf]
    rw [e1, e2]
    conv_lhs => rw [hf, hframe]

/-! The seats that a start leaves alone, and those that it retires -/

theorem preparedLawful (h : StartPrepared s b gone) (hs : s.ListLawful) : b.ListLawful := by
  obtain ⟨h1, h2⟩ := listLawful_iff.1 hs
  refine listLawful_iff.2 ⟨h1.congr (by rw [h.frame]) (by rw [h.frame]) (by rw [h.frame]) (by rw [h.frame]) (by rw [h.frame]) (by rw [h.frame]) fun i => ?_, ?_⟩
  · have : (b.seat i).board = (s.seat i).board := by rw [h.seat]; split <;> rfl
    rw [this]; exact ⟨rfl, rfl, rfl⟩
  · rw [State.OwedOnlyFull, h.frame]; exact h2

end Sys2Proof.Machine
end

section
/-! PROOFS. A start that succeeds (O60). -/
namespace Sys2Proof.Machine
open Sys2Proof

variable {s t u b e : State} {i j : Seat} {l : LinkId} {cap k : Nat} {gone is : List Seat} {x y : PageState} {rs : List ReadWord}

theorem startReading_pages (hr : StartReading s rs) (hl : 29 ≤ rs.length) : nth (valuesOf rs) directoryWords = (s.pageRead .a).value
    ∧ nth (valuesOf rs) (directoryWords + 1) = (s.pageRead .b).value := by
  rw [hr.nth (k := directoryWords) (show 27 < _ by omega) (by decide), hr.nth (k := directoryWords + 1) (show 28 < _ by omega) (by decide),
    ← startWord_pageA, ← startWord_pageB]
  exact ⟨rfl, rfl⟩

/-- The reading of a start ends with its last word. -/
theorem nextStartRead_over (hr : StartReading s rs) (hl : 165 ≤ rs.length) (hb : (firstBadRead rs).isSome = false) (hfits : s.directoryFits)
    (hA : startable (s.pageRead .a).value) (hB : startable (s.pageRead .b).value) : nextStartRead rs = none := by
  obtain ⟨hA', hB'⟩ := startReading_pages hr (by omega)
  unfold nextStartRead; dsimp only
  rw [hb, if_neg Bool.false_ne_true, if_neg (show ¬ rs.length < directoryWords from fun h : rs.length < 27 => absurd hl (by omega)), hr.directory (by omega),
    failure_none hfits, if_neg (by decide), if_neg (show ¬ rs.length = directoryWords from fun h : rs.length = 27 => absurd hl (by omega)), hA',
    if_neg fun h => startablePage_isNone_iff.1 h hA, if_neg (show ¬ rs.length = directoryWords + 1 from fun h : rs.length = 28 => absurd hl (by omega)), hB',
    if_neg fun h => startablePage_isNone_iff.1 h hB, if_neg (show ¬ rs.length < startWords from fun h : rs.length < 165 => absurd hl (by omega))]

theorem startGood (hdir : ∀ a ∈ directoryAddrs, (s.dirRead a).bad = false) (hpages : ∀ p, (s.pageRead p).bad = false ∧ startable (s.pageRead p).value)
    (htable : ∀ k < 136, (s.tableRead k).bad = false) : ∀ k < 165, (s.startWord k).bad = false := fun k hk => by
  rcases Nat.lt_or_ge k 29 with h | h
  · exact good_succ (good_succ (directory_good_iff.1 hdir) (by rw [startWord_pageA]; exact (hpages .a).1)) (by rw [startWord_pageB]; exact (hpages .b).1) k h
  · obtain ⟨n, rfl⟩ := Nat.exists_eq_add_of_le h
    rw [startWord_table]; exact htable n (by omega)

/-- A start that passes every check. -/
theorem startSucceeds (hp : s.part = .checking) (hfits : s.directoryFits) (hreads : ∀ r ∈ s.reads, r.bad = false)
    (hg : ∀ k < 165, (s.startWord k).bad = false) (hA : startable (s.pageRead .a).value) (hB : startable (s.pageRead .b).value) (hn : s.roster.Nodup) :
    ∃ b, StartPrepared s b (allSeats.filter s.startRetires) ∧ exec .checkingEnd s
      = .next (((b.enterRunning s.startDirectory ((startablePage (s.pageRead .a).value).getD .free) ((startablePage (s.pageRead .b).value).getD .free)).publishAll
          (allSeats.filter s.startRetires)).raise .started) := by
  have hg27 : ∀ k < 27, (s.startWord k).bad = false := fun k hk => hg k (by omega)
  obtain ⟨rs, hr, hl, hy, hnb⟩ := startReading_ends (n := 165) (by decide) (fun _ => ⟨by decide, fun _ => hfits, fun _ => hA, fun _ => hB⟩) hg
    fun rs hr hl hb => nextStartRead_over hr hl hb hfits hA hB
  obtain ⟨hA', hB'⟩ := startReading_pages hr (by omega)
  have hcode : startCode rs = .ok := by
    rw [startCode_fits (directory_take hr hg27) (hr.directory (by omega)) (failure_none hfits), hnb hreads, if_neg (by decide), if_neg]
    rw [startablePage_isNone_iff, startablePage_isNone_iff, hA', hB']
    exact fun h => h.elim (· hA) (· hB)
  have hstored := startStored hr hl hg27
  have hprep := startPrepared hr hl hg27 hn
  have hexec := exec_checkingEnd s
  have hstartReads : s.startReads = rs := by rw [State.startReads, hy]
  have hjudged : s.startJudged = ({ s with reads := rs } : State).takeSetup rs := by rw [State.startJudged, hy, hstartReads]
  rw [if_pos hp, endChecking_eq, hstartReads, if_pos hcode, hjudged, succeedStart_eq, State.startEntered, hA', hB', hr.directory (by omega), State.retiring,
    startRetires_eq hstored] at hexec
  exact ⟨_, hprep, hexec⟩

/-! The state so left, clause by clause -/

/-- The three stages of a start put together. -/
structure Started (s b e t : State) (gone : List Seat) (cap : Nat) (x y : PageState) : Prop where
  prepared : StartPrepared s b gone
  entered : RunningEntered b e cap x y
  published : StartPublished e t gone

theorem startedFrame (h : Started s b e t gone cap x y) : t = { s with
    part := .running, startResult := .ok, reads := [], causes := t.causes, ram := t.ram, badParity := t.badParity
    layout := t.layout, links := t.links, seats := t.seats, carriers := t.carriers, scanPeriod := t.scanPeriod
    refreshInterval := t.refreshInterval, scanTimer := t.scanTimer, pass := none, refreshPass := false
    countdown := 1, classes := t.classes, curves := t.curves, generations := t.generations, roster := t.roster
    floorLimit := t.floorLimit, floorPolicy := t.floorPolicy, pageA := t.pageA, pageB := t.pageB
    posting := t.posting, worked := none, suspended := none, lift := none, changeList := t.changeList
    writePos := t.writePos, fillCount := t.fillCount, owedCount := t.owedCount, capacity := cap
    boardWrites := t.boardWrites } := by
  obtain ⟨h1, h2, h3⟩ := h
  have hb := h1.frame
  have he := h2.frame
  have ht := h3.frame
  have e1 : t.ram = e.ram := by rw [ht]
  have e2 : t.badParity = e.badParity := by rw [ht]
  have e3 : t.layout = b.layout := by rw [ht, he]
  have e4 : t.links = e.links := by rw [ht]
  have e5 : t.carriers = b.carriers := by rw [ht, he]
  have e6 : t.scanPeriod = b.scanPeriod := by rw [ht, he]
  have e7 : t.refreshInterval = b.refreshInterval := by rw [ht, he]
  have e8 : t.scanTimer = some s.clock := by rw [ht, he, hb]
  have e9 : t.classes = b.classes := by rw [ht, he]
  have e10 : t.curves = b.curves := by rw [ht, he]
  have e11 : t.generations = b.generations := by rw [ht, he]
  have e12 : t.roster = b.roster := by rw [ht, he]
  have e13 : t.floorLimit = b.floorLimit := by rw [ht, he]
  have e14 : t.floorPolicy = b.floorPolicy := by rw [ht, he]
  have e15 : t.pageA = x := by rw [ht, he]
  have e16 : t.pageB = y := by rw [ht, he]
  have e17 : t.posting = (if x = .posted then [.a] else []) ++ (if y = .posted then [.b] else []) := by rw [ht, he]
  have e18 : t.changeList = e.changeList := by rw [ht]
  have e19 : t.writePos = e.writePos := by rw [ht]
  have e20 : t.fillCount = e.fillCount := by rw [ht]
  have e21 : t.owedCount = e.owedCount := by rw [ht]
  rw [e1, e2, e3, e4, e5, e6, e7, e8, e9, e10, e11, e12, e13, e14, e15, e16, e17, e18, e19, e20, e21]
  conv_lhs => rw [ht, he, hb]

theorem started_seat (h : Started s b e t gone cap x y) (i : Seat) : t.seat i = { b.seat i with board := (t.seat i).board } := by
  rw [h.published.seat, h.entered.seat]

theorem prepared_board (h : StartPrepared s b gone) (i : Seat) : (b.seat i).board = (s.seat i).board := by
  rw [h.seat]; split <;> rfl

/-- The list's own sets are looked up as the reading's directory places them. -/
theorem prepared_lists (h : StartPrepared s b gone) : b.inRange = s.changeList.filter (fun i => decide (i.val < (s.dirWord 0).toNat))
    ∧ b.ownedServed cap = (allSeats.filter fun i => (s.seat i).board.owed && decide (i.val < (s.dirWord 0).toNat)).take
      (cap - ((s.changeList.filter fun i => decide (i.val < (s.dirWord 0).toNat)).take cap).length) := by
  have hin : b.inRange = s.changeList.filter (fun i => decide (i.val < (s.dirWord 0).toNat)) := by
    have hlist : b.changeList = s.changeList := by rw [h.frame]
    rw [State.inRange, hlist, h.layout]; rfl
  refine ⟨hin, ?_⟩
  unfold State.ownedServed
  rw [hin, h.layout]
  refine congrArg (List.take _) (List.filter_congr fun i _ => ?_)
  rw [prepared_board h]; rfl

theorem mem_take_iff (hn : is.Nodup) : i ∈ is.take cap ↔ i ∈ is ∧ i ∉ is.drop cap := by
  have hsplit : i ∈ is ↔ i ∈ is.take cap ∨ i ∈ is.drop cap := by rw [← List.mem_append, List.take_append_drop]
  exact ⟨fun h => ⟨hsplit.2 (.inl h), List.disjoint_take_drop hn le_rfl h⟩, fun ⟨h, h'⟩ => (hsplit.1 h).resolve_right h'⟩

/-- The board flags of a seat after a start (R158, R162). -/
theorem started_board (h : Started s b e t gone cap x y) (hs : s.ListSound 0) (i : Seat) : (t.seat i).board = {
    stamp := (s.seat i).board.stamp
    changedAt := if i ∈ gone ∧ i.val < b.layout.seatCount then s.clock else (s.seat i).board.changedAt
    listed := decide (i ∈ t.changeList)
    relistDue := (s.seat i).board.relistDue && decide (i ∈ b.inRange.take cap)
    owed := ((s.seat i).board.owed && decide (i.val < b.layout.seatCount) || decide (i ∈ b.overflow cap)) && !decide (i ∈ b.ownedServed cap) } := by
  have hboard := prepared_board h.prepared i
  have hclock : e.clock = s.clock := by rw [h.entered.frame, h.prepared.frame]
  have hlay : e.layout = b.layout := by rw [h.entered.frame]
  have hlist : t.changeList = e.changeList := by rw [h.published.frame]
  have hblist : b.changeList = s.changeList := by rw [h.prepared.frame]
  have hlisted : (e.seat i).board.listed = decide (i ∈ e.changeList) := by rw [Bool.eq_iff_iff, h.entered.sound.listed, decide_eq_true_iff]
  have hdue : (b.settledBoard cap i).relistDue = ((s.seat i).board.relistDue && decide (i ∈ b.inRange.take cap)) := by
    show ((b.seat i).board.relistDue && decide (i.val < b.layout.seatCount) && !decide (i ∈ b.overflow cap)) = _
    rw [hboard, Bool.and_assoc]
    by_cases hd : (s.seat i).board.relistDue = true
    · have hmem : i ∈ b.changeList := hblist ▸ (hs.listed i).1 (hs.due i hd)
      have hn : b.inRange.Nodup := (hblist ▸ hs.nodup : b.changeList.Nodup).filter _
      have hin : i ∈ b.inRange ↔ i.val < b.layout.seatCount := by simp [State.inRange, hmem]
      have hiff : i ∈ b.inRange.take cap ↔ i.val < b.layout.seatCount ∧ i ∉ b.overflow cap := by rw [mem_take_iff hn, hin]; rfl
      rw [hd, Bool.true_and, Bool.true_and, Bool.eq_iff_iff, decide_eq_true_iff, hiff]
      simp
    · rw [Bool.not_eq_true] at hd
      rw [hd, Bool.false_and, Bool.false_and]
  have howed : (b.settledBoard cap i).owed = ((s.seat i).board.owed && decide (i.val < b.layout.seatCount) || decide (i ∈ b.overflow cap)) := by
    rw [← hboard]; rfl
  rw [h.published.seat, h.entered.seat, hlay, hclock, hlisted, hdue, howed, hlist, hboard]
  by_cases hg : i ∈ gone ∧ i.val < b.layout.seatCount
  · rw [if_pos hg, if_pos hg]; rfl
  · rw [if_neg hg, if_neg hg]

theorem started_link (h : Started s b e t gone cap x y) (l : LinkId) : t.link l = queued (startedLink { s.link l with
    enabled := s.startDirectory.links[l].enabled, divisor := s.startDirectory.links[l].divisor, timeout := s.startDirectory.links[l].timeout })
      (allSeats.filter (t.sendsOn l)) := by
  have hl : t.link l = e.link l := by rw [h.published.frame]; rfl
  have hsends : t.sendsOn l = b.sendsOn l := by
    funext i
    unfold State.sendsOn
    rw [started_seat h]
  rw [hl, h.entered.link, h.prepared.setup, hsends]

theorem started_setup (h : Started s b e t gone cap x y) : SetupTaken s t := by
  have hscan : t.scanPeriod = b.scanPeriod := by rw [h.published.frame, h.entered.frame]
  have hrefresh : t.refreshInterval = b.refreshInterval := by rw [h.published.frame, h.entered.frame]
  refine ⟨fun l => ?_, hscan.trans h.prepared.scanPeriod, hrefresh.trans h.prepared.refreshInterval⟩
  have hset : s.startDirectory.links[l].enabled = (s.dirWord (12 + 2 * l.val)).getLsbD 15
      ∧ s.startDirectory.links[l].divisor = (s.dirWord (12 + 2 * l.val)).toNat % 256
      ∧ s.startDirectory.links[l].timeout = clampTo 50 2000 (s.dirWord (13 + 2 * l.val)).toNat := by
    simp [State.startDirectory]
  rw [started_link h]
  exact hset

/-- The RAM of a start that succeeds is that of the state that has entered RUNNING. -/
theorem started_words (h : Started s b e t gone cap x y) (a : Nat) : t.readWord a = e.readWord a ∧ t.wordBad a = e.wordBad a :=
  words_congr (by rw [h.published.frame]) (by rw [h.published.frame]) a

/-- A start that passes every check goes through its three stages. -/
theorem startGoes (hp : s.part = .checking) (hfits : s.directoryFits) (hreads : ∀ r ∈ s.reads, r.bad = false) (hg : ∀ k < 165, (s.startWord k).bad = false)
    (hA : startable (s.pageRead .a).value) (hB : startable (s.pageRead .b).value) (hm : s.memoryLaw) (hn : s.roster.Nodup) (hl : s.ListLawful) :
    ∃ b e t, Started s b e t (allSeats.filter s.startRetires) (s.dirWord 7).toNat ((startablePage (s.pageRead .a).value).getD .free)
        ((startablePage (s.pageRead .b).value).getD .free)
      ∧ exec .checkingEnd s = .next t ∧ RegionsPlaced b (s.dirWord 7).toNat := by
  obtain ⟨b, hprep, hexec⟩ := startSucceeds hp hfits hreads hg hA hB hn
  have hbm : b.memoryLaw := memoryLaw_congr hm (by rw [hprep.frame]) (by rw [hprep.frame])
  have hplaced := regionsPlaced hfits hprep.layout
  have hent := runningEntered (d := s.startDirectory) (x := (startablePage (s.pageRead .a).value).getD .free)
    (y := (startablePage (s.pageRead .b).value).getD .free) rfl hbm (preparedLawful hprep hl) hplaced
  exact ⟨b, _, _, ⟨hprep, hent, startPublished (by rw [hent.frame]) (nodup_filter_seats _)⟩, hexec, hplaced⟩

/-- But for its board flags a seat is as the start's preparation left it. -/
theorem started_shares (h : Started s b e t gone cap x y) (i : Seat) : (t.seat i).ctx = (b.seat i).ctx ∧ (t.seat i).monitors = (b.seat i).monitors
    ∧ (t.seat i).tracker = (b.seat i).tracker ∧ (t.seat i).estimator = (b.seat i).estimator ∧ (t.seat i).channel = (b.seat i).channel := by
  rw [started_seat h]
  exact ⟨rfl, rfl, rfl, rfl, rfl⟩

theorem started_sound (h : Started s b e t gone cap x y) : t.ListSound 0 := by
  have ht := h.published.frame
  refine h.entered.sound.congr (by rw [ht]) (by rw [ht]) (by rw [ht]) (by rw [ht]) (by rw [ht]) (by rw [ht]) fun i => ?_
  rw [h.published.seat]
  split <;> exact ⟨rfl, rfl, rfl⟩

/-- The words that a start leaves alone. -/
theorem started_kept (h : Started s b e t gone cap x y) : wordsKept s t fun a => 32 ≤ a ∧ a ≤ 39 ∨ 41 ≤ a ∧ a ≤ 49 ∨ 64 ≤ a ∧ a < 152
    ∨ (∃ k < t.changeList.length, a = t.layout.changeList + k) ∨ ∃ p, a = s.dirPageWord p := fun a ha => by
  have hbword := words_congr (s := s) (t := b) (by rw [h.prepared.frame]) (by rw [h.prepared.frame]) a
  have harea : b.layout.pageArea = (s.dirWord 6).toNat := by rw [h.prepared.layout]; rfl
  have hlay : t.layout = b.layout := by rw [h.published.frame, h.entered.frame]
  have hlist : t.changeList = e.changeList := by rw [h.published.frame]
  rw [hlist, hlay] at ha
  have hk := h.entered.kept a fun hh => ha (by
    rw [harea] at hh
    rcases hh with hh | hh | hh | hh | hh | hh
    · exact .inl hh
    · exact .inr (.inl hh)
    · exact .inr (.inr (.inl hh))
    · exact .inr (.inr (.inr (.inl hh)))
    · exact .inr (.inr (.inr (.inr ⟨.a, hh⟩)))
    · exact .inr (.inr (.inr (.inr ⟨.b, hh⟩))))
  obtain ⟨h1, h2⟩ := started_words h a
  exact ⟨h1.trans (hk.1.trans hbword.1), h2.trans (hk.2.trans hbword.2)⟩

theorem filter_pages (f : Page → Bool) : [Page.a, Page.b].filter f = (if f .a = true then [.a] else []) ++ (if f .b = true then [.b] else []) := by
  rw [List.filter_cons, List.filter_cons, List.filter_nil]
  cases f .a <;> rfl

/-- Settles O60: the start enters RUNNING, and each clause is read off the block that it is about. -/
theorem successfulStart : Obligations.SuccessfulStart := by
  unfold Obligations.SuccessfulStart
  intro s hp hfits hreads hdir hpages htable hm hroster hlist count cap gone inRange listed overflow served
  obtain ⟨hlistSound, howed⟩ := changeListLaw_iff.1 hlist
  obtain ⟨b, e, t, h, hexec, hplaced⟩ := startGoes hp hfits hreads (startGood hdir hpages htable) (hpages .a).2 (hpages .b).2 hm hroster.2.2.2.1
    (listLawful_iff.2 ⟨hlistSound, howed⟩)
  obtain ⟨hxw, hxn, hxp⟩ := startablePage_spec (hpages .a).2
  obtain ⟨hyw, hyn, hyp⟩ := startablePage_spec (hpages .b).2
  generalize (startablePage (s.pageRead .a).value).getD .free = x at *
  generalize (startablePage (s.pageRead .b).value).getD .free = y at *
  have hframe := startedFrame h
  have hb := h.prepared.frame
  have he := h.entered.frame
  have ht := h.published.frame
  have hword := started_words h
  have hlay : t.layout = b.layout := by rw [ht, he]
  have hlayout : t.layout = s.startDirectory.layout := hlay.trans h.prepared.layout
  have hgens : t.generations = b.generations := by rw [ht, he]
  have hroster' : t.roster = b.roster := by rw [ht, he]
  have hlimit : t.floorLimit = b.floorLimit := by rw [ht, he]
  have hpolicy : t.floorPolicy = b.floorPolicy := by rw [ht, he]
  have htlist : t.changeList = e.changeList := by rw [ht]
  have htowed : t.owedCount = e.owedCount := by rw [ht]
  have htfill : t.fillCount = e.fillCount := by rw [ht]
  have httaken : t.takenCount = e.takenCount := by rw [ht]
  have hlists := prepared_lists (cap := cap) h.prepared
  have hcount : b.layout.seatCount = count := by rw [h.prepared.layout]; rfl
  have harea : b.layout.pageArea = (s.dirWord 6).toNat := by rw [h.prepared.layout]; rfl
  have hcauses : ∀ c, c ≠ .started → t.causeSet c = e.causeSet c := h.published.started.2
  have hbcauses : ∀ c, b.causeSet c = s.causeSet c := fun c => by rw [hb]; rfl
  have hother := started_shares h
  have hsound := started_sound h
  refine ⟨t, hexec, by rw [hframe], by rw [hframe], h.published.started.1, hlayout, by rw [hframe], started_setup h, ?_, fun i hi => ?_, fun i hi => ?_, fun i => ?_, ?_, fun l c => ?_, ?_,
    ?_, fun hnil => ?_, fun hcons => ?_, fun l => ?_, ?_, by rw [hframe], by rw [hframe], by rw [hframe], fun p => ?_, ?_, by rw [hframe], by rw [hframe], by rw [hframe], ?_, ?_, ?_, ?_,
    fun k hk => ?_, fun hcons => ?_, fun hnil => ?_, fun c hc hc' => ?_, ?_, ?_, ?_, ?_, fun l => ?_, ?_, ?_, ?_, ⟨fun k hk => ?_, ?_⟩, fun l k => ?_, fun a ha => ?_, hframe⟩
  · exact h.prepared.stores.congr rfl rfl (by rw [ht, he]) (by rw [ht, he]) hgens
  · obtain ⟨q1, q2, q3, q4, q5⟩ := hother i
    rw [h.prepared.seat, if_neg hi] at q1 q2 q3 q4 q5
    exact ⟨q1, q2, q3, q4, q5⟩
  · obtain ⟨q1, q2, q3, q4, q5⟩ := hother i
    rw [h.prepared.seat, if_pos hi] at q1 q2 q3 q4 q5
    rw [hgens]
    exact ⟨q1, q2, q3, q4, q5⟩
  · rw [started_board h hlistSound, State.overflow, hcount, hlists.2, hlists.1]
  · exact hsound.owed
  · have : t.carrier l c = b.carrier l c := by rw [ht, he]; rfl
    rw [this, h.prepared.carrier]
  · have : e.boardWrites = s.boardWrites := by rw [he, hb]
    rw [h.published.writes, this]
  · exact hroster'.trans h.prepared.roster
  · obtain ⟨r1, r2⟩ := h.prepared.emptyRules (hroster' ▸ hnil)
    refine ⟨hlimit.trans r1, ?_⟩
    rw [hpolicy.trans r2]
    show policyOf _ = _ ↔ _
    unfold policyOf
    split
    · next h0 => exact iff_of_true rfl h0
    · next h0 => exact iff_of_false (fun h => (nomatch h)) h0
  · obtain ⟨r1, r2⟩ := h.prepared.rules (hroster' ▸ hcons)
    exact ⟨hlimit.trans r1, hpolicy.trans r2⟩
  · intro sends
    rw [started_link h]
    rfl
  · rw [ht, he, hb]
  · have hA : t.pageA = x := by rw [ht, he]
    have hB : t.pageB = y := by rw [ht, he]
    cases p with
    | a => exact ⟨(congrArg pageNumber hA).trans hxn, by rw [(hword _).1, State.dirPageWord, if_pos rfl, ← harea, Nat.add_zero, h.entered.wordA, hxw]⟩
    | b => exact ⟨(congrArg pageNumber hB).trans hyn, by rw [(hword _).1, State.dirPageWord, if_neg (by decide), ← harea, h.entered.wordB, hyw]⟩
  · have hposting : t.posting = (if x = .posted then [.a] else []) ++ (if y = .posted then [.b] else []) := by rw [ht, he]
    rw [hposting, if_congr hxp rfl rfl, if_congr hyp rfl rfl, filter_pages]
    simp only [decide_eq_true_eq]
  · rw [htlist, h.entered.changeList, hlists.2, hlists.1]
  · rw [httaken, h.entered.taken, hb]
  · exact hsound.count
  · rw [htlist, show t.writePos = e.writePos by rw [ht], h.entered.writePos]
  · simp only [htlist] at hk ⊢
    rw [(hword _).1, hlay, h.entered.entries k hk]
  · rw [hcauses _ (by decide), h.entered.notified (htlist ▸ hcons)]
  · rw [hcauses _ (by decide), h.entered.quiet (htlist ▸ hnil), hbcauses]
  · rw [hcauses c hc', h.entered.causes c hc, hbcauses]
  · rw [(hword _).1, h.entered.low, hb]
  · rw [(hword _).1, h.entered.high, hb]
  · rw [(hword _).1, h.entered.passes, hb]
  · rw [(hword _).1, h.entered.late, hb]
  · have : t.link l = e.link l := by rw [ht]; rfl
    rw [(hword _).1, this]
    exact h.entered.summary l
  · rw [(hword _).1, h.entered.owedWord, htowed]
  · rw [(hword _).1, h.entered.fillWord, htfill]
  · rw [(hword _).1, h.entered.takenWord, httaken]
  · rw [(hword _).1, h.entered.floor.members k hk, ht]
  · rw [(hword _).1, h.entered.floor.rules, ht]
  · have := congrArg (fun z : Link => z.counters[k]) (h.prepared.setup l)
    rw [(hword _).1, h.entered.counters]
    exact congrArg word this
  · exact started_kept h a ha

end Sys2Proof.Machine
end

section
/-! PROOFS. The part's own access in a step that finds no command (R165). -/
namespace Sys2Proof.Machine
open Sys2Proof

variable {s t u : State} {w : PageWork} {b : Bulk} {i j : Seat} {e : BoardEntry} {rest : List BoardEntry} {a : Nat}

/-! Which access it is -/

theorem step_idle (h : s.pending = []) : step s = .next s.partAccess := by
  unfold step
  rw [h]

theorem partAccess_runs (h : s.part = .running ∨ s.part = .stopping) : s.partAccess = s.runAccess := by
  unfold State.partAccess
  rcases h with h | h <;> rw [h]

/-- The next slice of a LOAD RANGE opens without an access. -/
structure RangeOpens (s : State) (w : PageWork) (b : Bulk) : Prop where
  worked : s.worked = some w
  bulk : w.bulk = some b
  kind : b.kind = .loadRange
  boundary : b.atBoundary = true
  part : s.part = .running
  page : s.pageState w.page ≠ .aborting
  stays : ¬ (s.pageState (otherPage w.page) = .posted ∧ s.suspended = none ∧ b.suspendedMark = false)

/-- The share of the seat at a LOAD RANGE's cursor needs no further word and is not the last of its slice. -/
structure ShareStands (s : State) (w : PageWork) (b : Bulk) (i : Seat) : Prop where
  worked : s.worked = some w
  bulk : w.bulk = some b
  kind : b.kind = .loadRange
  inside : b.atBoundary = false
  cursor : b.cursor = i.val
  more : i.val + 1 < b.sliceEnd
  ended : (s.seat i).ctx.locked = true ∧ s.lift ≠ some i ∨ (∃ r ∈ s.reads, r.bad = true) ∨ 3 ≤ s.reads.length

theorem recordRead_iff {rs : List ReadWord} : recordRead rs = true ↔ (∃ r ∈ rs, r.bad = true) ∨ 3 ≤ rs.length := by
  rw [recordRead, Bool.or_eq_true, decide_eq_true_iff]
  refine or_congr_left ?_
  rw [← not_iff_not, Bool.not_eq_true, firstBadRead_isSome]
  simp

/-- The reading of the record at the cursor has ended, or is not made. -/
theorem nextRangeRead_none_iff (hk : b.kind = .loadRange) (hb : b.atBoundary = false) (hc : b.cursor = i.val) : s.nextRangeRead b = none ↔
    (s.seat i).ctx.locked = true ∧ s.lift ≠ some i ∨ (∃ r ∈ s.reads, r.bad = true) ∨ 3 ≤ s.reads.length := by
  have hseat : seatOfNat b.cursor = some i := by rw [hc]; exact dif_pos i.isLt
  unfold State.nextRangeRead
  rw [if_neg (by rw [hk, hb]; simp), hseat]
  dsimp only
  rw [← lockedUnlifted_iff, ← recordRead_iff, ← Bool.or_eq_true]
  split
  · next h => exact iff_of_true rfl h
  · next h => exact iff_of_false (fun h => (nomatch h)) h

/-- An order that asks has no work that needs no access. -/
theorem orderWork_none_of_asks {x : Option Nat} (hw : s.worked = some w) (h : s.OrderAsks w x) : s.orderWork = none := by
  cases ho : s.orderWork with
  | none => rfl
  | some t =>
    obtain ⟨v, b, hv, hb, hk, -, hcase⟩ := orderWork_cases ho
    cases hw.symm.trans hv
    cases x with
    | none => cases hb.symm.trans (orderAsks_none_iff.1 h).1
    | some a =>
      have hnext := ((orderAsks_bulk_iff hb).1 h).2
      rcases hcase with ⟨hready, -⟩ | ⟨hbound, -⟩
      · rw [State.shareReady, hnext] at hready
        simp at hready
      · rw [State.nextRangeRead, if_pos (.inr hbound)] at hnext
        cases hnext

theorem orderFirst_of_asks {x : Option Nat} (hw : s.worked = some w) (h : s.OrderAsks w x)
    (hfirst : ∀ e rest, s.boardWrites = e :: rest → e.behind = s.orderRequest) : s.runAccess = s.orderAccess :=
  runAccess_eq.2.1 (orderWork_none_of_asks hw h) (orderFirst_iff.2 ⟨(orderRequest_isSome_iff hw).2 ⟨x, h⟩, hfirst⟩)

theorem runAccess_opens (h : RangeOpens s w b) : s.runAccess = { s with worked := some { w with bulk := some b.opened }, reads := [] } := by
  refine runAccess_eq.1 _ ?_
  have hcut : s.boundaryCut w b = none := boundaryCut_none fun hh => hh.elim (fun hp => by rw [h.part] at hp; cases hp) h.page
  have hyield : s.yields w b = false := by
    rw [Bool.eq_false_iff]
    intro hy
    rw [State.yields, Bool.and_eq_true, Bool.and_eq_true, beq_iff_eq, Option.isNone_iff_eq_none, Bool.not_eq_true'] at hy
    exact h.stays ⟨hy.1.1, hy.1.2, hy.2⟩
  unfold State.orderWork
  rw [h.worked]
  dsimp only
  rw [h.bulk]
  dsimp only
  rw [if_pos (.inl h.part), State.rangeWork, State.shareReady, h.boundary, hcut, hyield, h.kind]
  rfl

theorem runAccess_share (hp : s.part = .running ∨ s.part = .stopping) (h : ShareStands s w b i) : s.runAccess = { (bulkSeat (s, b) i.val).1 with
    worked := some { w with bulk := some { (bulkSeat (s, b) i.val).2 with cursor := i.val + 1 } } } := by
  refine runAccess_eq.1 _ ?_
  have hready : s.shareReady b = true := by
    rw [State.shareReady, (nextRangeRead_none_iff h.kind h.inside h.cursor).2 h.ended, h.kind, h.inside, h.cursor]
    simpa using h.more
  unfold State.orderWork
  rw [h.worked]
  dsimp only
  rw [h.bulk]
  dsimp only
  rw [if_pos hp, State.rangeWork, if_pos hready, h.cursor]

/-- With no such work, and no access of the order before it, the board write at the front is served. -/
theorem runAccess_board (hcursor : ∀ w b, s.worked = some w → w.bulk = some b → b.stop ≤ 512 ∧ b.sliceLawful) (hopens : ∀ w b, ¬ RangeOpens s w b)
    (hshares : ∀ w b i, ¬ ShareStands s w b i)
    (hask : (∃ x w, s.worked = some w ∧ s.OrderAsks w x) → ¬ ∀ e rest, s.boardWrites = e :: rest → e.behind = s.orderRequest) : s.runAccess = s.boardAccess := by
  refine runAccess_eq.2.2 ?_ ?_
  · cases ho : s.orderWork with
    | none => rfl
    | some t =>
      obtain ⟨w, b, hw, hb, hk, hp, hcase⟩ := orderWork_cases ho
      rcases hcase with ⟨hready, -⟩ | ⟨hbound, hcut, hyield, -⟩
      · obtain ⟨hstop, hlaw⟩ := hcursor w b hw hb
        simp only [State.shareReady, Bool.and_eq_true, beq_iff_eq, Bool.not_eq_true', decide_eq_true_eq, Option.isNone_iff_eq_none] at hready
        obtain ⟨⟨⟨-, hin⟩, hmore⟩, hnone⟩ := hready
        have hlt : b.cursor < 512 := by
          rcases hlaw with h | ⟨-, -, h⟩
          · rw [hin] at h; cases h
          · omega
        exact absurd ⟨hw, hb, hk, hin, rfl, hmore, (nextRangeRead_none_iff (i := ⟨b.cursor, hlt⟩) hk hin rfl).1 hnone⟩ (hshares w b ⟨b.cursor, hlt⟩)
      · unfold State.boundaryCut at hcut
        split at hcut
        · cases hcut
        next hns =>
        split at hcut
        · cases hcut
        next hna =>
        refine absurd ⟨hw, hb, hk, hbound, hp.resolve_right hns, hna, fun ⟨h1, h2, h3⟩ => ?_⟩ (hopens w b)
        rw [State.yields, h1, h2, h3] at hyield
        cases hyield
  · rw [Bool.eq_false_iff]
    intro hf
    obtain ⟨hsome, hfirst⟩ := orderFirst_iff.1 hf
    cases hw : s.worked with
    | none =>
      rw [State.orderRequest, hw] at hsome
      cases hsome
    | some w =>
      obtain ⟨x, hx⟩ := (orderRequest_isSome_iff hw).1 hsome
      exact hask ⟨x, w, hw, hx⟩ hfirst

/-! What it leaves -/

/-- One word read: it is kept with its verdict, and bad parity is recorded. -/
theorem oneRead (hp : s.part ≠ .clearing) (h : step s = .next (s.readOne a)) : ∃ t, step s = .next t
    ∧ t.reads = s.reads ++ [{ addr := a, value := s.readWord a, bad := s.wordBad a }]
    ∧ (s.wordBad a = true → FaultReported s t a .parity)
    ∧ t = { s with reads := t.reads, faultLatch := if s.wordBad a then t.faultLatch else s.faultLatch, causes := if s.wordBad a then t.causes else s.causes } := by
  cases hb : s.wordBad a with
  | false =>
    rw [readOne_good hb] at h
    exact ⟨_, h, by rw [← hb]; rfl, fun hh => (nomatch hh), rfl⟩
  | true =>
    rw [readOne_bad hb] at h
    exact ⟨_, h, by rw [← hb]; rfl, fun _ => (faultReported_recordFault hp a .parity).congr rfl rfl rfl rfl, rfl⟩

/-- The first write waits for its next word behind what the order in hand asks for then. -/
def restamp (r : Option OrderRequest) : List BoardEntry → List BoardEntry
  | [] => []
  | e :: rest => { e with behind := r } :: rest

theorem askNextWord_eq : s.askNextWord = { s with boardWrites := restamp s.orderRequest s.boardWrites } := by
  cases h : s.boardWrites with
  | nil =>
    rw [askNextWord_nil h]
    show s = { s with boardWrites := [] }
    rw [← h]
  | cons e rest => rw [askNextWord_cons h]; rfl

theorem wordPut_orderRequest {es : List BoardEntry} : (s.wordPut i e es).orderRequest = s.orderRequest :=
  orderRequest_congr (t := s.wordPut i e es) rfl rfl (fun p => by cases p <;> rfl) rfl rfl rfl rfl locked_of_board

/-- A word of the write at the front before its last one. -/
theorem boardAccess_next (h : s.boardWrites = e :: rest) (hw : e.written < 11) : s.boardAccess
    = { s.wordPut e.seat e [] with boardWrites := restamp s.orderRequest ({ e with written := e.written + 1 } :: rest) } := by
  rw [boardAccess_cons h, boardWord_next (pre := []) (post := rest) ⟨h, fun _ hx => (nomatch hx), rfl⟩ hw, askNextWord_eq, wordPut_orderRequest]
  rfl

theorem entryWords_here {k : Nat} {x : Word} : entryWords a e x k (k + 1) (a + k) = some (entryWord e x k) := by
  rw [entryWords, if_pos (by omega), Nat.add_sub_cancel_left]

theorem entryWords_else {k n : Nat} {x : Word} (h : n ≠ a + k) : entryWords a e x k (k + 1) n = none := if_neg (by omega)

/-- A word of the write at the front put in its place, and nothing else stored. -/
theorem wordPut_words {es : List BoardEntry} (hm : s.memoryLaw) (ha : s.layout.boardAddr i + e.written < 16384) :
    (s.wordPut i e es).readWord (s.layout.boardAddr i + e.written) = entryWord e (s.stampOf i e) e.written
      ∧ wordsKept s (s.wordPut i e es) (· = s.layout.boardAddr i + e.written) := by
  have hput := entryPut_one (i := i) (e := e) hm ha es
  exact ⟨hput.words.written entryWords_here, hput.words.kept fun n hn => entryWords_else hn⟩

theorem setBoard_self : s.setBoard i (s.seat i).board = s := by
  have h : s.seats.set i (s.seat i) = s.seats := Vector.set_getElem_self i.isLt
  show { s with seats := s.seats.set i (s.seat i) } = s
  rw [h]

/-- After the open stamp no word of a write changes the seat. -/
theorem wordPut_seats {es : List BoardEntry} (hn : e.written ≠ 0) : (s.wordPut e.seat e es).seats = s.seats := by
  show (s.setBoard e.seat { (s.seat e.seat).board with stamp := s.stampOf e.seat e }).seats = s.seats
  rw [show s.stampOf e.seat e = (s.seat e.seat).board.stamp from if_neg hn]
  exact congrArg State.seats setBoard_self

/-- The open stamp (R156). -/
theorem boardAccess_opens (hm : s.memoryLaw) (h : s.boardWrites = e :: rest) (hn : e.written = 0) (ha : s.layout.boardAddr e.seat + e.written < 16384)
    (hs : step s = .next s.boardAccess) : ∃ t, step s = .next t ∧ t.readWord (s.layout.boardAddr e.seat + e.written) = (s.seat e.seat).board.stamp + 1
      ∧ wordsKept s t (· = s.layout.boardAddr e.seat + e.written)
      ∧ t.seat e.seat = { s.seat e.seat with board := { (s.seat e.seat).board with stamp := (s.seat e.seat).board.stamp + 1 } } ∧ seatsKept s t (· = e.seat)
      ∧ t = { s with ram := t.ram, badParity := t.badParity, seats := t.seats, boardWrites := restamp s.orderRequest ({ e with written := 1 } :: rest) } := by
  have hstamp : s.stampOf e.seat e = (s.seat e.seat).board.stamp + 1 := if_pos hn
  have hput := entryPut_one (i := e.seat) (e := e) hm ha []
  obtain ⟨hword, hkept⟩ := wordPut_words (es := []) hm ha
  rw [boardAccess_next h (by omega)] at hs
  generalize s.wordPut e.seat e [] = v at *
  rw [hstamp] at hword
  refine ⟨_, hs, ?_, hkept, hput.seat.trans (by rw [hstamp]), hput.seats, ?_⟩
  · refine hword.trans ?_
    rw [hn]; rfl
  · conv_lhs => rw [hput.frame]
    rw [hn]

/-- A body word (R156, R183). -/
theorem boardAccess_body (hm : s.memoryLaw) (h : s.boardWrites = e :: rest) (h1 : 1 ≤ e.written) (h11 : e.written < 11)
    (ha : s.layout.boardAddr e.seat + e.written < 16384) (hs : step s = .next s.boardAccess) :
    ∃ t, step s = .next t ∧ t.readWord (s.layout.boardAddr e.seat + e.written) = (e.body[e.written - 1]?).getD 0
      ∧ wordsKept s t (· = s.layout.boardAddr e.seat + e.written)
      ∧ t = { s with ram := t.ram, badParity := t.badParity, boardWrites := restamp s.orderRequest ({ e with written := e.written + 1 } :: rest) } := by
  have hstamp : s.stampOf e.seat e = (s.seat e.seat).board.stamp := if_neg (by omega)
  have hseats := wordPut_seats (s := s) (e := e) (es := []) (by omega)
  have hput := entryPut_one (i := e.seat) (e := e) hm ha []
  obtain ⟨hword, hkept⟩ := wordPut_words (es := []) hm ha
  rw [boardAccess_next h h11] at hs
  generalize s.wordPut e.seat e [] = v at *
  refine ⟨_, hs, hword.trans ?_, hkept, ?_⟩
  · rw [entryWord, if_neg (by omega)]
  · conv_lhs => rw [hput.frame, hseats]

/-- The close stamp ends the write, and a change write's seat is offered, as BOARD_WRITE does (R156, R158). -/
theorem boardAccess_closes (hp : s.part = .running ∨ s.part = .stopping) (hm : s.memoryLaw) (hl : s.layoutSound) (hlaw : s.changeListLaw)
    (hi : e.seat.val < s.layout.seatCount) (h : s.boardWrites = e :: rest) (hn : e.written = 11) (ha : s.layout.boardAddr e.seat + e.written < 16384)
    (hs : step s = .next s.boardAccess) : ∃ t u, step s = .next t ∧ exec (.boardWrite e.seat) s = .next u ∧ u.boardWrites = rest
      ∧ u.readWord (s.layout.boardAddr e.seat + e.written) = (s.seat e.seat).board.stamp
      ∧ (e.change = false → wordsKept s u (· = s.layout.boardAddr e.seat + e.written) ∧ u = { s with ram := u.ram, badParity := u.badParity, boardWrites := rest })
      ∧ t = { u with boardWrites := restamp s.orderRequest rest } := by
  have hwait : Waits s e.seat [] e rest := ⟨h, fun _ hx => (nomatch hx), rfl⟩
  have hexec := exec_boardWrite e.seat s
  rw [if_pos hp, State.finishBoardWrite, hwait.find] at hexec
  dsimp only at hexec
  rw [hn] at hexec
  have hlast := boardWord_last hwait hn
  obtain ⟨u, hu, hwords, hwrites, hseat, -, -, -, -, -, -, hseats, -, hframe⟩ :=
    (boardWriteOffersSeat s e.seat).2.1 e hp hwait.find (by omega) hm hlaw hl hi
  have hue : s.boardWord e.seat = u := Host.Outcome.next.inj (hexec.symm.trans hu)
  rw [hue] at hlast
  have hrest : u.boardWrites = rest := by rw [hwrites, h, List.erase_cons_head]
  have hrequest : u.orderRequest = s.orderRequest := by
    refine orderRequest_congr (by rw [hframe]) (by rw [hframe]) (fun p => ?_) (by rw [hframe]) (by rw [hframe]) (by rw [hframe]) (by rw [hframe]) fun j => ?_
    · rw [hframe]; cases p <;> rfl
    · by_cases hj : j = e.seat
      · rw [hj, hseat]
      · rw [hseats j hj]
  rw [boardAccess_cons h, hue, askNextWord_eq, hrequest, hrest] at hs
  refine ⟨_, u, hs, hu, hrest, ?_, fun hc => ?_, rfl⟩
  · rw [hn]
    refine (hwords 11 (by omega) (Nat.le_refl _)).trans ?_
    rw [if_pos (.inr rfl), if_neg (by omega)]
  · rw [hc, if_neg (by decide), List.nil_append] at hlast
    rw [hlast]
    have hframe := (entryPut_one (i := e.seat) (e := e) hm ha rest).frame
    rw [wordPut_seats (by omega)] at hframe
    exact ⟨(wordPut_words hm ha).2, hframe⟩

/-- Settles O2: which access is served follows from the order of the requests, and each access is one of those above. -/
theorem idleStepServesOneAccess : Obligations.IdleStepServesOneAccess := by
  unfold Obligations.IdleStepServesOneAccess
  intro s hidle reads asks first opens shares quiet restamped
  have hstep := step_idle hidle
  refine ⟨fun hp => ?_, fun hp hm hc => ?_, fun hp a ha => ?_, fun hp hm hpage hlay => ?_⟩
  · rw [hstep, State.partAccess, hp]
  · rw [State.partAccess, hp] at hstep
    dsimp only at hstep
    rw [State.clearAccess, if_pos (show s.clearNext < ramWords from hc)] at hstep
    have hw := (Wrote.refl hm).put hc 0
    exact ⟨_, hstep, hw.written (Function.update_self _ _ _), (hw.bad _).trans (by rw [Function.update_self]; rfl), hw.kept fun a ha => Function.update_of_ne ha _ _, rfl⟩
  · rw [State.partAccess, hp] at hstep
    dsimp only at hstep
    rw [State.checkAccess, ha] at hstep
    exact oneRead (by rw [hp]; decide) hstep
  · obtain ⟨-, hcount, -, -, hl⟩ := hlay hp
    obtain ⟨-, -, hworked, -⟩ := hpage
    rw [partAccess_runs hp] at hstep
    have hnc : s.part ≠ .clearing := by rcases hp with h | h <;> rw [h] <;> decide
    have hboard : quiet → s.runAccess = s.boardAccess := fun ⟨hopens, hshares, hask⟩ =>
      runAccess_board (fun w b hw hb => by
          obtain ⟨-, -, hstop, -, -, hslice⟩ := (hworked w hw).1.2.2 b hb
          exact ⟨by omega, hslice⟩)
        (fun w b h => hopens w b ⟨h.worked, h.bulk, h.kind, h.boundary, h.part, h.page, h.stays⟩)
        (fun w b i h => hshares w b i ⟨h.worked, h.bulk, h.kind, h.inside, h.cursor, h.more, h.ended⟩) hask
    refine ⟨fun w hw ha hf => ?_, fun a ⟨w, hw, ha⟩ hf => ?_, fun w b ⟨h1, h2, h3, h4, h5, h6, h7⟩ => ?_, fun w b i ⟨h1, h2, h3, h4, h5, h6, h7⟩ hlen => ?_,
      fun e rest hq hb hi => ?_, fun hq hb => ?_⟩
    · rw [orderFirst_of_asks hw ha hf, (orderAccess_eq hw).1 ha] at hstep
      have hbegun := (orderAsks_none_iff.1 ha).2.1
      obtain ⟨hframe, hreads, hword, hkept, -⟩ := beginSlot_spec hw hm (pageBase_le hl w.page)
      refine ⟨_, hstep, hword hbegun, fun a ha => hkept a fun hh => ha hh.1, ?_⟩
      rw [hbegun, if_neg (by decide)] at hreads
      rw [hreads] at hframe
      exact hframe
    · rw [orderFirst_of_asks hw ha hf, (orderAccess_eq hw).2 a ha] at hstep
      exact oneRead hnc hstep
    · rw [runAccess_opens ⟨h1, h2, h3, h4, h5, h6, h7⟩] at hstep
      refine ⟨_, hstep, ?_⟩
      rw [Bulk.opened, Nat.min_def]; rfl
    · rw [runAccess_share hp ⟨h1, h2, h3, h4, h5, h6, h7⟩] at hstep
      obtain ⟨-, -, hstop, -, -, hslice⟩ := (hworked w h1).1.2.2 b h2
      have hi : i.val < s.layout.seatCount := by
        rcases hslice with h | ⟨-, -, h⟩
        · rw [h4] at h; cases h
        · omega
      have hshare := oneShare (b := b) hi ⟨hm, hp, ⟨w, b, h1, h2, rfl⟩, hlen, Nat.le_refl _⟩
      rw [h3] at hshare
      exact ⟨_, _, _, hstep, hshare, rfl⟩
    · rw [hboard hq] at hstep
      have hfit := (board_region hl (by omega)).2
      have haddr : s.layout.boardAddr e.seat = s.layout.board + 12 * e.seat.val := rfl
      exact ⟨fun hn => boardAccess_opens hm hb hn (by omega) hstep, fun hn hn' => boardAccess_body hm hb hn hn' (by omega) hstep,
        fun hn hlaw => boardAccess_closes hp hm hl hlaw hi hb hn (by omega) hstep⟩
    · rw [hboard hq, boardAccess_nil hb] at hstep
      exact hstep

end Sys2Proof.Machine
end
